-- ==== Sys2Proof/Word.lean ====
section
/-! DEFINITION. The word types of the Pleden and their plainest arithmetic (00 R4, R5, R9). -/

namespace Sys2Proof

/-- A doubleword, the width of s, a and x registers (06 R121, 08 R157). -/
abbrev Word := BitVec 64

/-- A byte (00 R5). -/
abbrev Byte := BitVec 8

/-- A vector register, load-queue entry or latch: 2,048 bits (08 R157). -/
abbrev Vec := BitVec 2048

/-- A shape register: 512 bits (06 R132). -/
abbrev Shape := BitVec 512

/-- A lane mask, one bit for each byte lane (08 R157). -/
abbrev Mask := BitVec 256

/-- The field [lo+len-1:lo] of a number, the helper bits() of 00 R9. -/
def field (n lo len : Nat) : Nat := n / 2 ^ lo % 2 ^ len

/-- One bit of a number. -/
def bitOf (n k : Nat) : Bool := n / 2 ^ k % 2 == 1

/-- A bit as a number. -/
def b2n (b : Bool) : Nat := if b then 1 else 0

/-- a minus b, 0 where b is greater. Evaluating it at a variable a stops at once, however great the numeral b. -/
def minus (a b : Nat) : Nat := ((a : Int) - (b : Int)).toNat

/-- An unsigned n-bit number read as two's complement. -/
def signedOf (bits n : Nat) : Int := if n % 2 ^ bits < 2 ^ (bits - 1) then (n % 2 ^ bits : Int) else (n % 2 ^ bits : Int) - 2 ^ bits

/-- Two's complement of an integer in `bits` bits, as a number: the wrap of 00 R9. -/
def wrapTo (bits : Nat) (z : Int) : Nat := (z % (2 ^ bits : Int)).toNat

/-- The clamp of 00 R9 to the signed range of `bits` bits. -/
def satTo (bits : Nat) (z : Int) : Int := max (-(2 ^ (bits - 1) : Int)) (min z (2 ^ (bits - 1) - 1))

end Sys2Proof
end

