-- ==== Sys2Proof/Config.lean ====
section
/-! DEFINITION. What an implementation fixes and the spec leaves open. -/

namespace Sys2Proof

/-- Byte k of what an implementation stores in the regions of a save area whose layout is private (16 R355;
notes/assumptions/4.md), and of what configuration space holds (19 R381; notes/assumptions/17.md). Nothing is known of it. -/
opaque Config.freeByte : Nat → BitVec 8

/-- The four bytes of a child queue's entry for a record (14 R302; notes/assumptions/42.md). Nothing is known of them. -/
opaque Config.childEntry : Nat → BitVec 32

/-- The flits that the model does not make and that a tile has originated in the 65,536 cycles before a cycle (17 R359;
notes/assumptions/16.md). Nothing is known of their number. -/
opaque Config.freeFlits : Nat → Nat → BitVec 18

end Sys2Proof
end

