-- ==== Sys2Proof/Operand.lean ====
section
/-! DEFINITION. The operand forms of Irosh words (02 R26 to R34, 03 R44 to R63) and the contents of the package's events. -/

namespace Sys2Proof

/-- The three streams of a core (05 R92). -/
inductive Stream | c | a | x
  deriving DecidableEq, Repr

/-- Who moves: a stream of a core (05 R92). -/
structure Agent where
  core : Nat
  st   : Stream
  deriving DecidableEq, Repr

/-- An s or a register number (02 R26). -/
abbrev Reg := Fin 32
/-- A predicate, queue, latch or mask number. -/
abbrev N8 := Fin 8
/-- An x scalar index or shape register number. -/
abbrev N16 := Fin 16
/-- A copy tag (02 R30). -/
abbrev Tag := Fin 64

/-- A guard (02 R33): negate and predicate index. -/
structure Guard where
  neg : Bool
  p   : N8
  deriving DecidableEq, Repr

/-- Source operand of an X word (02 R27). -/
inductive Src | v (n : Reg) | q (n : N8) | l (n : N8) | x (n : N8)
  deriving DecidableEq, Repr

/-- Destination operand of an X word (02 R27); `none` is the latch-only form. -/
inductive Dst | v (n : Reg) | q (n : N8) | none
  deriving DecidableEq, Repr

/-- Element formats of X words (03 R50). -/
inductive Fmt | f32 | f16 | bf16 | i32 | i16 | i8
  deriving DecidableEq, Repr

/-- Conversion formats of VCVT (08 R173). -/
inductive CFmt | f32 | f16 | bf16 | e5m2 | t8 | i32 | i16 | i8
  deriving DecidableEq, Repr

/-- The 8-bit formats of VQNT, VDQNT and QSCALE (08 R174, R176). -/
inductive QFmt | t8 | e5m2 | i8 | u8
  deriving DecidableEq, Repr

/-- Matrix formats (03 R62). -/
inductive MFmt | f16 | bf16 | i8 | t8 | e5m2 | t8e5 | e5t8
  deriving DecidableEq, Repr

/-- Modes of MDRAIN (09 R205). -/
inductive DrainMode | plain | i8 | u8
  deriving DecidableEq, Repr

/-- Conditions (03 R59). -/
inductive Cond | eq | ne | lt | ltu | ge | geu
  deriving DecidableEq, Repr

/-- Width codes of layout ME (03 R59). -/
inductive MemW | b | h | w | d | bu | hu | wu
  deriving DecidableEq, Repr

/-- Widths of SEXT and ZEXT (06 R123). -/
inductive ExtW | b | h | w
  deriving DecidableEq, Repr

/-- Scopes (03 R59, 10 R230). -/
inductive Scope | core | tile | orbit | die | pkg | sys
  deriving DecidableEq, Repr

/-- Ordering flags of an engine command (03 R61, R62). -/
structure OrdF where
  acq : Bool
  rel : Bool
  sc  : Scope
  deriving DecidableEq, Repr

/-- Shape fields by code (03 R59). -/
inductive ShField | base | ext0 | ext1 | ext2 | ext3 | str1 | str2 | str3 | fmt | layout | albn | albf | gver | sync | qfrac
  deriving DecidableEq, Repr

/-- What a branch-queue word moves (07 R151): a predicate or a register of the stream. -/
inductive BqA | pred (p : N8) | reg (r : Reg)
  deriving DecidableEq, Repr
/-- The X stream's form of `BqA`. -/
inductive BqX | pred (p : N8) | x (r : N16)
  deriving DecidableEq, Repr

/-- Row of an accumulator access (10 R219). -/
inductive RowSel | lit (r : Fin 128) | x (r : N16)
  deriving DecidableEq, Repr

/-- Element width of XLANE (08 R183). -/
inductive LaneW | b | h | w | d
  deriving DecidableEq, Repr

/-- Rounding modes (04 R78). -/
inductive Rnd | rne | rtz | rdn | rup | sr | rna
  deriving DecidableEq, Repr

/-- A prefix as its word holds it (03 R52, R53): the guarded form has a guard, MSEL 0 and SAT 0. -/
structure Pfx where
  guard : Option Guard
  rnd   : N8
  msel  : N8
  iq    : N16
  sat   : Bool
  deriving DecidableEq, Repr

/-- The fates of an encoding that is no instruction, in the order of report (03 R64, R65). -/
inductive Fate | blockHeader | illegalWord | reservedField | queueDirection
  deriving DecidableEq, Repr

/-- Originator class of a flit (17 R359, R361). -/
inductive FlitClass | core | copy | memctl | acc | hbu
  deriving DecidableEq, Repr

/-- A partial that an engine sends to an albedo record as one merge message (13 R286, R287). -/
structure Partial where
  recno  : Nat
  maxabs : Nat
  nanc   : Nat
  infc   : Nat
  zeroc  : Nat
  satc   : Nat
  /-- counts by bin, bins not listed are 0 -/
  hist   : List (Nat × Nat)
  deriving DecidableEq, Repr

/-- What sends a merge message (13 R286): the drain of a store queue, a VQNT, a copy command with its tag, a matrix command with its
batch. -/
inductive MergeSrc
  | queue
  | vqnt
  | copy (id : Nat) (tag : Tag)
  | matrix (id : Nat) (batch : N8)
  deriving DecidableEq, Repr

/-- What a beat or vote flit holds (17 R359, R360). -/
structure Beat where
  tile  : Nat
  /-- 1 BEAT, 2 APPEAL, 3 VOTE -/
  kind  : Nat
  seq   : Nat
  acc   : Nat
  lift  : Nat
  status : Nat
  susp  : Nat
  inj   : Nat
  sig   : Nat
  /-- false: the CRC failed or a reserved field was non-zero -/
  crcOk : Bool
  deriving DecidableEq, Repr

/-- What waits for the reply to a flit (17 R367): a core's C run, a stream's load in flight, a copy channel, a matrix array. -/
inductive FlitSender
  | run (core : Nat)
  | loadC (core : Nat)
  | loadA (core : Nat)
  | loadX (core : Nat)
  | copy (tile ch : Nat)
  | matrix (tile : Nat)
  deriving DecidableEq, Repr

/-- A flit that reaches a port (17 R361, R367). -/
structure Flit where
  /-- tile whose port receives it -/
  at_    : Nat
  /-- direction of the neighbour it comes from -/
  dir    : Nat
  /-- tile that originated it -/
  origin : Nat
  cls    : FlitClass
  wellFormed : Bool
  /-- what waits for a reply when it is returned -/
  sender : Option FlitSender
  /-- tile it is addressed to and whether that is the compute domain -/
  dest   : Nat
  toCompute : Bool
  deriving DecidableEq, Repr

/-- One access of a memory controller to one line (12 R279). `va` is the address word the write carries (11 R248);
`gver` the version it stamps. -/
structure LineReq where
  /-- first byte, a device physical address in DRAM or in the decompressing aperture -/
  dpa   : Nat
  /-- bytes to write; none in a position leaves the byte -/
  bytes : List (Option Byte)
  va    : Option Nat
  gver  : Option Nat
  deriving DecidableEq, Repr

/-- A request performed at a home (01 R408). -/
inductive HomeReq
  /-- QSCALE of a record (08 R176): requesting core, x destination, format, headroom -/
  | qscale (core : Nat) (xd : N16) (fm : QFmt) (h : N16) (recno : Nat) (flight : Nat)
  /-- setting of RESCALE-pending by a trapped VQNT (08 R175) -/
  | rescale (recno : Nat)
  deriving DecidableEq, Repr

/-- Kinds of host requests (19 R381); `held`: the oldest request that stood behind a write that waited, tried again. -/
inductive HostKind | memory | config | held
  deriving DecidableEq, Repr

/-- What the host link asks for (19 R381). fn 0 is PF, 1 + v is VF v. -/
structure HostReq where
  kind  : HostKind
  fn    : Nat
  write : Bool
  dpa   : Nat
  len   : Nat
  bytes : List Byte
  deriving DecidableEq, Repr

/-- What a span-link flit carries (19 R385). -/
structure SpanFlit where
  link  : Nat
  crcOk : Bool
  /-- a write into this package: DPA, bytes, version stamped by the sending command -/
  dpa   : Nat
  bytes : List Byte
  gver  : Nat
  /-- a CPYR addition into the accumulator window of this package: FP32 or INT32 at window offset -/
  add   : Option (Bool × Nat × Nat)
  /-- a CPYR's setting of a sticky flag word at window offset (11 R252) -/
  flag  : Option Nat
  deriving DecidableEq, Repr

end Sys2Proof
end

