-- ==== Sys2Proof/Syntax.lean ====
section
/-! DEFINITION. The instruction words and events of the Pleden: one constructor for each row of the opcode table. -/

namespace Sys2Proof

/-- One row of the opcode table each: the words of the C, A and X streams (03 R57 to R63) with the operands their encodings
give, then the events of the package (95_what_each_step_holds.md), whose data an `Event` holds. -/
inductive Instr
  /-- ADD (R123). -/
  | add (g : Guard) (d : Reg) (a : Reg) (b : Reg)
  /-- SUB (R123). -/
  | sub (g : Guard) (d : Reg) (a : Reg) (b : Reg)
  /-- MUL (R123). -/
  | mul (g : Guard) (d : Reg) (a : Reg) (b : Reg)
  /-- MULH (R123). -/
  | mulh (g : Guard) (d : Reg) (a : Reg) (b : Reg)
  /-- MULHU (R123). -/
  | mulhu (g : Guard) (d : Reg) (a : Reg) (b : Reg)
  /-- DIV (R124). -/
  | div (g : Guard) (d : Reg) (a : Reg) (b : Reg)
  /-- DIVU (R124). -/
  | divu (g : Guard) (d : Reg) (a : Reg) (b : Reg)
  /-- REM (R124). -/
  | rem (g : Guard) (d : Reg) (a : Reg) (b : Reg)
  /-- REMU (R124). -/
  | remu (g : Guard) (d : Reg) (a : Reg) (b : Reg)
  /-- AND (R123). -/
  | and (g : Guard) (d : Reg) (a : Reg) (b : Reg)
  /-- OR (R123). -/
  | or (g : Guard) (d : Reg) (a : Reg) (b : Reg)
  /-- XOR (R123). -/
  | xor (g : Guard) (d : Reg) (a : Reg) (b : Reg)
  /-- ANDN (R123). -/
  | andn (g : Guard) (d : Reg) (a : Reg) (b : Reg)
  /-- SHL (R123). -/
  | shl (g : Guard) (d : Reg) (a : Reg) (b : Reg)
  /-- SHR (R123). -/
  | shr (g : Guard) (d : Reg) (a : Reg) (b : Reg)
  /-- SRA (R123). -/
  | sra (g : Guard) (d : Reg) (a : Reg) (b : Reg)
  /-- MIN (R123). -/
  | min (g : Guard) (d : Reg) (a : Reg) (b : Reg)
  /-- MAX (R123). -/
  | max (g : Guard) (d : Reg) (a : Reg) (b : Reg)
  /-- MINU (R123). -/
  | minu (g : Guard) (d : Reg) (a : Reg) (b : Reg)
  /-- MAXU (R123). -/
  | maxu (g : Guard) (d : Reg) (a : Reg) (b : Reg)
  /-- CLZ (R123). -/
  | clz (g : Guard) (d : Reg) (a : Reg)
  /-- CTZ (R123). -/
  | ctz (g : Guard) (d : Reg) (a : Reg)
  /-- POPC (R123). -/
  | popc (g : Guard) (d : Reg) (a : Reg)
  /-- SEXT (R123). -/
  | sext (g : Guard) (d : Reg) (a : Reg) (wd : ExtW)
  /-- ZEXT (R123). -/
  | zext (g : Guard) (d : Reg) (a : Reg) (wd : ExtW)
  /-- SEL (R123). -/
  | sel (g : Guard) (p : N8) (d : Reg) (a : Reg) (b : Reg)
  /-- AADD (R123). -/
  | aadd (g : Guard) (d : Reg) (a : Reg) (b : Reg)
  /-- ASUB (R123). -/
  | asub (g : Guard) (d : Reg) (a : Reg) (b : Reg)
  /-- AMUL (R123). -/
  | amul (g : Guard) (d : Reg) (a : Reg) (b : Reg)
  /-- AAND (R123). -/
  | aand (g : Guard) (d : Reg) (a : Reg) (b : Reg)
  /-- AOR (R123). -/
  | aor (g : Guard) (d : Reg) (a : Reg) (b : Reg)
  /-- AMIN (R123). -/
  | amin (g : Guard) (d : Reg) (a : Reg) (b : Reg)
  /-- AMAX (R123). -/
  | amax (g : Guard) (d : Reg) (a : Reg) (b : Reg)
  /-- ADDI (R125). -/
  | addi (g : Guard) (d : Reg) (a : Reg) (imm : BitVec 11)
  /-- ANDI (R125). -/
  | andi (g : Guard) (d : Reg) (a : Reg) (imm : BitVec 11)
  /-- ORI (R125). -/
  | ori (g : Guard) (d : Reg) (a : Reg) (imm : BitVec 11)
  /-- XORI (R125). -/
  | xori (g : Guard) (d : Reg) (a : Reg) (imm : BitVec 11)
  /-- SHLI (R125). -/
  | shli (g : Guard) (d : Reg) (a : Reg) (sh : Fin 64)
  /-- SHRI (R125). -/
  | shri (g : Guard) (d : Reg) (a : Reg) (sh : Fin 64)
  /-- SRAI (R125). -/
  | srai (g : Guard) (d : Reg) (a : Reg) (sh : Fin 64)
  /-- LI (R125). -/
  | li (g : Guard) (d : Reg) (imm : BitVec 16)
  /-- LUI (R125). -/
  | lui (g : Guard) (d : Reg) (imm : BitVec 16)
  /-- AADDI (R125). -/
  | aaddi (g : Guard) (d : Reg) (a : Reg) (imm : BitVec 11)
  /-- ASHLI (R125). -/
  | ashli (g : Guard) (d : Reg) (a : Reg) (sh : Fin 64)
  /-- ASHRI (R125). -/
  | ashri (g : Guard) (d : Reg) (a : Reg) (sh : Fin 64)
  /-- ALI (R125). -/
  | ali (g : Guard) (d : Reg) (imm : BitVec 16)
  /-- ALUI (R125). -/
  | alui (g : Guard) (d : Reg) (imm : BitVec 16)
  /-- ADDI_SHORT (R56). -/
  | addiShort (d : Reg) (imm : BitVec 6)
  /-- LI_SHORT (R56). -/
  | liShort (d : Reg) (imm : BitVec 6)
  /-- ADD_SHORT (R56). -/
  | addShort (d : Reg) (b : Reg)
  /-- SUB_SHORT (R56). -/
  | subShort (d : Reg) (b : Reg)
  /-- AADDI_SHORT (R56). -/
  | aaddiShort (d : Reg) (imm : BitVec 6)
  /-- ALI_SHORT (R56). -/
  | aliShort (d : Reg) (imm : BitVec 6)
  /-- CMP (R126). -/
  | cmp (g : Guard) (cc : Cond) (pd : N8) (a : Reg) (b : Reg)
  /-- CMPI (R126). -/
  | cmpi (g : Guard) (cc : Cond) (pd : N8) (a : Reg) (imm : BitVec 8)
  /-- ACMP (R126). -/
  | acmp (g : Guard) (cc : Cond) (pd : N8) (a : Reg) (b : Reg)
  /-- ACMPI (R126). -/
  | acmpi (g : Guard) (cc : Cond) (pd : N8) (a : Reg) (imm : BitVec 8)
  /-- PAND (R127). -/
  | pand (g : Guard) (pd : N8) (pa : N8) (pb : N8)
  /-- POR (R127). -/
  | por (g : Guard) (pd : N8) (pa : N8) (pb : N8)
  /-- PXOR (R127). -/
  | pxor (g : Guard) (pd : N8) (pa : N8) (pb : N8)
  /-- PNOT (R127). -/
  | pnot (g : Guard) (pd : N8) (pa : N8)
  /-- PMOV (R127). -/
  | pmov (g : Guard) (pd : N8) (pa : N8)
  /-- LD (R129). -/
  | ld (g : Guard) (wd : MemW) (r : Reg) (b : Reg) (disp : BitVec 8)
  /-- ST (R129). -/
  | st (g : Guard) (wd : MemW) (r : Reg) (b : Reg) (disp : BitVec 8)
  /-- LDS (R130). -/
  | lds (g : Guard) (wd : MemW) (r : Reg) (b : Reg) (disp : BitVec 8)
  /-- STS (R130). -/
  | sts (g : Guard) (wd : MemW) (r : Reg) (b : Reg) (disp : BitVec 8)
  /-- EXIT_C (R104). -/
  | exitC (g : Guard) (off : BitVec 21)
  /-- EXIT_C_SHORT (R104). -/
  | exitCShort (g : Guard) (off : BitVec 7)
  /-- EXITS (R105). -/
  | exits (g : Guard) (a : Reg)
  /-- CALL (R106). -/
  | call (g : Guard) (off : BitVec 21)
  /-- RET (R106). -/
  | ret (g : Guard)
  /-- RET_SHORT (R106). -/
  | retShort
  /-- DISP_A (R107). -/
  | dispA (g : Guard) (narg : Fin 5) (desc : Fin 64) (entry : BitVec 12)
  /-- DISP_X (R107). -/
  | dispX (g : Guard) (narg : Fin 5) (desc : Fin 64) (entry : BitVec 12)
  /-- DJOIN (R113). -/
  | djoin (g : Guard) (x : Bool) (a : Bool)
  /-- OVSWAP (R311). -/
  | ovswap (g : Guard) (a : Reg)
  /-- AMADD (R222). -/
  | amadd (g : Guard) (dw : Bool) (d : Reg) (a : Reg) (b : Reg)
  /-- AMMIN (R222). -/
  | ammin (g : Guard) (dw : Bool) (d : Reg) (a : Reg) (b : Reg)
  /-- AMMAX (R222). -/
  | ammax (g : Guard) (dw : Bool) (d : Reg) (a : Reg) (b : Reg)
  /-- AMAND (R222). -/
  | amand (g : Guard) (dw : Bool) (d : Reg) (a : Reg) (b : Reg)
  /-- AMOR (R222). -/
  | amor (g : Guard) (dw : Bool) (d : Reg) (a : Reg) (b : Reg)
  /-- AMXOR (R222). -/
  | amxor (g : Guard) (dw : Bool) (d : Reg) (a : Reg) (b : Reg)
  /-- AMSWP (R222). -/
  | amswp (g : Guard) (dw : Bool) (d : Reg) (a : Reg) (b : Reg)
  /-- AMCAS (R222). -/
  | amcas (g : Guard) (dw : Bool) (d : Reg) (a : Reg) (b : Reg)
  /-- BIND (R229). -/
  | bind (g : Guard) (o : Reg) (b : Reg) (len : Reg)
  /-- UNBIND (R229). -/
  | unbind (g : Guard) (o : Reg)
  /-- ACQ (R232). -/
  | acq (g : Guard) (o : Reg) (sc : Scope)
  /-- REL (R233). -/
  | rel (g : Guard) (o : Reg) (sc : Scope)
  /-- FENCE (R236). -/
  | fence (g : Guard) (sc : Scope)
  /-- SYZY (R313). -/
  | syzy
  /-- RDSC (R314). -/
  | rdsc (g : Guard) (d : Reg)
  /-- WAITSC (R314). -/
  | waitsc (g : Guard) (a : Reg)
  /-- POST (R317). -/
  | post (g : Guard) (addr : Reg) (v : Reg) (lat : BitVec 11)
  /-- MBRD (R317). -/
  | mbrd (g : Guard) (d : Reg) (addr : Reg)
  /-- LRPATCH (R304). -/
  | lrpatch (g : Guard) (v : Reg) (r : Reg) (f : Fin 31)
  /-- LRARM (R304). -/
  | lrarm (g : Guard) (r : Reg)
  /-- CHILDQ (R304). -/
  | childq (g : Guard) (r : Reg)
  /-- WIDF (R309). -/
  | widf (g : Guard) (d : Reg) (lev : Fin 6)
  /-- LEASE (R189). -/
  | lease (g : Guard)
  /-- UNLEASE (R189). -/
  | unlease (g : Guard)
  /-- SHLD (R135). -/
  | shld (g : Guard) (sh : N16) (b : Reg) (disp : BitVec 11)
  /-- SHST (R135). -/
  | shst (g : Guard) (sh : N16) (b : Reg) (disp : BitVec 11)
  /-- SHSET (R136). -/
  | shset (g : Guard) (v : Reg) (sh : N16) (f : ShField)
  /-- SHGET (R136). -/
  | shget (g : Guard) (v : Reg) (sh : N16) (f : ShField)
  /-- ALBINIT (R295). -/
  | albinit (g : Guard) (n : Reg) (trapen : Bool)
  /-- ALBSETTLE (R295). -/
  | albsettle (g : Guard) (n : Reg)
  /-- ALBRD (R295). -/
  | albrd (g : Guard) (d : Reg) (n : Reg) (idx : N16)
  /-- TRAP (R346). -/
  | trap (g : Guard) (code : BitVec 8)
  /-- RFT (R347). -/
  | rft (g : Guard)
  /-- SAFEPT (R351). -/
  | safept (g : Guard) (orbit : Bool) (live : BitVec 8)
  /-- CORERST (R349). -/
  | corerst (g : Guard) (r : Reg)
  /-- HALT (R348). -/
  | halt (g : Guard)
  /-- NOP (R348). -/
  | nop (g : Guard)
  /-- SRD (R350). -/
  | srd (g : Guard) (d : Reg) (idx : Fin 1024)
  /-- SWR (R350). -/
  | swr (g : Guard) (a : Reg) (idx : Fin 1024)
  /-- SEALOP_PUT (R326). -/
  | sealopPut (g : Guard) (a : Reg)
  /-- SEALOP_CHECK (R326). -/
  | sealopCheck (g : Guard) (a : Reg)
  /-- BQ_POP_READ (R153). -/
  | bqPopRead (g : Guard) (d : Reg) (bq3 : Bool)
  /-- SEAL_READ (R326). -/
  | sealRead (g : Guard) (d : Reg)
  /-- BLOCK_HEADER (R46). -/
  | blockHeader (rot : Bool) (atom : Bool) (len : Fin 128) (rep : BitVec 16)
  /-- PFX (R52). -/
  | pfx (rnd : N8) (msel : N8) (iq : N16) (sat : Bool)
  /-- PFX_GUARDED (R53). -/
  | pfxGuarded (g : Guard) (rnd : N8) (iq : N16)
  /-- NOP16 (R55). -/
  | nop16
  /-- LDQ (R148). -/
  | ldq (g : Guard) (q : N8) (b : Reg) (disp : BitVec 11)
  /-- LDQ_SHORT (R147). -/
  | ldqShort (q : N8) (b : Reg) (disp : N8)
  /-- LDQS (R148). -/
  | ldqs (g : Guard) (q : N8) (b : Reg) (s : Reg)
  /-- LDQB (R148). -/
  | ldqb (g : Guard) (q : N8) (b : Reg) (disp : BitVec 11)
  /-- GATHQ (R148). -/
  | gathq (g : Guard) (q : N8) (b : Reg) (x : Reg)
  /-- STQ (R150). -/
  | stq (g : Guard) (q : N8) (b : Reg) (disp : BitVec 11)
  /-- STQ_SHORT (R149). -/
  | stqShort (q : N8) (b : Reg) (disp : N8)
  /-- STQS (R150). -/
  | stqs (g : Guard) (q : N8) (b : Reg) (s : Reg)
  /-- SCATQ (R150). -/
  | scatq (g : Guard) (q : N8) (b : Reg) (x : Reg)
  /-- EXIT_A (R104). -/
  | exitA (g : Guard) (off : BitVec 21)
  /-- EXIT_A_SHORT (R104). -/
  | exitAShort (g : Guard) (off : BitVec 7)
  /-- BQPUT_A (R152). -/
  | bqputA (g : Guard) (op : BqA) (q : Fin 4)
  /-- BQPUT_A_SHORT (R151). -/
  | bqputAShort (q : Fin 4) (p : N8)
  /-- BQGET_A (R152). -/
  | bqgetA (g : Guard) (op : BqA) (q : Fin 4)
  /-- PGDIST (R154). -/
  | pgdist (g : Guard) (ch : Fin 14) (a : Reg)
  /-- TAGWANY (R243). -/
  | tagwany (g : Guard) (m : Reg)
  /-- TAGWALL (R243). -/
  | tagwall (g : Guard) (m : Reg)
  /-- TAGWALL_SHORT (R243). -/
  | tagwallShort (m : Reg)
  /-- TAGFFR (R243). -/
  | tagffr (g : Guard) (d : Reg) (m : Reg)
  /-- TAGCLR (R243). -/
  | tagclr (g : Guard) (m : Reg)
  /-- CPY (R246). -/
  | cpy (g : Guard) (d : N16) (s : N16) (t : Tag) (ord : OrdF) (guardChk : Bool) (expand : Bool)
  /-- CPYG (R250). -/
  | cpyg (g : Guard) (d : N16) (tab : N16) (t : Tag) (idx : N16)
  /-- CPYR (R252). -/
  | cpyr (g : Guard) (d : N16) (s : N16) (t : Tag) (ord : OrdF)
  /-- TAILPUT (R338). -/
  | tailput (g : Guard) (sh : N16) (r : Reg) (t : Tag)
  /-- TAILGET (R338). -/
  | tailget (g : Guard) (sh : N16) (r : Reg) (t : Tag)
  /-- OFFLOAD (R338). -/
  | offload (g : Guard) (r : Reg) (t : Tag)
  /-- RECALL (R338). -/
  | recall (g : Guard) (r : Reg) (t : Tag)
  /-- MMA (R199). -/
  | mma (f : MFmt) (sa : N16) (sb : N16) (d : Reg) (hold : Bool) (ord : OrdF) (sq : Bool)
  /-- MMAS (R200). -/
  | mmas (f : MFmt) (sa : N16) (sb : N16) (d : Reg) (hold : Bool) (ord : OrdF) (sq : Bool)
  /-- MZERO (R204). -/
  | mzero (sh : N16) (d : Reg) (ord : OrdF)
  /-- MDRAIN (R205). -/
  | mdrain (m : DrainMode) (dst : N16) (mul : N16) (d : Reg) (ord : OrdF)
  /-- MCOMMIT (R207). -/
  | mcommit (g : Guard) (b : N8)
  /-- MWAITB (R207). -/
  | mwaitb (g : Guard) (b : N8)
  /-- MSTAT (R207). -/
  | mstat (g : Guard) (pd : N8) (fault : Bool) (b : N8)
  /-- VADD (R164). -/
  | vadd (f : Fmt) (dly : N8) (d : Dst) (a : Src) (b : Src) (me : Bool)
  /-- VSUB (R164). -/
  | vsub (f : Fmt) (dly : N8) (d : Dst) (a : Src) (b : Src) (me : Bool)
  /-- VMUL (R164). -/
  | vmul (f : Fmt) (dly : N8) (d : Dst) (a : Src) (b : Src) (me : Bool)
  /-- VFMA (R165). -/
  | vfma (f : Fmt) (dly : N8) (d : Dst) (a : Src) (b : Src) (me : Bool)
  /-- VFMS (R165). -/
  | vfms (f : Fmt) (dly : N8) (d : Dst) (a : Src) (b : Src) (me : Bool)
  /-- VFNMA (R165). -/
  | vfnma (f : Fmt) (dly : N8) (d : Dst) (a : Src) (b : Src) (me : Bool)
  /-- VMIN (R164). -/
  | vmin (f : Fmt) (dly : N8) (d : Dst) (a : Src) (b : Src) (me : Bool)
  /-- VMAX (R164). -/
  | vmax (f : Fmt) (dly : N8) (d : Dst) (a : Src) (b : Src) (me : Bool)
  /-- VABS (R164). -/
  | vabs (f : Fmt) (dly : N8) (d : Dst) (a : Src) (me : Bool)
  /-- VNEG (R164). -/
  | vneg (f : Fmt) (dly : N8) (d : Dst) (a : Src) (me : Bool)
  /-- VIADD (R166). -/
  | viadd (f : Fmt) (dly : N8) (d : Dst) (a : Src) (b : Src) (me : Bool)
  /-- VISUB (R166). -/
  | visub (f : Fmt) (dly : N8) (d : Dst) (a : Src) (b : Src) (me : Bool)
  /-- VIMUL (R166). -/
  | vimul (f : Fmt) (dly : N8) (d : Dst) (a : Src) (b : Src) (me : Bool)
  /-- VIMULH (R166). -/
  | vimulh (f : Fmt) (dly : N8) (d : Dst) (a : Src) (b : Src) (me : Bool)
  /-- VSHL (R167). -/
  | vshl (f : Fmt) (dly : N8) (d : Dst) (a : Src) (b : Src) (me : Bool)
  /-- VSHR (R167). -/
  | vshr (f : Fmt) (dly : N8) (d : Dst) (a : Src) (b : Src) (me : Bool)
  /-- VSRA (R167). -/
  | vsra (f : Fmt) (dly : N8) (d : Dst) (a : Src) (b : Src) (me : Bool)
  /-- VAND (R167). -/
  | vand (dly : N8) (d : Dst) (a : Src) (b : Src) (me : Bool)
  /-- VOR (R167). -/
  | vor (dly : N8) (d : Dst) (a : Src) (b : Src) (me : Bool)
  /-- VXOR (R167). -/
  | vxor (dly : N8) (d : Dst) (a : Src) (b : Src) (me : Bool)
  /-- VIABS (R166). -/
  | viabs (f : Fmt) (dly : N8) (d : Dst) (a : Src) (me : Bool)
  /-- VNOT (R167). -/
  | vnot (dly : N8) (d : Dst) (a : Src) (me : Bool)
  /-- VCMP (R168). -/
  | vcmp (f : Fmt) (dly : N8) (cc : Cond) (md : N8) (a : Src) (b : Src) (me : Bool)
  /-- VSEL (R169). -/
  | vsel (f : Fmt) (dly : N8) (d : Dst) (a : Src) (b : Src)
  /-- MAND (R170). -/
  | mand (dly : N8) (md : N8) (ma : N8) (mb : N8)
  /-- MOR (R170). -/
  | mor (dly : N8) (md : N8) (ma : N8) (mb : N8)
  /-- MXOR (R170). -/
  | mxor (dly : N8) (md : N8) (ma : N8) (mb : N8)
  /-- MNOT (R170). -/
  | mnot (dly : N8) (md : N8) (ma : N8)
  /-- MPOP (R170). -/
  | mpop (dly : N8) (x : N16) (ma : N8)
  /-- MFF (R170). -/
  | mff (dly : N8) (x : N16) (ma : N8)
  /-- MSET (R170). -/
  | mset (dly : N8) (md : N8) (x : N16)
  /-- VMOV (R171). -/
  | vmov (f : Fmt) (dly : N8) (d : Dst) (a : Src) (me : Bool)
  /-- VMOV_SHORT (R56). -/
  | vmovShort (d : Reg) (a : Reg)
  /-- VMOVL (R171). -/
  | vmovl (f : Fmt) (dly : N8) (d : Dst) (l : N8) (me : Bool)
  /-- VBCAST (R171). -/
  | vbcast (f : Fmt) (dly : N8) (d : Dst) (x : N16) (me : Bool)
  /-- VLI (R171). -/
  | vli (f : Fmt) (dly : N8) (d : Dst) (imm : BitVec 12) (me : Bool)
  /-- VIMIN (R166). -/
  | vimin (f : Fmt) (dly : N8) (d : Dst) (a : Src) (b : Src) (me : Bool)
  /-- VIMAX (R166). -/
  | vimax (f : Fmt) (dly : N8) (d : Dst) (a : Src) (b : Src) (me : Bool)
  /-- VCVT (R173). -/
  | vcvt (dly : N8) (d : Dst) (a : Src) (sf : CFmt) (df : CFmt) (me : Bool)
  /-- VQNT (R174). -/
  | vqnt (dly : N8) (d : Dst) (a : Src) (qf : QFmt) (xs : N16) (me : Bool)
  /-- VDQNT (R174). -/
  | vdqnt (dly : N8) (d : Dst) (a : Src) (qf : QFmt) (xs : N16) (me : Bool)
  /-- QSCALE (R176). -/
  | qscale (dly : N8) (xd : N16) (xn : N16) (qf : QFmt) (h : N16)
  /-- QFIX (R323). -/
  | qfix (dly : N8) (d : Dst) (a : Src) (sh : N16) (me : Bool)
  /-- QFLT (R323). -/
  | qflt (dly : N8) (d : Dst) (a : Src) (sh : N16) (me : Bool)
  /-- REVADD (R320). -/
  | revadd (dly : N8) (d : Dst) (a : Src) (b : Src) (me : Bool)
  /-- REVSUB (R320). -/
  | revsub (dly : N8) (d : Dst) (a : Src) (b : Src) (me : Bool)
  /-- SEALCLR (R324). -/
  | sealclr (dly : N8)
  /-- SEALGET (R324). -/
  | sealget (dly : N8) (xd : N16)
  /-- VEXP2 (R178). -/
  | vexp2 (f : Fmt) (dly : N8) (d : Dst) (a : Src) (me : Bool)
  /-- VLOG2 (R178). -/
  | vlog2 (f : Fmt) (dly : N8) (d : Dst) (a : Src) (me : Bool)
  /-- VRCP (R178). -/
  | vrcp (f : Fmt) (dly : N8) (d : Dst) (a : Src) (me : Bool)
  /-- VRSQRT (R178). -/
  | vrsqrt (f : Fmt) (dly : N8) (d : Dst) (a : Src) (me : Bool)
  /-- VTANH (R178). -/
  | vtanh (f : Fmt) (dly : N8) (d : Dst) (a : Src) (me : Bool)
  /-- VRND (R179). -/
  | vrnd (raw : Bool) (dly : N8) (d : Dst) (xs : N16) (xb : N16) (me : Bool)
  /-- VREDSUM (R180). -/
  | vredsum (f : Fmt) (dly : N8) (d : Dst) (a : Src) (me : Bool)
  /-- VREDMAX (R180). -/
  | vredmax (f : Fmt) (dly : N8) (d : Dst) (a : Src) (me : Bool)
  /-- VREDMIN (R180). -/
  | vredmin (f : Fmt) (dly : N8) (d : Dst) (a : Src) (me : Bool)
  /-- VREDARG (R180). -/
  | vredarg (f : Fmt) (dly : N8) (d : Dst) (a : Src) (mn : Bool) (me : Bool)
  /-- VSCAN (R181). -/
  | vscan (f : Fmt) (dly : N8) (d : Dst) (a : Src) (me : Bool)
  /-- VSORTK (R182). -/
  | vsortk (f : Fmt) (dly : N8) (d : Dst) (a : Src) (b : Src) (me : Bool)
  /-- VPERM (R172). -/
  | vperm (f : Fmt) (dly : N8) (d : Dst) (a : Src) (b : Src) (me : Bool)
  /-- VSLIDE (R172). -/
  | vslide (f : Fmt) (dly : N8) (d : Dst) (a : Src) (b : Src) (me : Bool)
  /-- ACLD (R220). -/
  | acld (hi : Bool) (dly : N8) (v : Dst) (p : Fin 64) (row : RowSel)
  /-- ACST (R220). -/
  | acst (hi : Bool) (dly : N8) (v : Src) (p : Fin 64) (row : RowSel)
  /-- ACSTA (R220). -/
  | acsta (hi : Bool) (int : Bool) (dly : N8) (v : Src) (p : Fin 64) (row : RowSel)
  /-- XLI (R183). -/
  | xli (x : N16) (imm : BitVec 19)
  /-- XADDI (R183). -/
  | xaddi (x : N16) (a : N16) (imm : BitVec 15)
  /-- XADDI_SHORT (R56). -/
  | xaddiShort (x : N16) (imm : BitVec 7)
  /-- XLANE (R183). -/
  | xlane (x : N16) (v : Src) (wd : LaneW) (lane : Fin 256)
  /-- KATCHK (R184). -/
  | katchk (dly : N8) (v : Src) (k : Word)
  /-- BQPUT_X (R152). -/
  | bqputX (g : Guard) (op : BqX) (q : Fin 4)
  /-- BQGET_X (R152). -/
  | bqgetX (g : Guard) (op : BqX) (q : Fin 4)
  /-- EXIT_X (R104). -/
  | exitX (g : Guard) (off : BitVec 18)
  /-- EXIT_X_SHORT (R104). -/
  | exitXShort (g : Guard) (off : BitVec 7)
  /-- COMMIT_PHASE_1 (R101). -/
  | commitPhase1
  /-- COMMIT_PHASE_2 (R101). -/
  | commitPhase2
  /-- BLOCK_RUN_END (R97). -/
  | blockRunEnd
  /-- DISPATCH_START (R109). -/
  | dispatchStart
  /-- X_RESULT_LAND (R115). -/
  | xResultLand
  /-- LOAD_QUEUE_ENTRY_READY (R140). -/
  | loadQueueEntryReady
  /-- QUEUE_STORE_WRITE (R150). -/
  | queueStoreWrite
  /-- STREAM_TLB_WALK_DONE (R145). -/
  | streamTlbWalkDone
  /-- LEASE_GRANT (R187). -/
  | leaseGrant
  /-- MATRIX_COMMAND_START (R194). -/
  | matrixCommandStart
  /-- MATRIX_ACQUIRE (R214). -/
  | matrixAcquire
  /-- MATRIX_COMMAND_COMPLETE (R194). -/
  | matrixCommandComplete
  /-- MATRIX_COMMAND_STOP (R209). -/
  | matrixCommandStop
  /-- SCALE_QUEUE_POP (R202). -/
  | scaleQueuePop
  /-- ACCUMULATOR_PORT_GRANT (R218). -/
  | accumulatorPortGrant
  /-- COPY_CHANNEL_TAKE (R239). -/
  | copyChannelTake
  /-- COPY_COMMAND_START (R240). -/
  | copyCommandStart
  /-- COPY_COMMAND_COMPLETE (R240). -/
  | copyCommandComplete
  /-- COPY_COMMAND_STOP (R257). -/
  | copyCommandStop
  /-- TAIL_COMMAND_ACCEPT (R337). -/
  | tailCommandAccept
  /-- TAIL_COMMAND_COMPLETE (R334). -/
  | tailCommandComplete
  /-- SYNC_ACCEPT (R228). -/
  | syncAccept
  /-- HOME_REQUEST (R408). -/
  | homeRequest
  /-- QSCALE_RESULT (R176). -/
  | qscaleResult
  /-- ALBEDO_MERGE_ISSUE (R288). -/
  | albedoMergeIssue
  /-- ALBEDO_MERGE_APPLY (R287). -/
  | albedoMergeApply
  /-- ALBEDO_SETTLE_DONE (R295). -/
  | albedoSettleDone
  /-- LINE_ACCESS (R279). -/
  | lineAccess
  /-- DRAM_READ_RETURN (R268). -/
  | dramReadReturn
  /-- DRAM_REFRESH (R268). -/
  | dramRefresh
  /-- HOME_CREATE (R277). -/
  | homeCreate
  /-- HOME_RELEASE (R277). -/
  | homeRelease
  /-- TLBINV_GO (R271). -/
  | tlbinvGo
  /-- TLBINV_COMPLETE (R271). -/
  | tlbinvComplete
  /-- ORBIT_STOP (R269). -/
  | orbitStop
  /-- ORBIT_RESUME (R269). -/
  | orbitResume
  /-- WAITSC_DONE (R314). -/
  | waitscDone
  /-- ORBIT_ARRIVAL (R313). -/
  | orbitArrival
  /-- ORBIT_ALIGN (R313). -/
  | orbitAlign
  /-- MAIL_ARRIVAL (R317). -/
  | mailArrival
  /-- MAIL_ACK (R317). -/
  | mailAck
  /-- MAIL_LATE (R317). -/
  | mailLate
  /-- RECORD_START (R307). -/
  | recordStart
  /-- START_TIME_REACHED (R306). -/
  | startTimeReached
  /-- PRIORITY_AGE (R306). -/
  | priorityAge
  /-- CHILD_QUEUE_MOVE (R302). -/
  | childQueueMove
  /-- OVERLAY_LOAD_DONE (R311). -/
  | overlayLoadDone
  /-- TASK_BOUNDARY (R311). -/
  | taskBoundary
  /-- CONTEXT_END (R312). -/
  | contextEnd
  /-- ALLOTMENT_RETURN (R312). -/
  | allotmentReturn
  /-- TRAP_DELIVERY (R342). -/
  | trapDelivery
  /-- DEBUG_BREAK (R390). -/
  | debugBreak
  /-- SAFEPT_LATE (R351). -/
  | safeptLate
  /-- WATCHDOG (R351). -/
  | watchdog
  /-- PREEMPT_REQUEST (R352). -/
  | preemptRequest
  /-- CONTEXT_RESTORE (R354). -/
  | contextRestore
  /-- BEAT_SEND (R358). -/
  | beatSend
  /-- BEAT_RECEIVE (R360). -/
  | beatReceive
  /-- JUDGE_POINT (R364). -/
  | judgePoint
  /-- FENCE_NOTICE (R369). -/
  | fenceNotice
  /-- FABRIC_FLIT_ARRIVAL (R367). -/
  | fabricFlitArrival
  /-- SELF_TEST_DONE (R370). -/
  | selfTestDone
  /-- SUSPCTL_INC (R378). -/
  | suspctlInc
  /-- SUSPCTL_CLRQ (R378). -/
  | suspctlClrq
  /-- SUSPCFG_WRITE (R379). -/
  | suspcfgWrite
  /-- SCORE_DECAY (R379). -/
  | scoreDecay
  /-- HOST_REQUEST (R381). -/
  | hostRequest
  /-- HOST_REGISTER_WRITE (R390). -/
  | hostRegisterWrite
  /-- WORK_QUEUE_SUBMIT (R384). -/
  | workQueueSubmit
  /-- WORK_QUEUE_ENTRY_ARM (R384). -/
  | workQueueEntryArm
  /-- WORK_QUEUE_RESUME (R384). -/
  | workQueueResume
  /-- SPAN_FLIT_RECEIVE (R385). -/
  | spanFlitReceive
  /-- SPAN_LINK_STATE (R385). -/
  | spanLinkState
  /-- POWER_ON (R386). -/
  | powerOn
  /-- COLD_START (R386). -/
  | coldStart
  /-- WARM_START (R386). -/
  | warmStart
  /-- START_COMPLETE (R386). -/
  | startComplete
  /-- PWRCAP_WRITE (R389). -/
  | pwrcapWrite
  /-- ORBIT_SAVE (R353). -/
  | orbitSave
  /-- MSI_X_HOLDOFF_END (R384). -/
  | msixHoldoffEnd
  /-- ARITHMETIC_CLOCK_STEP (R389). -/
  | arithmeticClockStep
  deriving DecidableEq, Repr

/-- An event of the package with its data: which core, tile, die or record it concerns and what it carries. -/
inductive Event
  | commitPhase1 (core : Nat)
  | commitPhase2 (core : Nat)
  | blockRunEnd (ag : Agent)
  | dispatchStart (ag : Agent)
  | xResultLand (core : Nat) (id : Nat)
  | loadQueueEntryReady (core : Nat) (id : Nat)
  | queueStoreWrite (core : Nat) (id : Nat)
  | streamTlbWalkDone (core : Nat) (ch : Nat)
  | leaseGrant (tile : Nat)
  | matrixCommandStart (tile : Nat)
  | matrixAcquire (tile : Nat)
  | matrixCommandComplete (tile : Nat)
  /-- the point of the stop as the registers of 09 R208 name it -/
  | matrixCommandStop (tile : Nat) (cause : Nat) (kdone : Nat) (rowg : Nat)
  | scaleQueuePop (core : Nat)
  | accumulatorPortGrant (tile : Nat) (plane : Nat)
  | copyChannelTake (tile : Nat) (ch : Nat)
  | copyCommandStart (tile : Nat) (ch : Nat)
  | copyCommandComplete (tile : Nat) (ch : Nat)
  | copyCommandStop (tile : Nat) (ch : Nat) (cause : Nat)
  | tailCommandAccept (tile : Nat) (ch : Nat)
  | tailCommandComplete (tile : Nat) (ch : Nat)
  | syncAccept (obj : Nat)
  | homeRequest (tile : Nat) (req : HomeReq)
  | qscaleResult (core : Nat) (id : Nat)
  | albedoMergeIssue (core : Nat) (src : MergeSrc) (part : Partial)
  | albedoMergeApply (tile : Nat)
  | albedoSettleDone (core : Nat)
  | lineAccess (req : LineReq)
  /-- the access that performs a scalar store of a committed run -/
  | scalarWrite (core : Nat) (id : Nat)
  | dramReadReturn (core : Nat) (ch : Nat)
  | dramRefresh
  | homeCreate (unit : Nat) (kind : Nat)
  | homeRelease (unit : Nat)
  | tlbinvGo (die : Nat)
  | tlbinvComplete (die : Nat)
  | orbitStop (core : Nat)
  | orbitResume (core : Nat)
  | waitscDone (core : Nat)
  | orbitArrival (core : Nat) (src : Nat) (safept : Bool) (sc : Word)
  | orbitAlign (core : Nat)
  | mailArrival (core : Nat) (id : Nat)
  | mailAck (core : Nat) (id : Nat)
  | mailLate (core : Nat) (id : Nat)
  | recordStart (r : Nat)
  | startTimeReached (r : Nat)
  | priorityAge (r : Nat)
  | childQueueMove (die : Nat)
  | overlayLoadDone (core : Nat)
  | taskBoundary (core : Nat)
  | contextEnd (core : Nat)
  | allotmentReturn (core : Nat)
  | trapDelivery (core : Nat)
  | debugBreak (ag : Agent)
  | safeptLate (core : Nat)
  | watchdog (core : Nat)
  | preemptRequest (core : Nat)
  | contextRestore (core : Nat) (save : Nat)
  | beatSend (tile : Nat)
  | beatReceive (tile : Nat) (dir : Nat) (flit : Nat)
  | judgePoint
  | fenceNotice (die : Nat) (tile : Nat) (lev : Nat) (epoch : Nat)
  | fabricFlitArrival (f : Flit)
  | selfTestDone (tile : Nat) (sig : Nat)
  | suspctlInc (tile : Nat) (unit : Nat) (inc : Nat)
  | suspctlClrq (tile : Nat) (unit : Nat)
  | suspcfgWrite (tile : Nat) (v : Word)
  | scoreDecay
  | hostRequest (r : HostReq)
  | hostRegisterWrite (fn : Nat) (addr : Nat) (v : Word)
  | workQueueSubmit (fn : Nat) (q : Nat) (v : Nat)
  | workQueueEntryArm (q : Nat)
  | workQueueResume (q : Nat)
  | spanFlitReceive (f : SpanFlit)
  | spanLinkState (link : Nat) (up : Bool)
  | powerOn
  | coldStart
  | warmStart
  | startComplete (ok : Bool)
  | pwrcapWrite (v : Nat)
  | orbitSave (core : Nat)
  | msixHoldoffEnd (q : Nat)
  | arithmeticClockStep (up : Bool)
  deriving DecidableEq, Repr

/-- The row of an event. -/
def Event.row : Event → Instr
  | .commitPhase1 _ => .commitPhase1
  | .commitPhase2 _ => .commitPhase2
  | .blockRunEnd _ => .blockRunEnd
  | .dispatchStart _ => .dispatchStart
  | .xResultLand _ _ => .xResultLand
  | .loadQueueEntryReady _ _ => .loadQueueEntryReady
  | .queueStoreWrite _ _ => .queueStoreWrite
  | .streamTlbWalkDone _ _ => .streamTlbWalkDone
  | .leaseGrant _ => .leaseGrant
  | .matrixCommandStart _ => .matrixCommandStart
  | .matrixAcquire _ => .matrixAcquire
  | .matrixCommandComplete _ => .matrixCommandComplete
  | .matrixCommandStop _ _ _ _ => .matrixCommandStop
  | .scaleQueuePop _ => .scaleQueuePop
  | .accumulatorPortGrant _ _ => .accumulatorPortGrant
  | .copyChannelTake _ _ => .copyChannelTake
  | .copyCommandStart _ _ => .copyCommandStart
  | .copyCommandComplete _ _ => .copyCommandComplete
  | .copyCommandStop _ _ _ => .copyCommandStop
  | .tailCommandAccept _ _ => .tailCommandAccept
  | .tailCommandComplete _ _ => .tailCommandComplete
  | .syncAccept _ => .syncAccept
  | .homeRequest _ _ => .homeRequest
  | .qscaleResult _ _ => .qscaleResult
  | .albedoMergeIssue _ _ _ => .albedoMergeIssue
  | .albedoMergeApply _ => .albedoMergeApply
  | .albedoSettleDone _ => .albedoSettleDone
  | .lineAccess _ => .lineAccess
  | .scalarWrite _ _ => .lineAccess
  | .dramReadReturn _ _ => .dramReadReturn
  | .dramRefresh => .dramRefresh
  | .homeCreate _ _ => .homeCreate
  | .homeRelease _ => .homeRelease
  | .tlbinvGo _ => .tlbinvGo
  | .tlbinvComplete _ => .tlbinvComplete
  | .orbitStop _ => .orbitStop
  | .orbitResume _ => .orbitResume
  | .waitscDone _ => .waitscDone
  | .orbitArrival _ _ _ _ => .orbitArrival
  | .orbitAlign _ => .orbitAlign
  | .mailArrival _ _ => .mailArrival
  | .mailAck _ _ => .mailAck
  | .mailLate _ _ => .mailLate
  | .recordStart _ => .recordStart
  | .startTimeReached _ => .startTimeReached
  | .priorityAge _ => .priorityAge
  | .childQueueMove _ => .childQueueMove
  | .overlayLoadDone _ => .overlayLoadDone
  | .taskBoundary _ => .taskBoundary
  | .contextEnd _ => .contextEnd
  | .allotmentReturn _ => .allotmentReturn
  | .trapDelivery _ => .trapDelivery
  | .debugBreak _ => .debugBreak
  | .safeptLate _ => .safeptLate
  | .watchdog _ => .watchdog
  | .preemptRequest _ => .preemptRequest
  | .contextRestore _ _ => .contextRestore
  | .beatSend _ => .beatSend
  | .beatReceive _ _ _ => .beatReceive
  | .judgePoint => .judgePoint
  | .fenceNotice _ _ _ _ => .fenceNotice
  | .fabricFlitArrival _ => .fabricFlitArrival
  | .selfTestDone _ _ => .selfTestDone
  | .suspctlInc _ _ _ => .suspctlInc
  | .suspctlClrq _ _ => .suspctlClrq
  | .suspcfgWrite _ _ => .suspcfgWrite
  | .scoreDecay => .scoreDecay
  | .hostRequest _ => .hostRequest
  | .hostRegisterWrite _ _ _ => .hostRegisterWrite
  | .workQueueSubmit _ _ _ => .workQueueSubmit
  | .workQueueEntryArm _ => .workQueueEntryArm
  | .workQueueResume _ => .workQueueResume
  | .spanFlitReceive _ => .spanFlitReceive
  | .spanLinkState _ _ => .spanLinkState
  | .powerOn => .powerOn
  | .coldStart => .coldStart
  | .warmStart => .warmStart
  | .startComplete _ => .startComplete
  | .pwrcapWrite _ => .pwrcapWrite
  | .orbitSave _ => .orbitSave
  | .msixHoldoffEnd _ => .msixHoldoffEnd
  | .arithmeticClockStep _ => .arithmeticClockStep

end Sys2Proof
end

