-- ==== Sys2Proof/WellFormed.lean ====
section
/-! DEFINITION. Which instructions have an encoding that decodes to themselves: the fates of 03 R64 put as checks. -/

namespace Sys2Proof

def Fmt.isFloat (f : Fmt) : Bool := f == .f32 || f == .f16 || f == .bf16
def Fmt.isInt (f : Fmt) : Bool := !f.isFloat
/-- Width codes that ST and STS allow (03 R57). -/
def MemW.isStore (m : MemW) : Bool := m == .b || m == .h || m == .w || m == .d
/-- Width codes of LDS (06 R128). -/
def MemW.isStrongLoad (m : MemW) : Bool := m == .w || m == .d || m == .wu
/-- A scope goes with an ordering flag only (03 R61). -/
def OrdF.ok (o : OrdF) : Bool := o.acq || o.rel || o.sc == .core
/-- v registers, load queues and latches: what XLANE and KATCHK read; q6 and q7 are among the other values, which are
RESERVED_FIELD (08 R183, R184). -/
def Src.isLane : Src → Bool
  | .x _ => false
  | .q n => decide (n.val < 6)
  | _ => true
/-- A source queue is a load queue (07 R138). -/
def Src.queueOk : Src → Bool
  | .q n => decide (n.val < 6)
  | _ => true
/-- A destination queue is a store queue (07 R138). -/
def Dst.queueOk : Dst → Bool
  | .q n => decide (6 ≤ n.val)
  | _ => true
/-- Lanes of XLANE by width (08 R183). -/
def LaneW.laneOk (m : LaneW) (lane : Fin 256) : Bool :=
  match m with
  | .b => true
  | .h => decide (lane.val < 128)
  | .w => decide (lane.val < 64)
  | .d => decide (lane.val < 32)

/-- The indices of the system register table (16 R357). -/
def sysRegOk (i : Fin 1024) : Bool :=
  let n := i.val
  n ≤ 0x0D || (0x10 ≤ n && n ≤ 0x16) || (0x18 ≤ n && n ≤ 0x1D) || (0x20 ≤ n && n ≤ 0x25) || (0x30 ≤ n && n ≤ 0x3B)
    || (0x40 ≤ n && n ≤ 0x4B) || (0x50 ≤ n && n ≤ 0x5E) || (0x60 ≤ n && n ≤ 0x69) || (0x70 ≤ n && n ≤ 0x7D)

/-- No code of the word is one that traps ILLEGAL_WORD (03 R64). -/
def codesOk : Instr → Bool
  | .st _ wd _ _ _ => wd.isStore
  | .lds _ wd _ _ _ => wd.isStrongLoad
  | .sts _ wd _ _ _ => (wd == .w || wd == .d)
  | .mmas f _ _ _ _ _ _ => (f != .f16 && f != .bf16)
  | .vadd f _ _ _ _ _ => f.isFloat
  | .vsub f _ _ _ _ _ => f.isFloat
  | .vmul f _ _ _ _ _ => f.isFloat
  | .vfma f _ _ _ _ _ => f.isFloat
  | .vfms f _ _ _ _ _ => f.isFloat
  | .vfnma f _ _ _ _ _ => f.isFloat
  | .vmin f _ _ _ _ _ => f.isFloat
  | .vmax f _ _ _ _ _ => f.isFloat
  | .vabs f _ _ _ _ => f.isFloat
  | .vneg f _ _ _ _ => f.isFloat
  | .viadd f _ _ _ _ _ => f.isInt
  | .visub f _ _ _ _ _ => f.isInt
  | .vimul f _ _ _ _ _ => f.isInt
  | .vimulh f _ _ _ _ _ => f.isInt
  | .vshl f _ _ _ _ _ => f.isInt
  | .vshr f _ _ _ _ _ => f.isInt
  | .vsra f _ _ _ _ _ => f.isInt
  | .viabs f _ _ _ _ => f.isInt
  | .vimin f _ _ _ _ _ => f.isInt
  | .vimax f _ _ _ _ _ => f.isInt
  | .vcvt _ _ _ sf df _ => (sf != df)
  | .qscale _ _ _ qf _ => (qf != .u8)
  | .vexp2 f _ _ _ _ => f.isFloat
  | .vlog2 f _ _ _ _ => f.isFloat
  | .vrcp f _ _ _ _ => f.isFloat
  | .vrsqrt f _ _ _ _ => f.isFloat
  | .vtanh f _ _ _ _ => f.isFloat
  | .vscan f _ _ _ _ => (f == .f32 || f == .i32)
  | .vsortk f _ _ _ _ _ => (f == .f32 || f == .i32)
  | _ => true

/-- No selector of the word traps RESERVED_FIELD (03 R64). -/
def selectorsOk : Instr → Bool
  | .call _ off => (off != 0)
  | .dispA _ _ _ entry => (decide (entry.toNat < 2048))
  | .djoin _ x a => (x || a)
  | .srd _ _ idx => (sysRegOk idx && !(idx == 0x59 || idx == 0x5B || idx == 0x5C))
  | .swr _ _ idx => (sysRegOk idx)
  | .cpy _ _ _ _ ord _ _ => ord.ok
  | .cpyr _ _ _ _ ord => ord.ok
  | .mma f _ _ _ _ ord sq => (!(sq && (f == .f16 || f == .bf16 || f == .i8)) && ord.ok)
  | .mmas f _ _ _ _ ord sq => (!(sq && f == .i8) && ord.ok)
  | .mzero _ _ ord => ord.ok
  | .mdrain m _ mul _ ord => ((m != .plain || mul == 0) && ord.ok)
  | .acld _ _ v _ _ => (v != .none)
  | .xlane _ v wd lane => (v.isLane && wd.laneOk lane)
  | .katchk _ v _ => v.isLane
  | _ => true

/-- Every queue is used in its direction (03 R64, 07 R138). -/
def queuesOk : Instr → Bool
  | .ldq _ q _ _ => (decide (q.val < 6))
  | .ldqShort q _ _ => (decide (q.val < 6))
  | .ldqs _ q _ _ => (decide (q.val < 6))
  | .ldqb _ q _ _ => (decide (q.val < 6))
  | .gathq _ q _ _ => (decide (q.val < 6))
  | .stq _ q _ _ => (decide (6 ≤ q.val))
  | .stqShort q _ _ => (decide (6 ≤ q.val))
  | .stqs _ q _ _ => (decide (6 ≤ q.val))
  | .scatq _ q _ _ => (decide (6 ≤ q.val))
  | .bqputA _ _ q => (q == 0 || q == 2)
  | .bqputAShort q _ => (q == 0 || q == 2)
  | .bqgetA _ _ q => (q == 1)
  | .vadd _ _ d a b _ => (d.queueOk && a.queueOk && b.queueOk)
  | .vsub _ _ d a b _ => (d.queueOk && a.queueOk && b.queueOk)
  | .vmul _ _ d a b _ => (d.queueOk && a.queueOk && b.queueOk)
  | .vfma _ _ d a b _ => (d.queueOk && a.queueOk && b.queueOk)
  | .vfms _ _ d a b _ => (d.queueOk && a.queueOk && b.queueOk)
  | .vfnma _ _ d a b _ => (d.queueOk && a.queueOk && b.queueOk)
  | .vmin _ _ d a b _ => (d.queueOk && a.queueOk && b.queueOk)
  | .vmax _ _ d a b _ => (d.queueOk && a.queueOk && b.queueOk)
  | .vabs _ _ d a _ => (d.queueOk && a.queueOk)
  | .vneg _ _ d a _ => (d.queueOk && a.queueOk)
  | .viadd _ _ d a b _ => (d.queueOk && a.queueOk && b.queueOk)
  | .visub _ _ d a b _ => (d.queueOk && a.queueOk && b.queueOk)
  | .vimul _ _ d a b _ => (d.queueOk && a.queueOk && b.queueOk)
  | .vimulh _ _ d a b _ => (d.queueOk && a.queueOk && b.queueOk)
  | .vshl _ _ d a b _ => (d.queueOk && a.queueOk && b.queueOk)
  | .vshr _ _ d a b _ => (d.queueOk && a.queueOk && b.queueOk)
  | .vsra _ _ d a b _ => (d.queueOk && a.queueOk && b.queueOk)
  | .vand _ d a b _ => (d.queueOk && a.queueOk && b.queueOk)
  | .vor _ d a b _ => (d.queueOk && a.queueOk && b.queueOk)
  | .vxor _ d a b _ => (d.queueOk && a.queueOk && b.queueOk)
  | .viabs _ _ d a _ => (d.queueOk && a.queueOk)
  | .vnot _ d a _ => (d.queueOk && a.queueOk)
  | .vcmp _ _ _ _ a b _ => (a.queueOk && b.queueOk)
  | .vsel _ _ d a b => (d.queueOk && a.queueOk && b.queueOk)
  | .vmov _ _ d a _ => (d.queueOk && a.queueOk)
  | .vmovl _ _ d _ _ => (d.queueOk)
  | .vbcast _ _ d _ _ => (d.queueOk)
  | .vli _ _ d _ _ => (d.queueOk)
  | .vimin _ _ d a b _ => (d.queueOk && a.queueOk && b.queueOk)
  | .vimax _ _ d a b _ => (d.queueOk && a.queueOk && b.queueOk)
  | .vcvt _ d a _ _ _ => (d.queueOk && a.queueOk)
  | .vqnt _ d a _ _ _ => (d.queueOk && a.queueOk)
  | .vdqnt _ d a _ _ _ => (d.queueOk && a.queueOk)
  | .qfix _ d a _ _ => (d.queueOk && a.queueOk)
  | .qflt _ d a _ _ => (d.queueOk && a.queueOk)
  | .revadd _ d a b _ => (d.queueOk && a.queueOk && b.queueOk)
  | .revsub _ d a b _ => (d.queueOk && a.queueOk && b.queueOk)
  | .vexp2 _ _ d a _ => (d.queueOk && a.queueOk)
  | .vlog2 _ _ d a _ => (d.queueOk && a.queueOk)
  | .vrcp _ _ d a _ => (d.queueOk && a.queueOk)
  | .vrsqrt _ _ d a _ => (d.queueOk && a.queueOk)
  | .vtanh _ _ d a _ => (d.queueOk && a.queueOk)
  | .vrnd _ _ d _ _ _ => (d.queueOk)
  | .vredsum _ _ d a _ => (d.queueOk && a.queueOk)
  | .vredmax _ _ d a _ => (d.queueOk && a.queueOk)
  | .vredmin _ _ d a _ => (d.queueOk && a.queueOk)
  | .vredarg _ _ d a _ _ => (d.queueOk && a.queueOk)
  | .vscan _ _ d a _ => (d.queueOk && a.queueOk)
  | .vsortk _ _ d a b _ => (d.queueOk && a.queueOk && b.queueOk)
  | .vperm _ _ d a b _ => (d.queueOk && a.queueOk && b.queueOk)
  | .vslide _ _ d a b _ => (d.queueOk && a.queueOk && b.queueOk)
  | .acld _ _ v _ _ => (v.queueOk)
  | .acst _ _ v _ _ => (v.queueOk)
  | .acsta _ _ _ v _ _ => (v.queueOk)
  | .xlane _ v _ _ => (v.queueOk)
  | .katchk _ v _ => v.queueOk
  | .bqputX _ _ q => (q == 1 || q == 3)
  | .bqgetX _ _ q => (q == 0)
  | _ => true
/-- The instruction is one of those the encoding admits (03 R64). A prefix is admitted here with any fields: its fate
depends on the word after it (03 R54). -/
def WellFormed (i : Instr) : Prop := codesOk i = true ∧ selectorsOk i = true ∧ queuesOk i = true

abbrev wellFormed (i : Instr) : Bool := codesOk i && selectorsOk i && queuesOk i

theorem wellFormed_iff (i : Instr) : wellFormed i = true ↔ WellFormed i := by
  simp [wellFormed, WellFormed, and_assoc]

end Sys2Proof
end

