-- ==== Sys2Proof/Decode.lean ====
section
/-! DEFINITION. Decoding of the streams' words and their encoder (03 R44 to R66). -/

namespace Sys2Proof

/-- Codes of Cond (03 R59). -/
def Cond.code : Cond → Nat
  | .eq => 0 | .ne => 1 | .lt => 2 | .ltu => 3 | .ge => 4 | .geu => 5
def Cond.ofCode : Nat → Option Cond
  | 0 => some .eq | 1 => some .ne | 2 => some .lt | 3 => some .ltu | 4 => some .ge | 5 => some .geu | _ => none

/-- Codes of MemW (03 R59). -/
def MemW.code : MemW → Nat
  | .b => 0 | .h => 1 | .w => 2 | .d => 3 | .bu => 4 | .hu => 5 | .wu => 6
def MemW.ofCode : Nat → Option MemW
  | 0 => some .b | 1 => some .h | 2 => some .w | 3 => some .d | 4 => some .bu | 5 => some .hu | 6 => some .wu | _ => none

/-- Codes of ExtW (03 R58). -/
def ExtW.code : ExtW → Nat
  | .b => 0 | .h => 1 | .w => 2
def ExtW.ofCode : Nat → Option ExtW
  | 0 => some .b | 1 => some .h | 2 => some .w | _ => none

/-- Codes of Scope (03 R59). -/
def Scope.code : Scope → Nat
  | .core => 0 | .tile => 1 | .orbit => 2 | .die => 3 | .pkg => 4 | .sys => 5
def Scope.ofCode : Nat → Option Scope
  | 0 => some .core | 1 => some .tile | 2 => some .orbit | 3 => some .die | 4 => some .pkg | 5 => some .sys | _ => none

/-- Codes of ShField (03 R59). -/
def ShField.code : ShField → Nat
  | .base => 0 | .ext0 => 1 | .ext1 => 2 | .ext2 => 3 | .ext3 => 4 | .str1 => 5 | .str2 => 6 | .str3 => 7 | .fmt => 8 | .layout => 9 | .albn => 10 | .albf => 11 | .gver => 12 | .sync => 13 | .qfrac => 14
def ShField.ofCode : Nat → Option ShField
  | 0 => some .base | 1 => some .ext0 | 2 => some .ext1 | 3 => some .ext2 | 4 => some .ext3 | 5 => some .str1 | 6 => some .str2 | 7 => some .str3 | 8 => some .fmt | 9 => some .layout | 10 => some .albn | 11 => some .albf | 12 => some .gver | 13 => some .sync | 14 => some .qfrac | _ => none

/-- Codes of Fmt (03 R50). -/
def Fmt.code : Fmt → Nat
  | .f32 => 0 | .f16 => 1 | .bf16 => 2 | .i32 => 3 | .i16 => 4 | .i8 => 5
def Fmt.ofCode : Nat → Option Fmt
  | 0 => some .f32 | 1 => some .f16 | 2 => some .bf16 | 3 => some .i32 | 4 => some .i16 | 5 => some .i8 | _ => none

/-- Codes of MFmt (03 R62). -/
def MFmt.code : MFmt → Nat
  | .f16 => 0 | .bf16 => 1 | .i8 => 2 | .t8 => 3 | .e5m2 => 4 | .t8e5 => 5 | .e5t8 => 6
def MFmt.ofCode : Nat → Option MFmt
  | 0 => some .f16 | 1 => some .bf16 | 2 => some .i8 | 3 => some .t8 | 4 => some .e5m2 | 5 => some .t8e5 | 6 => some .e5t8 | _ => none

/-- Codes of DrainMode (09 R205). -/
def DrainMode.code : DrainMode → Nat
  | .plain => 0 | .i8 => 1 | .u8 => 2
def DrainMode.ofCode : Nat → Option DrainMode
  | 0 => some .plain | 1 => some .i8 | 2 => some .u8 | _ => none

/-- Codes of CFmt (08 R173). -/
def CFmt.code : CFmt → Nat
  | .f32 => 0 | .f16 => 1 | .bf16 => 2 | .e5m2 => 3 | .t8 => 4 | .i32 => 5 | .i16 => 6 | .i8 => 7
def CFmt.ofCode : Nat → CFmt
  | 0 => .f32 | 1 => .f16 | 2 => .bf16 | 3 => .e5m2 | 4 => .t8 | 5 => .i32 | 6 => .i16 | _ => .i8

/-- Codes of QFmt (08 R174). -/
def QFmt.code : QFmt → Nat
  | .t8 => 0 | .e5m2 => 1 | .i8 => 2 | .u8 => 3
def QFmt.ofCode : Nat → QFmt
  | 0 => .t8 | 1 => .e5m2 | 2 => .i8 | _ => .u8

/-- Codes of LaneW (08 R183). -/
def LaneW.code : LaneW → Nat
  | .b => 0 | .h => 1 | .w => 2 | .d => 3
def LaneW.ofCode : Nat → LaneW
  | 0 => .b | 1 => .h | 2 => .w | _ => .d

/-- The guard field: negate, then the predicate index (02 R33, 03 R48). -/
def Guard.code (g : Guard) : Nat := b2n g.neg * 8 + g.p.val
def gG (w lo : Nat) : Guard := ⟨bitOf w (lo + 3), Fin.ofNat 8 (w / 2 ^ lo)⟩
/-- A field of a word as a number below n, and as n bits. -/
def gF (n : Nat) [NeZero n] (w lo : Nat) : Fin n := Fin.ofNat n (w / 2 ^ lo)
def gB (n w lo : Nat) : BitVec n := BitVec.ofNat n (w / 2 ^ lo)
/-- A field shown as 0. -/
def zf (w lo len : Nat) : Bool := field w lo len == 0
/-- A field put into a word. -/
def put (lo n rest : Nat) : Nat := n * 2 ^ lo + rest

/-- The six-bit operand of an X word as a source (02 R27); none traps RESERVED_FIELD (03 R64). -/
def Src.code : Src → Nat
  | .v n => n.val | .q n => 32 + n.val | .l n => 40 + n.val | .x n => 48 + n.val
def Src.ofCode (n : Nat) : Option Src :=
  if n < 32 then some (.v (Fin.ofNat 32 n)) else if n < 40 then some (.q (Fin.ofNat 8 n))
  else if n < 48 then some (.l (Fin.ofNat 8 n)) else if n < 56 then some (.x (Fin.ofNat 8 n)) else none
/-- The six-bit operand of an X word as a destination (02 R27). -/
def Dst.code : Dst → Nat
  | .v n => n.val | .q n => 32 + n.val | .none => 63
def Dst.ofCode (n : Nat) : Option Dst :=
  if n < 32 then some (.v (Fin.ofNat 32 n)) else if n < 40 then some (.q (Fin.ofNat 8 n))
  else if n = 63 then some .none else Option.none
/-- VMOVL's source must be a latch (08 R171). -/
def latchOf (n : Nat) : Option N8 := if 40 ≤ n ∧ n < 48 then some (Fin.ofNat 8 n) else none

/-- ORD over scope: bits [6:2] of a copy or matrix word (03 R61). ORD 1 is acquire, 2 release; with ORD 0 the scope is 0. -/
def OrdF.code (o : OrdF) : Nat := o.sc.code + 8 * b2n o.acq + 16 * b2n o.rel
def OrdF.ofCode (n : Nat) : Option OrdF :=
  match Scope.ofCode (n % 8) with
  | some sc => if (OrdF.ok ⟨bitOf n 3, bitOf n 4, sc⟩) then some ⟨bitOf n 3, bitOf n 4, sc⟩ else none
  | none => none

/-- Bits [20:12] of the A stream's BQPUT and BQGET (07 R151): the unused operand field is 0. -/
def BqA.code : BqA → Nat
  | .pred p => p.val * 2 | .reg r => r.val * 16 + 1
def BqA.ofCode (n : Nat) : Option BqA :=
  if bitOf n 0 then (if field n 1 3 = 0 then some (.reg (Fin.ofNat 32 (n / 16))) else none)
  else if field n 4 5 = 0 then some (.pred (Fin.ofNat 8 (n / 2))) else none
/-- Bits [15:8] of the X stream's BQPUT and BQGET (07 R151). -/
def BqX.code : BqX → Nat
  | .pred p => p.val | .x r => 128 + r.val * 8
def BqX.ofCode (n : Nat) : Option BqX :=
  if bitOf n 7 then (if field n 0 3 = 0 then some (.x (Fin.ofNat 16 (n / 8))) else none)
  else if field n 3 4 = 0 then some (.pred (Fin.ofNat 8 n)) else none

/-- The row of an accumulator word, bits [6:0] with XR (bit 23) (10 R219). -/
def RowSel.code : RowSel → Nat
  | .lit r => r.val | .x r => r.val + 2 ^ 23
def RowSel.ofCode (n : Nat) : Option RowSel :=
  if bitOf n 7 then (if field n 4 3 = 0 then some (.x (Fin.ofNat 16 n)) else none) else some (.lit (Fin.ofNat 128 n))

/-- Formats of VRND: 0 uniform, 3 raw bits (08 R179). -/
def vrndFmt : Nat → Option Bool | 0 => some false | 3 => some true | _ => none
/-- Select of MSTAT (09 R207). -/
def mstatSel : Nat → Option Bool | 0 => some false | 1 => some true | _ => none
/-- Levels of WIDF, 1 to 6 (14 R309). -/
def widfLev (n : Nat) : Option (Fin 6) := if 1 ≤ n ∧ n ≤ 6 then some (Fin.ofNat 6 (n - 1)) else none
/-- A number below n. -/
def finOpt (n : Nat) [NeZero n] (k : Nat) : Option (Fin n) := if k < n then some (Fin.ofNat n k) else none

/-- What a word decodes to: an instruction or a fate. -/
abbrev Dec := Except Fate Instr
/-- A field shown as 0, or a selector: otherwise RESERVED_FIELD (03 R64). -/
def need (ok : Bool) (k : Dec) : Dec := if ok then k else .error .reservedField
/-- A code the map allots: otherwise ILLEGAL_WORD (03 R64). -/
def needI (ok : Bool) (k : Dec) : Dec := if ok then k else .error .illegalWord
def opt {α : Type} (f : Fate) (o : Option α) (k : α → Dec) : Dec := match o with | some a => k a | none => .error f

/-- The 16-bit words of the C stream (03 R56). -/
def decodeC16 (w : Nat) : Dec := match field w 11 4 with
  | 0 => need (zf w 0 11) <| .ok (.nop16)
  | 1 => .ok (.pfx (gF 8 w 8) (gF 8 w 5) (gF 16 w 1) (bitOf w 0))
  | 2 => .ok (.addiShort (gF 32 w 6) (gB 6 w 0))
  | 3 => .ok (.liShort (gF 32 w 6) (gB 6 w 0))
  | 4 => if bitOf w 0 then .ok (.subShort (gF 32 w 6) (gF 32 w 1)) else .ok (.addShort (gF 32 w 6) (gF 32 w 1))
  | 5 => .ok (.exitCShort (gG w 7) (gB 7 w 0))
  | 6 => need (zf w 0 11) <| .ok (.retShort)
  | _ => .error .illegalWord

/-- The 32-bit words of the C stream (03 R57, R58). -/
def decodeC32 (w : Nat) : Dec := match field w 25 6 with
  | 0x00 => match field w 0 6 with
    | 0x00 => .ok (.add (gG w 21) (gF 32 w 16) (gF 32 w 11) (gF 32 w 6))
    | 0x01 => .ok (.sub (gG w 21) (gF 32 w 16) (gF 32 w 11) (gF 32 w 6))
    | 0x02 => .ok (.mul (gG w 21) (gF 32 w 16) (gF 32 w 11) (gF 32 w 6))
    | 0x03 => .ok (.mulh (gG w 21) (gF 32 w 16) (gF 32 w 11) (gF 32 w 6))
    | 0x04 => .ok (.mulhu (gG w 21) (gF 32 w 16) (gF 32 w 11) (gF 32 w 6))
    | 0x05 => .ok (.div (gG w 21) (gF 32 w 16) (gF 32 w 11) (gF 32 w 6))
    | 0x06 => .ok (.divu (gG w 21) (gF 32 w 16) (gF 32 w 11) (gF 32 w 6))
    | 0x07 => .ok (.rem (gG w 21) (gF 32 w 16) (gF 32 w 11) (gF 32 w 6))
    | 0x08 => .ok (.remu (gG w 21) (gF 32 w 16) (gF 32 w 11) (gF 32 w 6))
    | 0x09 => .ok (.and (gG w 21) (gF 32 w 16) (gF 32 w 11) (gF 32 w 6))
    | 0x0A => .ok (.or (gG w 21) (gF 32 w 16) (gF 32 w 11) (gF 32 w 6))
    | 0x0B => .ok (.xor (gG w 21) (gF 32 w 16) (gF 32 w 11) (gF 32 w 6))
    | 0x0C => .ok (.andn (gG w 21) (gF 32 w 16) (gF 32 w 11) (gF 32 w 6))
    | 0x0D => .ok (.shl (gG w 21) (gF 32 w 16) (gF 32 w 11) (gF 32 w 6))
    | 0x0E => .ok (.shr (gG w 21) (gF 32 w 16) (gF 32 w 11) (gF 32 w 6))
    | 0x0F => .ok (.sra (gG w 21) (gF 32 w 16) (gF 32 w 11) (gF 32 w 6))
    | 0x10 => .ok (.min (gG w 21) (gF 32 w 16) (gF 32 w 11) (gF 32 w 6))
    | 0x11 => .ok (.max (gG w 21) (gF 32 w 16) (gF 32 w 11) (gF 32 w 6))
    | 0x12 => .ok (.minu (gG w 21) (gF 32 w 16) (gF 32 w 11) (gF 32 w 6))
    | 0x13 => .ok (.maxu (gG w 21) (gF 32 w 16) (gF 32 w 11) (gF 32 w 6))
    | 0x14 => need (zf w 6 5) <| .ok (.clz (gG w 21) (gF 32 w 16) (gF 32 w 11))
    | 0x15 => need (zf w 6 5) <| .ok (.ctz (gG w 21) (gF 32 w 16) (gF 32 w 11))
    | 0x16 => need (zf w 6 5) <| .ok (.popc (gG w 21) (gF 32 w 16) (gF 32 w 11))
    | 0x17 => opt .reservedField (ExtW.ofCode (field w 6 5)) fun wd => .ok (.sext (gG w 21) (gF 32 w 16) (gF 32 w 11) wd)
    | 0x18 => opt .reservedField (ExtW.ofCode (field w 6 5)) fun wd => .ok (.zext (gG w 21) (gF 32 w 16) (gF 32 w 11) wd)
    | n => needI (decide (56 ≤ n)) <| .ok (.sel (gG w 21) (gF 8 w 0) (gF 32 w 16) (gF 32 w 11) (gF 32 w 6))
  | 0x01 => .ok (.addi (gG w 21) (gF 32 w 16) (gF 32 w 11) (gB 11 w 0))
  | 0x02 => .ok (.andi (gG w 21) (gF 32 w 16) (gF 32 w 11) (gB 11 w 0))
  | 0x03 => .ok (.ori (gG w 21) (gF 32 w 16) (gF 32 w 11) (gB 11 w 0))
  | 0x04 => .ok (.xori (gG w 21) (gF 32 w 16) (gF 32 w 11) (gB 11 w 0))
  | 0x05 => need (zf w 6 5) <| .ok (.shli (gG w 21) (gF 32 w 16) (gF 32 w 11) (gF 64 w 0))
  | 0x06 => need (zf w 6 5) <| .ok (.shri (gG w 21) (gF 32 w 16) (gF 32 w 11) (gF 64 w 0))
  | 0x07 => need (zf w 6 5) <| .ok (.srai (gG w 21) (gF 32 w 16) (gF 32 w 11) (gF 64 w 0))
  | 0x08 => .ok (.li (gG w 21) (gF 32 w 16) (gB 16 w 0))
  | 0x09 => .ok (.lui (gG w 21) (gF 32 w 16) (gB 16 w 0))
  | 0x10 => opt .illegalWord (Cond.ofCode (field w 0 3)) fun cc => need (zf w 3 3 && zf w 19 2) <| .ok (.cmp (gG w 21) cc (gF 8 w 16) (gF 32 w 11) (gF 32 w 6))
  | 0x11 => opt .illegalWord (Cond.ofCode (field w 8 3)) fun cc => need (zf w 19 2) <| .ok (.cmpi (gG w 21) cc (gF 8 w 16) (gF 32 w 11) (gB 8 w 0))
  | 0x12 => match field w 0 3 with
    | 0x00 => need (zf w 3 3 && zf w 9 2 && zf w 14 2 && zf w 19 2) <| .ok (.pand (gG w 21) (gF 8 w 16) (gF 8 w 11) (gF 8 w 6))
    | 0x01 => need (zf w 3 3 && zf w 9 2 && zf w 14 2 && zf w 19 2) <| .ok (.por (gG w 21) (gF 8 w 16) (gF 8 w 11) (gF 8 w 6))
    | 0x02 => need (zf w 3 3 && zf w 9 2 && zf w 14 2 && zf w 19 2) <| .ok (.pxor (gG w 21) (gF 8 w 16) (gF 8 w 11) (gF 8 w 6))
    | 0x03 => need (zf w 3 8 && zf w 14 2 && zf w 19 2) <| .ok (.pnot (gG w 21) (gF 8 w 16) (gF 8 w 11))
    | 0x04 => need (zf w 3 8 && zf w 14 2 && zf w 19 2) <| .ok (.pmov (gG w 21) (gF 8 w 16) (gF 8 w 11))
    | _ => .error .illegalWord
  | 0x18 => opt .illegalWord (MemW.ofCode (field w 8 3)) fun wd => .ok (.ld (gG w 21) wd (gF 32 w 16) (gF 32 w 11) (gB 8 w 0))
  | 0x19 => opt .illegalWord (MemW.ofCode (field w 8 3)) fun wd => needI wd.isStore <| .ok (.st (gG w 21) wd (gF 32 w 16) (gF 32 w 11) (gB 8 w 0))
  | 0x1A => opt .illegalWord (MemW.ofCode (field w 8 3)) fun wd => needI wd.isStrongLoad <| .ok (.lds (gG w 21) wd (gF 32 w 16) (gF 32 w 11) (gB 8 w 0))
  | 0x1B => opt .illegalWord (MemW.ofCode (field w 8 3)) fun wd => needI (wd == .w || wd == .d) <| .ok (.sts (gG w 21) wd (gF 32 w 16) (gF 32 w 11) (gB 8 w 0))
  | 0x20 => .ok (.exitC (gG w 21) (gB 21 w 0))
  | 0x21 => need (zf w 0 11 && zf w 16 5) <| .ok (.exits (gG w 21) (gF 32 w 11))
  | 0x22 => .ok (.call (gG w 21) (gB 21 w 0))
  | 0x23 => need (zf w 0 21) <| .ok (.ret (gG w 21))
  | 0x24 => opt .reservedField (finOpt 5 (field w 18 3)) fun narg => .ok (.dispA (gG w 21) narg (gF 64 w 12) (gB 12 w 0))
  | 0x25 => opt .reservedField (finOpt 5 (field w 18 3)) fun narg => .ok (.dispX (gG w 21) narg (gF 64 w 12) (gB 12 w 0))
  | 0x26 => need (zf w 2 19) <| .ok (.djoin (gG w 21) (bitOf w 1) (bitOf w 0))
  | 0x27 => need (zf w 0 11 && zf w 16 5) <| .ok (.ovswap (gG w 21) (gF 32 w 11))
  | 0x28 => match field w 2 3 with
    | 0x00 => need (zf w 0 2) <| .ok (.amadd (gG w 21) (bitOf w 5) (gF 32 w 16) (gF 32 w 11) (gF 32 w 6))
    | 0x01 => need (zf w 0 2) <| .ok (.ammin (gG w 21) (bitOf w 5) (gF 32 w 16) (gF 32 w 11) (gF 32 w 6))
    | 0x02 => need (zf w 0 2) <| .ok (.ammax (gG w 21) (bitOf w 5) (gF 32 w 16) (gF 32 w 11) (gF 32 w 6))
    | 0x03 => need (zf w 0 2) <| .ok (.amand (gG w 21) (bitOf w 5) (gF 32 w 16) (gF 32 w 11) (gF 32 w 6))
    | 0x04 => need (zf w 0 2) <| .ok (.amor (gG w 21) (bitOf w 5) (gF 32 w 16) (gF 32 w 11) (gF 32 w 6))
    | 0x05 => need (zf w 0 2) <| .ok (.amxor (gG w 21) (bitOf w 5) (gF 32 w 16) (gF 32 w 11) (gF 32 w 6))
    | 0x06 => need (zf w 0 2) <| .ok (.amswp (gG w 21) (bitOf w 5) (gF 32 w 16) (gF 32 w 11) (gF 32 w 6))
    | _ => .error .illegalWord
  | 0x29 => need (zf w 0 5) <| .ok (.amcas (gG w 21) (bitOf w 5) (gF 32 w 16) (gF 32 w 11) (gF 32 w 6))
  | 0x2A => need (zf w 0 6) <| .ok (.bind (gG w 21) (gF 32 w 16) (gF 32 w 11) (gF 32 w 6))
  | 0x2B => need (zf w 0 11 && zf w 16 5) <| .ok (.unbind (gG w 21) (gF 32 w 11))
  | 0x2C => need (zf w 3 8 && zf w 16 5) <| opt .reservedField (Scope.ofCode (field w 0 3)) fun sc => .ok (.acq (gG w 21) (gF 32 w 11) sc)
  | 0x2D => need (zf w 3 8 && zf w 16 5) <| opt .reservedField (Scope.ofCode (field w 0 3)) fun sc => .ok (.rel (gG w 21) (gF 32 w 11) sc)
  | 0x2E => need (zf w 3 18) <| opt .reservedField (Scope.ofCode (field w 0 3)) fun sc => .ok (.fence (gG w 21) sc)
  | 0x30 => match field w 8 3 with
    | 0x00 => need (zf w 0 8 && zf w 11 14) <| .ok (.syzy)
    | 0x01 => need (zf w 0 8 && zf w 11 5) <| .ok (.rdsc (gG w 21) (gF 32 w 16))
    | 0x02 => need (zf w 0 8 && zf w 16 5) <| .ok (.waitsc (gG w 21) (gF 32 w 11))
    | _ => .error .illegalWord
  | 0x31 => .ok (.post (gG w 21) (gF 32 w 16) (gF 32 w 11) (gB 11 w 0))
  | 0x32 => need (zf w 0 11) <| .ok (.mbrd (gG w 21) (gF 32 w 16) (gF 32 w 11))
  | 0x33 => need (zf w 6 5) <| opt .reservedField (finOpt 31 (field w 0 6)) fun f => .ok (.lrpatch (gG w 21) (gF 32 w 16) (gF 32 w 11) f)
  | 0x34 => need (zf w 0 11 && zf w 16 5) <| .ok (.lrarm (gG w 21) (gF 32 w 11))
  | 0x35 => need (zf w 0 11 && zf w 16 5) <| .ok (.childq (gG w 21) (gF 32 w 11))
  | 0x36 => need (zf w 3 13) <| opt .reservedField (widfLev (field w 0 3)) fun lev => .ok (.widf (gG w 21) (gF 32 w 16) lev)
  | 0x37 => match field w 0 1 with
    | 0x00 => need (zf w 1 20) <| .ok (.lease (gG w 21))
    | _ => need (zf w 1 20) <| .ok (.unlease (gG w 21))
  | 0x38 => need (zf w 20 1) <| .ok (.shld (gG w 21) (gF 16 w 16) (gF 32 w 11) (gB 11 w 0))
  | 0x39 => need (zf w 20 1) <| .ok (.shst (gG w 21) (gF 16 w 16) (gF 32 w 11) (gB 11 w 0))
  | 0x3A => match field w 10 1 with
    | 0x00 => need (zf w 4 2 && zf w 11 5) <| opt .reservedField (ShField.ofCode (field w 0 4)) fun f => .ok (.shset (gG w 21) (gF 32 w 16) (gF 16 w 6) f)
    | _ => need (zf w 4 2 && zf w 11 5) <| opt .reservedField (ShField.ofCode (field w 0 4)) fun f => .ok (.shget (gG w 21) (gF 32 w 16) (gF 16 w 6) f)
  | 0x3B => match field w 8 3 with
    | 0x00 => need (zf w 1 7 && zf w 16 5) <| .ok (.albinit (gG w 21) (gF 32 w 11) (bitOf w 0))
    | 0x01 => need (zf w 0 8 && zf w 16 5) <| .ok (.albsettle (gG w 21) (gF 32 w 11))
    | 0x02 => need (zf w 4 4) <| .ok (.albrd (gG w 21) (gF 32 w 16) (gF 32 w 11) (gF 16 w 0))
    | _ => .error .illegalWord
  | 0x3C => match field w 8 3 with
    | 0x00 => need (zf w 11 10) <| .ok (.trap (gG w 21) (gB 8 w 0))
    | 0x01 => need (zf w 0 8 && zf w 11 10) <| .ok (.rft (gG w 21))
    | 0x02 => need (zf w 11 5 && zf w 17 4) <| .ok (.safept (gG w 21) (bitOf w 16) (gB 8 w 0))
    | 0x03 => need (zf w 0 8 && zf w 16 5) <| .ok (.corerst (gG w 21) (gF 32 w 11))
    | 0x04 => need (zf w 0 8 && zf w 11 10) <| .ok (.halt (gG w 21))
    | 0x05 => need (zf w 0 8 && zf w 11 10) <| .ok (.nop (gG w 21))
    | _ => .error .illegalWord
  | 0x3D => match field w 10 1 with
    | 0x00 => need (zf w 11 5) <| .ok (.srd (gG w 21) (gF 32 w 16) (gF 1024 w 0))
    | _ => need (zf w 16 5) <| .ok (.swr (gG w 21) (gF 32 w 11) (gF 1024 w 0))
  | _ => .error .illegalWord

/-- The 16-bit words of the A stream (03 R56). -/
def decodeA16 (w : Nat) : Dec := match field w 11 4 with
  | 0 => need (zf w 0 11) <| .ok (.nop16)
  | 1 => .ok (.pfx (gF 8 w 8) (gF 8 w 5) (gF 16 w 1) (bitOf w 0))
  | 2 => .ok (.aaddiShort (gF 32 w 6) (gB 6 w 0))
  | 3 => .ok (.aliShort (gF 32 w 6) (gB 6 w 0))
  | 4 => .ok (.ldqShort (gF 8 w 8) (gF 32 w 3) (gF 8 w 0))
  | 5 => .ok (.stqShort (gF 8 w 8) (gF 32 w 3) (gF 8 w 0))
  | 6 => .ok (.exitAShort (gG w 7) (gB 7 w 0))
  | 7 => need (zf w 0 6) <| .ok (.bqputAShort (gF 4 w 9) (gF 8 w 6))
  | 8 => need (zf w 0 6) <| .ok (.tagwallShort (gF 32 w 6))
  | _ => .error .illegalWord

/-- The 32-bit words of the A stream (03 R61, R62). -/
def decodeA32 (w : Nat) : Dec := match field w 25 6 with
  | 0x00 => match field w 0 6 with
    | 0x00 => .ok (.aadd (gG w 21) (gF 32 w 16) (gF 32 w 11) (gF 32 w 6))
    | 0x01 => .ok (.asub (gG w 21) (gF 32 w 16) (gF 32 w 11) (gF 32 w 6))
    | 0x02 => .ok (.amul (gG w 21) (gF 32 w 16) (gF 32 w 11) (gF 32 w 6))
    | 0x09 => .ok (.aand (gG w 21) (gF 32 w 16) (gF 32 w 11) (gF 32 w 6))
    | 0x0A => .ok (.aor (gG w 21) (gF 32 w 16) (gF 32 w 11) (gF 32 w 6))
    | 0x10 => .ok (.amin (gG w 21) (gF 32 w 16) (gF 32 w 11) (gF 32 w 6))
    | 0x11 => .ok (.amax (gG w 21) (gF 32 w 16) (gF 32 w 11) (gF 32 w 6))
    | _ => .error .illegalWord
  | 0x01 => .ok (.aaddi (gG w 21) (gF 32 w 16) (gF 32 w 11) (gB 11 w 0))
  | 0x02 => need (zf w 6 5) <| .ok (.ashli (gG w 21) (gF 32 w 16) (gF 32 w 11) (gF 64 w 0))
  | 0x03 => need (zf w 6 5) <| .ok (.ashri (gG w 21) (gF 32 w 16) (gF 32 w 11) (gF 64 w 0))
  | 0x04 => .ok (.ali (gG w 21) (gF 32 w 16) (gB 16 w 0))
  | 0x05 => .ok (.alui (gG w 21) (gF 32 w 16) (gB 16 w 0))
  | 0x10 => opt .illegalWord (Cond.ofCode (field w 0 3)) fun cc => need (zf w 3 3 && zf w 19 2) <| .ok (.acmp (gG w 21) cc (gF 8 w 16) (gF 32 w 11) (gF 32 w 6))
  | 0x11 => opt .illegalWord (Cond.ofCode (field w 8 3)) fun cc => need (zf w 19 2) <| .ok (.acmpi (gG w 21) cc (gF 8 w 16) (gF 32 w 11) (gB 8 w 0))
  | 0x14 => need (zf w 19 2) <| .ok (.ldq (gG w 21) (gF 8 w 16) (gF 32 w 11) (gB 11 w 0))
  | 0x15 => need (zf w 0 6 && zf w 19 2) <| .ok (.ldqs (gG w 21) (gF 8 w 16) (gF 32 w 11) (gF 32 w 6))
  | 0x16 => need (zf w 19 2) <| .ok (.ldqb (gG w 21) (gF 8 w 16) (gF 32 w 11) (gB 11 w 0))
  | 0x17 => need (zf w 0 6 && zf w 19 2) <| .ok (.gathq (gG w 21) (gF 8 w 16) (gF 32 w 11) (gF 32 w 6))
  | 0x18 => need (zf w 19 2) <| .ok (.stq (gG w 21) (gF 8 w 16) (gF 32 w 11) (gB 11 w 0))
  | 0x19 => need (zf w 0 6 && zf w 19 2) <| .ok (.stqs (gG w 21) (gF 8 w 16) (gF 32 w 11) (gF 32 w 6))
  | 0x1A => need (zf w 0 6 && zf w 19 2) <| .ok (.scatq (gG w 21) (gF 8 w 16) (gF 32 w 11) (gF 32 w 6))
  | 0x20 => opt .reservedField (OrdF.ofCode (field w 2 5)) fun ord => .ok (.cpy (gG w 21) (gF 16 w 17) (gF 16 w 13) (gF 64 w 7) ord (bitOf w 1) (bitOf w 0))
  | 0x21 => need (zf w 0 3) <| .ok (.cpyg (gG w 21) (gF 16 w 17) (gF 16 w 13) (gF 64 w 7) (gF 16 w 3))
  | 0x22 => need (zf w 0 2) <| opt .reservedField (OrdF.ofCode (field w 2 5)) fun ord => .ok (.cpyr (gG w 21) (gF 16 w 17) (gF 16 w 13) (gF 64 w 7) ord)
  | 0x23 => need (zf w 0 6) <| .ok (.tailput (gG w 21) (gF 16 w 17) (gF 32 w 12) (gF 64 w 6))
  | 0x24 => need (zf w 0 6) <| .ok (.tailget (gG w 21) (gF 16 w 17) (gF 32 w 12) (gF 64 w 6))
  | 0x25 => need (zf w 0 6 && zf w 17 4) <| .ok (.offload (gG w 21) (gF 32 w 12) (gF 64 w 6))
  | 0x26 => need (zf w 0 6 && zf w 17 4) <| .ok (.recall (gG w 21) (gF 32 w 12) (gF 64 w 6))
  | 0x28 => need (zf w 0 11 && zf w 16 5) <| .ok (.tagwany (gG w 21) (gF 32 w 11))
  | 0x29 => need (zf w 0 11 && zf w 16 5) <| .ok (.tagwall (gG w 21) (gF 32 w 11))
  | 0x2A => need (zf w 0 11) <| .ok (.tagffr (gG w 21) (gF 32 w 16) (gF 32 w 11))
  | 0x2B => need (zf w 0 11 && zf w 16 5) <| .ok (.tagclr (gG w 21) (gF 32 w 11))
  | 0x2C => opt .illegalWord (MFmt.ofCode (field w 21 4)) fun f => need (zf w 0 1) <| opt .reservedField (OrdF.ofCode (field w 2 5)) fun ord => .ok (.mma f (gF 16 w 17) (gF 16 w 13) (gF 32 w 8) (bitOf w 7) ord (bitOf w 1))
  | 0x2D => opt .illegalWord (MFmt.ofCode (field w 21 4)) fun f => needI (f != .f16 && f != .bf16) <| need (zf w 0 1) <| opt .reservedField (OrdF.ofCode (field w 2 5)) fun ord => .ok (.mmas f (gF 16 w 17) (gF 16 w 13) (gF 32 w 8) (bitOf w 7) ord (bitOf w 1))
  | 0x2E => need (zf w 0 2 && zf w 7 1 && zf w 13 4 && zf w 21 4) <| opt .reservedField (OrdF.ofCode (field w 2 5)) fun ord => .ok (.mzero (gF 16 w 17) (gF 32 w 8) ord)
  | 0x2F => match field w 8 3 with
    | 0x00 => need (zf w 3 5 && zf w 11 10) <| .ok (.mcommit (gG w 21) (gF 8 w 0))
    | 0x01 => need (zf w 3 5 && zf w 11 10) <| .ok (.mwaitb (gG w 21) (gF 8 w 0))
    | 0x02 => need (zf w 3 3 && zf w 11 5 && zf w 19 2) <| opt .reservedField (mstatSel (field w 6 2)) fun fault => .ok (.mstat (gG w 21) (gF 8 w 16) fault (gF 8 w 0))
    | _ => .error .illegalWord
  | 0x30 => opt .illegalWord (DrainMode.ofCode (field w 21 4)) fun m => need (zf w 0 2 && zf w 7 1) <| opt .reservedField (OrdF.ofCode (field w 2 5)) fun ord => .ok (.mdrain m (gF 16 w 17) (gF 16 w 13) (gF 32 w 8) ord)
  | 0x38 => need (zf w 0 10) <| opt .reservedField (BqA.ofCode (field w 12 9)) fun op => .ok (.bqputA (gG w 21) op (gF 4 w 10))
  | 0x39 => need (zf w 0 10) <| opt .reservedField (BqA.ofCode (field w 12 9)) fun op => .ok (.bqgetA (gG w 21) op (gF 4 w 10))
  | 0x3A => .ok (.exitA (gG w 21) (gB 21 w 0))
  | 0x3B => need (zf w 0 11) <| opt .reservedField (finOpt 14 (field w 16 5)) fun ch => .ok (.pgdist (gG w 21) ch (gF 32 w 11))
  | _ => .error .illegalWord

/-- The 16-bit words of the X stream (03 R56). -/
def decodeX16 (w : Nat) : Dec := match field w 11 4 with
  | 0 => need (zf w 0 11) <| .ok (.nop16)
  | 1 => .ok (.pfx (gF 8 w 8) (gF 8 w 5) (gF 16 w 1) (bitOf w 0))
  | 2 => .ok (.pfxGuarded (gG w 7) (gF 8 w 4) (gF 16 w 0))
  | 3 => need (zf w 0 1) <| .ok (.vmovShort (gF 32 w 6) (gF 32 w 1))
  | 4 => .ok (.xaddiShort (gF 16 w 7) (gB 7 w 0))
  | 5 => .ok (.exitXShort (gG w 7) (gB 7 w 0))
  | _ => .error .illegalWord

/-- The 32-bit words of the X stream (03 R63). -/
def decodeX32 (w k : Nat) : Dec := match field w 25 6 with
  | 0x00 => opt .illegalWord (Fmt.ofCode (field w 22 3)) fun f => needI f.isFloat <| opt .reservedField (Dst.ofCode (field w 13 6)) fun d => opt .reservedField (Src.ofCode (field w 7 6)) fun a => opt .reservedField (Src.ofCode (field w 1 6)) fun b => .ok (.vadd f (gF 8 w 19) d a b (bitOf w 0))
  | 0x01 => opt .illegalWord (Fmt.ofCode (field w 22 3)) fun f => needI f.isFloat <| opt .reservedField (Dst.ofCode (field w 13 6)) fun d => opt .reservedField (Src.ofCode (field w 7 6)) fun a => opt .reservedField (Src.ofCode (field w 1 6)) fun b => .ok (.vsub f (gF 8 w 19) d a b (bitOf w 0))
  | 0x02 => opt .illegalWord (Fmt.ofCode (field w 22 3)) fun f => needI f.isFloat <| opt .reservedField (Dst.ofCode (field w 13 6)) fun d => opt .reservedField (Src.ofCode (field w 7 6)) fun a => opt .reservedField (Src.ofCode (field w 1 6)) fun b => .ok (.vmul f (gF 8 w 19) d a b (bitOf w 0))
  | 0x03 => opt .illegalWord (Fmt.ofCode (field w 22 3)) fun f => needI f.isFloat <| opt .reservedField (Dst.ofCode (field w 13 6)) fun d => opt .reservedField (Src.ofCode (field w 7 6)) fun a => opt .reservedField (Src.ofCode (field w 1 6)) fun b => .ok (.vfma f (gF 8 w 19) d a b (bitOf w 0))
  | 0x04 => opt .illegalWord (Fmt.ofCode (field w 22 3)) fun f => needI f.isFloat <| opt .reservedField (Dst.ofCode (field w 13 6)) fun d => opt .reservedField (Src.ofCode (field w 7 6)) fun a => opt .reservedField (Src.ofCode (field w 1 6)) fun b => .ok (.vfms f (gF 8 w 19) d a b (bitOf w 0))
  | 0x05 => opt .illegalWord (Fmt.ofCode (field w 22 3)) fun f => needI f.isFloat <| opt .reservedField (Dst.ofCode (field w 13 6)) fun d => opt .reservedField (Src.ofCode (field w 7 6)) fun a => opt .reservedField (Src.ofCode (field w 1 6)) fun b => .ok (.vfnma f (gF 8 w 19) d a b (bitOf w 0))
  | 0x06 => opt .illegalWord (Fmt.ofCode (field w 22 3)) fun f => needI f.isFloat <| opt .reservedField (Dst.ofCode (field w 13 6)) fun d => opt .reservedField (Src.ofCode (field w 7 6)) fun a => opt .reservedField (Src.ofCode (field w 1 6)) fun b => .ok (.vmin f (gF 8 w 19) d a b (bitOf w 0))
  | 0x07 => opt .illegalWord (Fmt.ofCode (field w 22 3)) fun f => needI f.isFloat <| opt .reservedField (Dst.ofCode (field w 13 6)) fun d => opt .reservedField (Src.ofCode (field w 7 6)) fun a => opt .reservedField (Src.ofCode (field w 1 6)) fun b => .ok (.vmax f (gF 8 w 19) d a b (bitOf w 0))
  | 0x08 => match field w 1 6 with
    | 0x00 => opt .illegalWord (Fmt.ofCode (field w 22 3)) fun f => needI f.isFloat <| opt .reservedField (Dst.ofCode (field w 13 6)) fun d => opt .reservedField (Src.ofCode (field w 7 6)) fun a => .ok (.vabs f (gF 8 w 19) d a (bitOf w 0))
    | 0x01 => opt .illegalWord (Fmt.ofCode (field w 22 3)) fun f => needI f.isFloat <| opt .reservedField (Dst.ofCode (field w 13 6)) fun d => opt .reservedField (Src.ofCode (field w 7 6)) fun a => .ok (.vneg f (gF 8 w 19) d a (bitOf w 0))
    | _ => .error .illegalWord
  | 0x10 => opt .illegalWord (Fmt.ofCode (field w 22 3)) fun f => needI f.isInt <| opt .reservedField (Dst.ofCode (field w 13 6)) fun d => opt .reservedField (Src.ofCode (field w 7 6)) fun a => opt .reservedField (Src.ofCode (field w 1 6)) fun b => .ok (.viadd f (gF 8 w 19) d a b (bitOf w 0))
  | 0x11 => opt .illegalWord (Fmt.ofCode (field w 22 3)) fun f => needI f.isInt <| opt .reservedField (Dst.ofCode (field w 13 6)) fun d => opt .reservedField (Src.ofCode (field w 7 6)) fun a => opt .reservedField (Src.ofCode (field w 1 6)) fun b => .ok (.visub f (gF 8 w 19) d a b (bitOf w 0))
  | 0x12 => opt .illegalWord (Fmt.ofCode (field w 22 3)) fun f => needI f.isInt <| opt .reservedField (Dst.ofCode (field w 13 6)) fun d => opt .reservedField (Src.ofCode (field w 7 6)) fun a => opt .reservedField (Src.ofCode (field w 1 6)) fun b => .ok (.vimul f (gF 8 w 19) d a b (bitOf w 0))
  | 0x13 => opt .illegalWord (Fmt.ofCode (field w 22 3)) fun f => needI f.isInt <| opt .reservedField (Dst.ofCode (field w 13 6)) fun d => opt .reservedField (Src.ofCode (field w 7 6)) fun a => opt .reservedField (Src.ofCode (field w 1 6)) fun b => .ok (.vimulh f (gF 8 w 19) d a b (bitOf w 0))
  | 0x14 => opt .illegalWord (Fmt.ofCode (field w 22 3)) fun f => needI f.isInt <| opt .reservedField (Dst.ofCode (field w 13 6)) fun d => opt .reservedField (Src.ofCode (field w 7 6)) fun a => opt .reservedField (Src.ofCode (field w 1 6)) fun b => .ok (.vshl f (gF 8 w 19) d a b (bitOf w 0))
  | 0x15 => opt .illegalWord (Fmt.ofCode (field w 22 3)) fun f => needI f.isInt <| opt .reservedField (Dst.ofCode (field w 13 6)) fun d => opt .reservedField (Src.ofCode (field w 7 6)) fun a => opt .reservedField (Src.ofCode (field w 1 6)) fun b => .ok (.vshr f (gF 8 w 19) d a b (bitOf w 0))
  | 0x16 => opt .illegalWord (Fmt.ofCode (field w 22 3)) fun f => needI f.isInt <| opt .reservedField (Dst.ofCode (field w 13 6)) fun d => opt .reservedField (Src.ofCode (field w 7 6)) fun a => opt .reservedField (Src.ofCode (field w 1 6)) fun b => .ok (.vsra f (gF 8 w 19) d a b (bitOf w 0))
  | 0x17 => match field w 22 3 with
    | 0 => opt .reservedField (Dst.ofCode (field w 13 6)) fun d => opt .reservedField (Src.ofCode (field w 7 6)) fun a => opt .reservedField (Src.ofCode (field w 1 6)) fun b => .ok (.vand (gF 8 w 19) d a b (bitOf w 0))
    | 1 => opt .reservedField (Dst.ofCode (field w 13 6)) fun d => opt .reservedField (Src.ofCode (field w 7 6)) fun a => opt .reservedField (Src.ofCode (field w 1 6)) fun b => .ok (.vor (gF 8 w 19) d a b (bitOf w 0))
    | 2 => opt .reservedField (Dst.ofCode (field w 13 6)) fun d => opt .reservedField (Src.ofCode (field w 7 6)) fun a => opt .reservedField (Src.ofCode (field w 1 6)) fun b => .ok (.vxor (gF 8 w 19) d a b (bitOf w 0))
    | 7 => need (zf w 1 6) <| opt .reservedField (Dst.ofCode (field w 13 6)) fun d => opt .reservedField (Src.ofCode (field w 7 6)) fun a => .ok (.vnot (gF 8 w 19) d a (bitOf w 0))
    | _ => opt .illegalWord (Fmt.ofCode (field w 22 3)) fun f => needI f.isInt <| need (zf w 1 6) <| opt .reservedField (Dst.ofCode (field w 13 6)) fun d => opt .reservedField (Src.ofCode (field w 7 6)) fun a => .ok (.viabs f (gF 8 w 19) d a (bitOf w 0))
  | 0x18 => opt .illegalWord (Fmt.ofCode (field w 22 3)) fun f => opt .illegalWord (Cond.ofCode (field w 16 3)) fun cc => opt .reservedField (Src.ofCode (field w 7 6)) fun a => opt .reservedField (Src.ofCode (field w 1 6)) fun b => .ok (.vcmp f (gF 8 w 19) cc (gF 8 w 13) a b (bitOf w 0))
  | 0x19 => opt .illegalWord (Fmt.ofCode (field w 22 3)) fun f => need (field w 0 1 == 1) <| opt .reservedField (Dst.ofCode (field w 13 6)) fun d => opt .reservedField (Src.ofCode (field w 7 6)) fun a => opt .reservedField (Src.ofCode (field w 1 6)) fun b => .ok (.vsel f (gF 8 w 19) d a b)
  | 0x1A => match field w 22 3 with
    | 0x00 => need (zf w 0 1 && zf w 4 3 && zf w 10 3 && zf w 16 3) <| .ok (.mand (gF 8 w 19) (gF 8 w 13) (gF 8 w 7) (gF 8 w 1))
    | 0x01 => need (zf w 0 1 && zf w 4 3 && zf w 10 3 && zf w 16 3) <| .ok (.mor (gF 8 w 19) (gF 8 w 13) (gF 8 w 7) (gF 8 w 1))
    | 0x02 => need (zf w 0 1 && zf w 4 3 && zf w 10 3 && zf w 16 3) <| .ok (.mxor (gF 8 w 19) (gF 8 w 13) (gF 8 w 7) (gF 8 w 1))
    | 0x03 => need (zf w 0 7 && zf w 10 3 && zf w 16 3) <| .ok (.mnot (gF 8 w 19) (gF 8 w 13) (gF 8 w 7))
    | _ => .error .illegalWord
  | 0x1B => match field w 22 3 with
    | 0x00 => need (zf w 0 7 && zf w 10 3 && zf w 17 2) <| .ok (.mpop (gF 8 w 19) (gF 16 w 13) (gF 8 w 7))
    | 0x01 => need (zf w 0 7 && zf w 10 3 && zf w 17 2) <| .ok (.mff (gF 8 w 19) (gF 16 w 13) (gF 8 w 7))
    | 0x02 => need (zf w 0 7 && zf w 11 2 && zf w 16 3) <| .ok (.mset (gF 8 w 19) (gF 8 w 13) (gF 16 w 7))
    | _ => .error .illegalWord
  | 0x1C => match field w 1 6 with
    | 0x00 => opt .illegalWord (Fmt.ofCode (field w 22 3)) fun f => opt .reservedField (Dst.ofCode (field w 13 6)) fun d => opt .reservedField (Src.ofCode (field w 7 6)) fun a => .ok (.vmov f (gF 8 w 19) d a (bitOf w 0))
    | 0x01 => opt .illegalWord (Fmt.ofCode (field w 22 3)) fun f => opt .reservedField (Dst.ofCode (field w 13 6)) fun d => opt .reservedField (latchOf (field w 7 6)) fun l => .ok (.vmovl f (gF 8 w 19) d l (bitOf w 0))
    | 0x02 => opt .illegalWord (Fmt.ofCode (field w 22 3)) fun f => need (zf w 11 2) <| opt .reservedField (Dst.ofCode (field w 13 6)) fun d => .ok (.vbcast f (gF 8 w 19) d (gF 16 w 7) (bitOf w 0))
    | _ => .error .illegalWord
  | 0x1D => opt .illegalWord (Fmt.ofCode (field w 22 3)) fun f => opt .reservedField (Dst.ofCode (field w 13 6)) fun d => .ok (.vli f (gF 8 w 19) d (gB 12 w 1) (bitOf w 0))
  | 0x1E => opt .illegalWord (Fmt.ofCode (field w 22 3)) fun f => needI f.isInt <| opt .reservedField (Dst.ofCode (field w 13 6)) fun d => opt .reservedField (Src.ofCode (field w 7 6)) fun a => opt .reservedField (Src.ofCode (field w 1 6)) fun b => .ok (.vimin f (gF 8 w 19) d a b (bitOf w 0))
  | 0x1F => opt .illegalWord (Fmt.ofCode (field w 22 3)) fun f => needI f.isInt <| opt .reservedField (Dst.ofCode (field w 13 6)) fun d => opt .reservedField (Src.ofCode (field w 7 6)) fun a => opt .reservedField (Src.ofCode (field w 1 6)) fun b => .ok (.vimax f (gF 8 w 19) d a b (bitOf w 0))
  | 0x20 => match field w 22 3 with
    | 0x07 => needI (field w 4 3 != field w 1 3) <| opt .reservedField (Dst.ofCode (field w 13 6)) fun d => opt .reservedField (Src.ofCode (field w 7 6)) fun a => .ok (.vcvt (gF 8 w 19) d a (CFmt.ofCode (field w 4 3)) (CFmt.ofCode (field w 1 3)) (bitOf w 0))
    | _ => .error .illegalWord
  | 0x21 => match field w 22 3 with
    | 0x07 => opt .reservedField (Dst.ofCode (field w 13 6)) fun d => opt .reservedField (Src.ofCode (field w 7 6)) fun a => .ok (.vqnt (gF 8 w 19) d a (QFmt.ofCode (field w 5 2)) (gF 16 w 1) (bitOf w 0))
    | _ => .error .illegalWord
  | 0x22 => match field w 22 3 with
    | 0x07 => opt .reservedField (Dst.ofCode (field w 13 6)) fun d => opt .reservedField (Src.ofCode (field w 7 6)) fun a => .ok (.vdqnt (gF 8 w 19) d a (QFmt.ofCode (field w 5 2)) (gF 16 w 1) (bitOf w 0))
    | _ => .error .illegalWord
  | 0x23 => match field w 22 3 with
    | 0x07 => needI (field w 5 2 != 3) <| need (zf w 0 1 && zf w 11 2 && zf w 17 2) <| .ok (.qscale (gF 8 w 19) (gF 16 w 13) (gF 16 w 7) (QFmt.ofCode (field w 5 2)) (gF 16 w 1))
    | _ => .error .illegalWord
  | 0x24 => needI (field w 22 3 == 7) <| if bitOf w 6 then need (zf w 1 1) <| opt .reservedField (Dst.ofCode (field w 13 6)) fun d => opt .reservedField (Src.ofCode (field w 7 6)) fun a => .ok (.qflt (gF 8 w 19) d a (gF 16 w 2) (bitOf w 0)) else need (zf w 1 1) <| opt .reservedField (Dst.ofCode (field w 13 6)) fun d => opt .reservedField (Src.ofCode (field w 7 6)) fun a => .ok (.qfix (gF 8 w 19) d a (gF 16 w 2) (bitOf w 0))
  | 0x25 => match field w 22 3 with
    | 0x06 => opt .reservedField (Dst.ofCode (field w 13 6)) fun d => opt .reservedField (Src.ofCode (field w 7 6)) fun a => opt .reservedField (Src.ofCode (field w 1 6)) fun b => .ok (.revadd (gF 8 w 19) d a b (bitOf w 0))
    | _ => .error .illegalWord
  | 0x26 => match field w 22 3 with
    | 0x06 => opt .reservedField (Dst.ofCode (field w 13 6)) fun d => opt .reservedField (Src.ofCode (field w 7 6)) fun a => opt .reservedField (Src.ofCode (field w 1 6)) fun b => .ok (.revsub (gF 8 w 19) d a b (bitOf w 0))
    | _ => .error .illegalWord
  | 0x27 => match field w 22 3 with
    | 0x00 => need (zf w 0 19) <| .ok (.sealclr (gF 8 w 19))
    | 0x01 => need (zf w 0 13 && zf w 17 2) <| .ok (.sealget (gF 8 w 19) (gF 16 w 13))
    | _ => .error .illegalWord
  | 0x28 => match field w 1 6 with
    | 0x00 => opt .illegalWord (Fmt.ofCode (field w 22 3)) fun f => needI f.isFloat <| opt .reservedField (Dst.ofCode (field w 13 6)) fun d => opt .reservedField (Src.ofCode (field w 7 6)) fun a => .ok (.vexp2 f (gF 8 w 19) d a (bitOf w 0))
    | 0x01 => opt .illegalWord (Fmt.ofCode (field w 22 3)) fun f => needI f.isFloat <| opt .reservedField (Dst.ofCode (field w 13 6)) fun d => opt .reservedField (Src.ofCode (field w 7 6)) fun a => .ok (.vlog2 f (gF 8 w 19) d a (bitOf w 0))
    | 0x02 => opt .illegalWord (Fmt.ofCode (field w 22 3)) fun f => needI f.isFloat <| opt .reservedField (Dst.ofCode (field w 13 6)) fun d => opt .reservedField (Src.ofCode (field w 7 6)) fun a => .ok (.vrcp f (gF 8 w 19) d a (bitOf w 0))
    | 0x03 => opt .illegalWord (Fmt.ofCode (field w 22 3)) fun f => needI f.isFloat <| opt .reservedField (Dst.ofCode (field w 13 6)) fun d => opt .reservedField (Src.ofCode (field w 7 6)) fun a => .ok (.vrsqrt f (gF 8 w 19) d a (bitOf w 0))
    | 0x04 => opt .illegalWord (Fmt.ofCode (field w 22 3)) fun f => needI f.isFloat <| opt .reservedField (Dst.ofCode (field w 13 6)) fun d => opt .reservedField (Src.ofCode (field w 7 6)) fun a => .ok (.vtanh f (gF 8 w 19) d a (bitOf w 0))
    | _ => .error .illegalWord
  | 0x29 => opt .illegalWord (vrndFmt (field w 22 3)) fun raw => need (zf w 5 2 && zf w 11 2) <| opt .reservedField (Dst.ofCode (field w 13 6)) fun d => .ok (.vrnd raw (gF 8 w 19) d (gF 16 w 7) (gF 16 w 1) (bitOf w 0))
  | 0x30 => match field w 1 6 with
    | 0x00 => opt .illegalWord (Fmt.ofCode (field w 22 3)) fun f => opt .reservedField (Dst.ofCode (field w 13 6)) fun d => opt .reservedField (Src.ofCode (field w 7 6)) fun a => .ok (.vredsum f (gF 8 w 19) d a (bitOf w 0))
    | _ => .error .illegalWord
  | 0x31 => match field w 1 6 with
    | 0x00 => opt .illegalWord (Fmt.ofCode (field w 22 3)) fun f => opt .reservedField (Dst.ofCode (field w 13 6)) fun d => opt .reservedField (Src.ofCode (field w 7 6)) fun a => .ok (.vredmax f (gF 8 w 19) d a (bitOf w 0))
    | _ => .error .illegalWord
  | 0x32 => match field w 1 6 with
    | 0x00 => opt .illegalWord (Fmt.ofCode (field w 22 3)) fun f => opt .reservedField (Dst.ofCode (field w 13 6)) fun d => opt .reservedField (Src.ofCode (field w 7 6)) fun a => .ok (.vredmin f (gF 8 w 19) d a (bitOf w 0))
    | _ => .error .illegalWord
  | 0x33 => match field w 2 5 with
    | 0x00 => opt .illegalWord (Fmt.ofCode (field w 22 3)) fun f => opt .reservedField (Dst.ofCode (field w 13 6)) fun d => opt .reservedField (Src.ofCode (field w 7 6)) fun a => .ok (.vredarg f (gF 8 w 19) d a (bitOf w 1) (bitOf w 0))
    | _ => .error .illegalWord
  | 0x34 => match field w 1 6 with
    | 0x00 => opt .illegalWord (Fmt.ofCode (field w 22 3)) fun f => needI (f == .f32 || f == .i32) <| opt .reservedField (Dst.ofCode (field w 13 6)) fun d => opt .reservedField (Src.ofCode (field w 7 6)) fun a => .ok (.vscan f (gF 8 w 19) d a (bitOf w 0))
    | _ => .error .illegalWord
  | 0x35 => opt .illegalWord (Fmt.ofCode (field w 22 3)) fun f => needI (f == .f32 || f == .i32) <| opt .reservedField (Dst.ofCode (field w 13 6)) fun d => opt .reservedField (Src.ofCode (field w 7 6)) fun a => opt .reservedField (Src.ofCode (field w 1 6)) fun b => .ok (.vsortk f (gF 8 w 19) d a b (bitOf w 0))
  | 0x36 => opt .illegalWord (Fmt.ofCode (field w 22 3)) fun f => opt .reservedField (Dst.ofCode (field w 13 6)) fun d => opt .reservedField (Src.ofCode (field w 7 6)) fun a => opt .reservedField (Src.ofCode (field w 1 6)) fun b => .ok (.vperm f (gF 8 w 19) d a b (bitOf w 0))
  | 0x37 => opt .illegalWord (Fmt.ofCode (field w 22 3)) fun f => opt .reservedField (Dst.ofCode (field w 13 6)) fun d => opt .reservedField (Src.ofCode (field w 7 6)) fun a => opt .reservedField (Src.ofCode (field w 1 6)) fun b => .ok (.vslide f (gF 8 w 19) d a b (bitOf w 0))
  | 0x38 => need (zf w 22 1) <| opt .reservedField (Dst.ofCode (field w 13 6)) fun v => opt .reservedField (RowSel.ofCode (field w 0 7 + 128 * field w 23 1)) fun row => .ok (.acld (bitOf w 24) (gF 8 w 19) v (gF 64 w 7) row)
  | 0x39 => need (zf w 22 1) <| opt .reservedField (Src.ofCode (field w 13 6)) fun v => opt .reservedField (RowSel.ofCode (field w 0 7 + 128 * field w 23 1)) fun row => .ok (.acst (bitOf w 24) (gF 8 w 19) v (gF 64 w 7) row)
  | 0x3A => opt .reservedField (Src.ofCode (field w 13 6)) fun v => opt .reservedField (RowSel.ofCode (field w 0 7 + 128 * field w 23 1)) fun row => .ok (.acsta (bitOf w 24) (bitOf w 22) (gF 8 w 19) v (gF 64 w 7) row)
  | 0x3B => match field w 23 2 with
    | 0x00 => .ok (.xli (gF 16 w 19) (gB 19 w 0))
    | 0x01 => .ok (.xaddi (gF 16 w 19) (gF 16 w 15) (gB 15 w 0))
    | 0x02 => need (zf w 0 3) <| opt .reservedField (Src.ofCode (field w 13 6)) fun v => .ok (.xlane (gF 16 w 19) v (LaneW.ofCode (field w 11 2)) (gF 256 w 3))
    | _ => .error .illegalWord
  | 0x3D => match field w 22 3 with
    | 0x00 => need (zf w 0 8) <| opt .reservedField (BqX.ofCode (field w 8 8)) fun op => .ok (.bqputX (gG w 18) op (gF 4 w 16))
    | 0x01 => need (zf w 0 8) <| opt .reservedField (BqX.ofCode (field w 8 8)) fun op => .ok (.bqgetX (gG w 18) op (gF 4 w 16))
    | 0x02 => .ok (.exitX (gG w 18) (gB 18 w 0))
    | _ => .error .illegalWord
  | 0x3C => needI (field w 22 3 == 7) <| need (zf w 0 7 && zf w 13 6) <| opt .reservedField (Src.ofCode (field w 7 6)) fun v => .ok (.katchk (gF 8 w 19) v (BitVec.ofNat 64 k))
  | _ => .error .illegalWord

/-- The block header (03 R46). -/
def decodeHeader (w : Nat) : Instr := .blockHeader (bitOf w 24) (bitOf w 23) (Fin.ofNat 128 (w / 2 ^ 16)) (BitVec.ofNat 16 w)

/-- SRD of the two pop registers and of SEAL are table rows of their own (07 R153, 15 R326). -/
def nameRead : Instr → Instr
  | .srd g d idx => if idx = 0x59 then .sealRead g d else if idx = 0x5B then .bqPopRead g d false
      else if idx = 0x5C then .bqPopRead g d true else .srd g d idx
  | i => i

/-- The checks that come after a word's fields are read, in the order of 03 R65, but for the direction of its queues. -/
def finish (d : Dec) : Dec :=
  match d with
  | .error f => .error f
  | .ok j => needI (codesOk (nameRead j)) <| need (selectorsOk (nameRead j)) <| .ok (nameRead j)

/-- A 16-bit word of a stream. -/
def decode16 (st : Stream) (w : Nat) : Dec :=
  finish (match st with | .c => decodeC16 w | .a => decodeA16 w | .x => decodeX16 w)

/-- A 32-bit word of a stream; `k` is the literal that follows a KATCHK word (08 R184). -/
def decode32 (st : Stream) (w k : Nat) : Dec :=
  if field w 25 6 = 63 then .ok (decodeHeader w)
  else finish (match st with | .c => decodeC32 w | .a => decodeA32 w | .x => decodeX32 w k)

/-- The halfwords at a stream's program counter, the first of the word first (03 R44), but for the direction of its queues. -/
def decodeFields (st : Stream) : List Nat → Dec
  | [] => .error .illegalWord
  | h :: t =>
    if h < 2 ^ 15 then decode16 st h
    else match t with
      | [] => .error .illegalWord
      | l :: k => decode32 st (h * 2 ^ 16 + l)
          (k.getD 0 0 * 2 ^ 48 + k.getD 1 0 * 2 ^ 32 + k.getD 2 0 * 2 ^ 16 + k.getD 3 0)

/-- QUEUE_DIRECTION comes after every other fate of the encoding (03 R65). -/
def checkQueues (d : Dec) : Dec :=
  match d with
  | .error f => .error f
  | .ok i => if queuesOk i then .ok i else .error .queueDirection

/-- What the word at a stream's program counter is (03 R44, R64, R65). -/
def decode (st : Stream) (hw : List Nat) : Dec := checkQueues (decodeFields st hw)

/-- The bits of a word that has an encoding of its own (03 R44 to R63). -/
def encodeWord : Instr → Nat
  | .add g d a b => put 21 g.code <| put 16 d.val <| put 11 a.val <| put 6 b.val <| 0x80000000
  | .sub g d a b => put 21 g.code <| put 16 d.val <| put 11 a.val <| put 6 b.val <| 0x80000001
  | .mul g d a b => put 21 g.code <| put 16 d.val <| put 11 a.val <| put 6 b.val <| 0x80000002
  | .mulh g d a b => put 21 g.code <| put 16 d.val <| put 11 a.val <| put 6 b.val <| 0x80000003
  | .mulhu g d a b => put 21 g.code <| put 16 d.val <| put 11 a.val <| put 6 b.val <| 0x80000004
  | .div g d a b => put 21 g.code <| put 16 d.val <| put 11 a.val <| put 6 b.val <| 0x80000005
  | .divu g d a b => put 21 g.code <| put 16 d.val <| put 11 a.val <| put 6 b.val <| 0x80000006
  | .rem g d a b => put 21 g.code <| put 16 d.val <| put 11 a.val <| put 6 b.val <| 0x80000007
  | .remu g d a b => put 21 g.code <| put 16 d.val <| put 11 a.val <| put 6 b.val <| 0x80000008
  | .and g d a b => put 21 g.code <| put 16 d.val <| put 11 a.val <| put 6 b.val <| 0x80000009
  | .or g d a b => put 21 g.code <| put 16 d.val <| put 11 a.val <| put 6 b.val <| 0x8000000A
  | .xor g d a b => put 21 g.code <| put 16 d.val <| put 11 a.val <| put 6 b.val <| 0x8000000B
  | .andn g d a b => put 21 g.code <| put 16 d.val <| put 11 a.val <| put 6 b.val <| 0x8000000C
  | .shl g d a b => put 21 g.code <| put 16 d.val <| put 11 a.val <| put 6 b.val <| 0x8000000D
  | .shr g d a b => put 21 g.code <| put 16 d.val <| put 11 a.val <| put 6 b.val <| 0x8000000E
  | .sra g d a b => put 21 g.code <| put 16 d.val <| put 11 a.val <| put 6 b.val <| 0x8000000F
  | .min g d a b => put 21 g.code <| put 16 d.val <| put 11 a.val <| put 6 b.val <| 0x80000010
  | .max g d a b => put 21 g.code <| put 16 d.val <| put 11 a.val <| put 6 b.val <| 0x80000011
  | .minu g d a b => put 21 g.code <| put 16 d.val <| put 11 a.val <| put 6 b.val <| 0x80000012
  | .maxu g d a b => put 21 g.code <| put 16 d.val <| put 11 a.val <| put 6 b.val <| 0x80000013
  | .clz g d a => put 21 g.code <| put 16 d.val <| put 11 a.val <| 0x80000014
  | .ctz g d a => put 21 g.code <| put 16 d.val <| put 11 a.val <| 0x80000015
  | .popc g d a => put 21 g.code <| put 16 d.val <| put 11 a.val <| 0x80000016
  | .sext g d a wd => put 21 g.code <| put 16 d.val <| put 11 a.val <| put 6 wd.code <| 0x80000017
  | .zext g d a wd => put 21 g.code <| put 16 d.val <| put 11 a.val <| put 6 wd.code <| 0x80000018
  | .sel g p d a b => put 21 g.code <| put 0 p.val <| put 16 d.val <| put 11 a.val <| put 6 b.val <| 0x80000038
  | .aadd g d a b => put 21 g.code <| put 16 d.val <| put 11 a.val <| put 6 b.val <| 0x80000000
  | .asub g d a b => put 21 g.code <| put 16 d.val <| put 11 a.val <| put 6 b.val <| 0x80000001
  | .amul g d a b => put 21 g.code <| put 16 d.val <| put 11 a.val <| put 6 b.val <| 0x80000002
  | .aand g d a b => put 21 g.code <| put 16 d.val <| put 11 a.val <| put 6 b.val <| 0x80000009
  | .aor g d a b => put 21 g.code <| put 16 d.val <| put 11 a.val <| put 6 b.val <| 0x8000000A
  | .amin g d a b => put 21 g.code <| put 16 d.val <| put 11 a.val <| put 6 b.val <| 0x80000010
  | .amax g d a b => put 21 g.code <| put 16 d.val <| put 11 a.val <| put 6 b.val <| 0x80000011
  | .addi g d a imm => put 21 g.code <| put 16 d.val <| put 11 a.val <| put 0 imm.toNat <| 0x82000000
  | .andi g d a imm => put 21 g.code <| put 16 d.val <| put 11 a.val <| put 0 imm.toNat <| 0x84000000
  | .ori g d a imm => put 21 g.code <| put 16 d.val <| put 11 a.val <| put 0 imm.toNat <| 0x86000000
  | .xori g d a imm => put 21 g.code <| put 16 d.val <| put 11 a.val <| put 0 imm.toNat <| 0x88000000
  | .shli g d a sh => put 21 g.code <| put 16 d.val <| put 11 a.val <| put 0 sh.val <| 0x8A000000
  | .shri g d a sh => put 21 g.code <| put 16 d.val <| put 11 a.val <| put 0 sh.val <| 0x8C000000
  | .srai g d a sh => put 21 g.code <| put 16 d.val <| put 11 a.val <| put 0 sh.val <| 0x8E000000
  | .li g d imm => put 21 g.code <| put 16 d.val <| put 0 imm.toNat <| 0x90000000
  | .lui g d imm => put 21 g.code <| put 16 d.val <| put 0 imm.toNat <| 0x92000000
  | .aaddi g d a imm => put 21 g.code <| put 16 d.val <| put 11 a.val <| put 0 imm.toNat <| 0x82000000
  | .ashli g d a sh => put 21 g.code <| put 16 d.val <| put 11 a.val <| put 0 sh.val <| 0x84000000
  | .ashri g d a sh => put 21 g.code <| put 16 d.val <| put 11 a.val <| put 0 sh.val <| 0x86000000
  | .ali g d imm => put 21 g.code <| put 16 d.val <| put 0 imm.toNat <| 0x88000000
  | .alui g d imm => put 21 g.code <| put 16 d.val <| put 0 imm.toNat <| 0x8A000000
  | .addiShort d imm => put 6 d.val <| put 0 imm.toNat <| 0x1000
  | .liShort d imm => put 6 d.val <| put 0 imm.toNat <| 0x1800
  | .addShort d b => put 6 d.val <| put 1 b.val <| 0x2000
  | .subShort d b => put 6 d.val <| put 1 b.val <| 0x2001
  | .aaddiShort d imm => put 6 d.val <| put 0 imm.toNat <| 0x1000
  | .aliShort d imm => put 6 d.val <| put 0 imm.toNat <| 0x1800
  | .cmp g cc pd a b => put 21 g.code <| put 0 cc.code <| put 16 pd.val <| put 11 a.val <| put 6 b.val <| 0xA0000000
  | .cmpi g cc pd a imm => put 21 g.code <| put 8 cc.code <| put 16 pd.val <| put 11 a.val <| put 0 imm.toNat <| 0xA2000000
  | .acmp g cc pd a b => put 21 g.code <| put 0 cc.code <| put 16 pd.val <| put 11 a.val <| put 6 b.val <| 0xA0000000
  | .acmpi g cc pd a imm => put 21 g.code <| put 8 cc.code <| put 16 pd.val <| put 11 a.val <| put 0 imm.toNat <| 0xA2000000
  | .pand g pd pa pb => put 21 g.code <| put 16 pd.val <| put 11 pa.val <| put 6 pb.val <| 0xA4000000
  | .por g pd pa pb => put 21 g.code <| put 16 pd.val <| put 11 pa.val <| put 6 pb.val <| 0xA4000001
  | .pxor g pd pa pb => put 21 g.code <| put 16 pd.val <| put 11 pa.val <| put 6 pb.val <| 0xA4000002
  | .pnot g pd pa => put 21 g.code <| put 16 pd.val <| put 11 pa.val <| 0xA4000003
  | .pmov g pd pa => put 21 g.code <| put 16 pd.val <| put 11 pa.val <| 0xA4000004
  | .ld g wd r b disp => put 21 g.code <| put 8 wd.code <| put 16 r.val <| put 11 b.val <| put 0 disp.toNat <| 0xB0000000
  | .st g wd r b disp => put 21 g.code <| put 8 wd.code <| put 16 r.val <| put 11 b.val <| put 0 disp.toNat <| 0xB2000000
  | .lds g wd r b disp => put 21 g.code <| put 8 wd.code <| put 16 r.val <| put 11 b.val <| put 0 disp.toNat <| 0xB4000000
  | .sts g wd r b disp => put 21 g.code <| put 8 wd.code <| put 16 r.val <| put 11 b.val <| put 0 disp.toNat <| 0xB6000000
  | .exitC g off => put 21 g.code <| put 0 off.toNat <| 0xC0000000
  | .exitCShort g off => put 7 g.code <| put 0 off.toNat <| 0x2800
  | .exits g a => put 21 g.code <| put 11 a.val <| 0xC2000000
  | .call g off => put 21 g.code <| put 0 off.toNat <| 0xC4000000
  | .ret g => put 21 g.code <| 0xC6000000
  | .retShort => 0x3000
  | .dispA g narg desc entry => put 21 g.code <| put 18 narg.val <| put 12 desc.val <| put 0 entry.toNat <| 0xC8000000
  | .dispX g narg desc entry => put 21 g.code <| put 18 narg.val <| put 12 desc.val <| put 0 entry.toNat <| 0xCA000000
  | .djoin g x a => put 21 g.code <| put 1 (b2n x) <| put 0 (b2n a) <| 0xCC000000
  | .ovswap g a => put 21 g.code <| put 11 a.val <| 0xCE000000
  | .amadd g dw d a b => put 21 g.code <| put 5 (b2n dw) <| put 16 d.val <| put 11 a.val <| put 6 b.val <| 0xD0000000
  | .ammin g dw d a b => put 21 g.code <| put 5 (b2n dw) <| put 16 d.val <| put 11 a.val <| put 6 b.val <| 0xD0000004
  | .ammax g dw d a b => put 21 g.code <| put 5 (b2n dw) <| put 16 d.val <| put 11 a.val <| put 6 b.val <| 0xD0000008
  | .amand g dw d a b => put 21 g.code <| put 5 (b2n dw) <| put 16 d.val <| put 11 a.val <| put 6 b.val <| 0xD000000C
  | .amor g dw d a b => put 21 g.code <| put 5 (b2n dw) <| put 16 d.val <| put 11 a.val <| put 6 b.val <| 0xD0000010
  | .amxor g dw d a b => put 21 g.code <| put 5 (b2n dw) <| put 16 d.val <| put 11 a.val <| put 6 b.val <| 0xD0000014
  | .amswp g dw d a b => put 21 g.code <| put 5 (b2n dw) <| put 16 d.val <| put 11 a.val <| put 6 b.val <| 0xD0000018
  | .amcas g dw d a b => put 21 g.code <| put 5 (b2n dw) <| put 16 d.val <| put 11 a.val <| put 6 b.val <| 0xD2000000
  | .bind g o b len => put 21 g.code <| put 16 o.val <| put 11 b.val <| put 6 len.val <| 0xD4000000
  | .unbind g o => put 21 g.code <| put 11 o.val <| 0xD6000000
  | .acq g o sc => put 21 g.code <| put 11 o.val <| put 0 sc.code <| 0xD8000000
  | .rel g o sc => put 21 g.code <| put 11 o.val <| put 0 sc.code <| 0xDA000000
  | .fence g sc => put 21 g.code <| put 0 sc.code <| 0xDC000000
  | .syzy => 0xE0000000
  | .rdsc g d => put 21 g.code <| put 16 d.val <| 0xE0000100
  | .waitsc g a => put 21 g.code <| put 11 a.val <| 0xE0000200
  | .post g addr v lat => put 21 g.code <| put 16 addr.val <| put 11 v.val <| put 0 lat.toNat <| 0xE2000000
  | .mbrd g d addr => put 21 g.code <| put 16 d.val <| put 11 addr.val <| 0xE4000000
  | .lrpatch g v r f => put 21 g.code <| put 16 v.val <| put 11 r.val <| put 0 f.val <| 0xE6000000
  | .lrarm g r => put 21 g.code <| put 11 r.val <| 0xE8000000
  | .childq g r => put 21 g.code <| put 11 r.val <| 0xEA000000
  | .widf g d lev => put 21 g.code <| put 16 d.val <| put 0 (Nat.succ lev.val) <| 0xEC000000
  | .lease g => put 21 g.code <| 0xEE000000
  | .unlease g => put 21 g.code <| 0xEE000001
  | .shld g sh b disp => put 21 g.code <| put 16 sh.val <| put 11 b.val <| put 0 disp.toNat <| 0xF0000000
  | .shst g sh b disp => put 21 g.code <| put 16 sh.val <| put 11 b.val <| put 0 disp.toNat <| 0xF2000000
  | .shset g v sh f => put 21 g.code <| put 16 v.val <| put 6 sh.val <| put 0 f.code <| 0xF4000000
  | .shget g v sh f => put 21 g.code <| put 16 v.val <| put 6 sh.val <| put 0 f.code <| 0xF4000400
  | .albinit g n trapen => put 21 g.code <| put 11 n.val <| put 0 (b2n trapen) <| 0xF6000000
  | .albsettle g n => put 21 g.code <| put 11 n.val <| 0xF6000100
  | .albrd g d n idx => put 21 g.code <| put 16 d.val <| put 11 n.val <| put 0 idx.val <| 0xF6000200
  | .trap g code => put 21 g.code <| put 0 code.toNat <| 0xF8000000
  | .rft g => put 21 g.code <| 0xF8000100
  | .safept g orbit live => put 21 g.code <| put 16 (b2n orbit) <| put 0 live.toNat <| 0xF8000200
  | .corerst g r => put 21 g.code <| put 11 r.val <| 0xF8000300
  | .halt g => put 21 g.code <| 0xF8000400
  | .nop g => put 21 g.code <| 0xF8000500
  | .srd g d idx => put 21 g.code <| put 16 d.val <| put 0 idx.val <| 0xFA000000
  | .swr g a idx => put 21 g.code <| put 11 a.val <| put 0 idx.val <| 0xFA000400
  | .pfx rnd msel iq sat => put 8 rnd.val <| put 5 msel.val <| put 1 iq.val <| put 0 (b2n sat) <| 0x800
  | .pfxGuarded g rnd iq => put 7 g.code <| put 4 rnd.val <| put 0 iq.val <| 0x1000
  | .nop16 => 0x0
  | .ldq g q b disp => put 21 g.code <| put 16 q.val <| put 11 b.val <| put 0 disp.toNat <| 0xA8000000
  | .ldqShort q b disp => put 8 q.val <| put 3 b.val <| put 0 disp.val <| 0x2000
  | .ldqs g q b s => put 21 g.code <| put 16 q.val <| put 11 b.val <| put 6 s.val <| 0xAA000000
  | .ldqb g q b disp => put 21 g.code <| put 16 q.val <| put 11 b.val <| put 0 disp.toNat <| 0xAC000000
  | .gathq g q b x => put 21 g.code <| put 16 q.val <| put 11 b.val <| put 6 x.val <| 0xAE000000
  | .stq g q b disp => put 21 g.code <| put 16 q.val <| put 11 b.val <| put 0 disp.toNat <| 0xB0000000
  | .stqShort q b disp => put 8 q.val <| put 3 b.val <| put 0 disp.val <| 0x2800
  | .stqs g q b s => put 21 g.code <| put 16 q.val <| put 11 b.val <| put 6 s.val <| 0xB2000000
  | .scatq g q b x => put 21 g.code <| put 16 q.val <| put 11 b.val <| put 6 x.val <| 0xB4000000
  | .exitA g off => put 21 g.code <| put 0 off.toNat <| 0xF4000000
  | .exitAShort g off => put 7 g.code <| put 0 off.toNat <| 0x3000
  | .bqputA g op q => put 21 g.code <| put 12 op.code <| put 10 q.val <| 0xF0000000
  | .bqputAShort q p => put 9 q.val <| put 6 p.val <| 0x3800
  | .bqgetA g op q => put 21 g.code <| put 12 op.code <| put 10 q.val <| 0xF2000000
  | .pgdist g ch a => put 21 g.code <| put 16 ch.val <| put 11 a.val <| 0xF6000000
  | .tagwany g m => put 21 g.code <| put 11 m.val <| 0xD0000000
  | .tagwall g m => put 21 g.code <| put 11 m.val <| 0xD2000000
  | .tagwallShort m => put 6 m.val <| 0x4000
  | .tagffr g d m => put 21 g.code <| put 16 d.val <| put 11 m.val <| 0xD4000000
  | .tagclr g m => put 21 g.code <| put 11 m.val <| 0xD6000000
  | .cpy g d s t ord guardChk expand => put 21 g.code <| put 17 d.val <| put 13 s.val <| put 7 t.val <| put 2 ord.code <| put 1 (b2n guardChk) <| put 0 (b2n expand) <| 0xC0000000
  | .cpyg g d tab t idx => put 21 g.code <| put 17 d.val <| put 13 tab.val <| put 7 t.val <| put 3 idx.val <| 0xC2000000
  | .cpyr g d s t ord => put 21 g.code <| put 17 d.val <| put 13 s.val <| put 7 t.val <| put 2 ord.code <| 0xC4000000
  | .tailput g sh r t => put 21 g.code <| put 17 sh.val <| put 12 r.val <| put 6 t.val <| 0xC6000000
  | .tailget g sh r t => put 21 g.code <| put 17 sh.val <| put 12 r.val <| put 6 t.val <| 0xC8000000
  | .offload g r t => put 21 g.code <| put 12 r.val <| put 6 t.val <| 0xCA000000
  | .recall g r t => put 21 g.code <| put 12 r.val <| put 6 t.val <| 0xCC000000
  | .mma f sa sb d hold ord sq => put 21 f.code <| put 17 sa.val <| put 13 sb.val <| put 8 d.val <| put 7 (b2n hold) <| put 2 ord.code <| put 1 (b2n sq) <| 0xD8000000
  | .mmas f sa sb d hold ord sq => put 21 f.code <| put 17 sa.val <| put 13 sb.val <| put 8 d.val <| put 7 (b2n hold) <| put 2 ord.code <| put 1 (b2n sq) <| 0xDA000000
  | .mzero sh d ord => put 17 sh.val <| put 8 d.val <| put 2 ord.code <| 0xDC000000
  | .mdrain m dst mul d ord => put 21 m.code <| put 17 dst.val <| put 13 mul.val <| put 8 d.val <| put 2 ord.code <| 0xE0000000
  | .mcommit g b => put 21 g.code <| put 0 b.val <| 0xDE000000
  | .mwaitb g b => put 21 g.code <| put 0 b.val <| 0xDE000100
  | .mstat g pd fault b => put 21 g.code <| put 16 pd.val <| put 6 (b2n fault) <| put 0 b.val <| 0xDE000200
  | .vadd f dly d a b me => put 22 f.code <| put 19 dly.val <| put 13 d.code <| put 7 a.code <| put 1 b.code <| put 0 (b2n me) <| 0x80000000
  | .vsub f dly d a b me => put 22 f.code <| put 19 dly.val <| put 13 d.code <| put 7 a.code <| put 1 b.code <| put 0 (b2n me) <| 0x82000000
  | .vmul f dly d a b me => put 22 f.code <| put 19 dly.val <| put 13 d.code <| put 7 a.code <| put 1 b.code <| put 0 (b2n me) <| 0x84000000
  | .vfma f dly d a b me => put 22 f.code <| put 19 dly.val <| put 13 d.code <| put 7 a.code <| put 1 b.code <| put 0 (b2n me) <| 0x86000000
  | .vfms f dly d a b me => put 22 f.code <| put 19 dly.val <| put 13 d.code <| put 7 a.code <| put 1 b.code <| put 0 (b2n me) <| 0x88000000
  | .vfnma f dly d a b me => put 22 f.code <| put 19 dly.val <| put 13 d.code <| put 7 a.code <| put 1 b.code <| put 0 (b2n me) <| 0x8A000000
  | .vmin f dly d a b me => put 22 f.code <| put 19 dly.val <| put 13 d.code <| put 7 a.code <| put 1 b.code <| put 0 (b2n me) <| 0x8C000000
  | .vmax f dly d a b me => put 22 f.code <| put 19 dly.val <| put 13 d.code <| put 7 a.code <| put 1 b.code <| put 0 (b2n me) <| 0x8E000000
  | .vabs f dly d a me => put 22 f.code <| put 19 dly.val <| put 13 d.code <| put 7 a.code <| put 0 (b2n me) <| 0x90000000
  | .vneg f dly d a me => put 22 f.code <| put 19 dly.val <| put 13 d.code <| put 7 a.code <| put 0 (b2n me) <| 0x90000002
  | .viadd f dly d a b me => put 22 f.code <| put 19 dly.val <| put 13 d.code <| put 7 a.code <| put 1 b.code <| put 0 (b2n me) <| 0xA0000000
  | .visub f dly d a b me => put 22 f.code <| put 19 dly.val <| put 13 d.code <| put 7 a.code <| put 1 b.code <| put 0 (b2n me) <| 0xA2000000
  | .vimul f dly d a b me => put 22 f.code <| put 19 dly.val <| put 13 d.code <| put 7 a.code <| put 1 b.code <| put 0 (b2n me) <| 0xA4000000
  | .vimulh f dly d a b me => put 22 f.code <| put 19 dly.val <| put 13 d.code <| put 7 a.code <| put 1 b.code <| put 0 (b2n me) <| 0xA6000000
  | .vshl f dly d a b me => put 22 f.code <| put 19 dly.val <| put 13 d.code <| put 7 a.code <| put 1 b.code <| put 0 (b2n me) <| 0xA8000000
  | .vshr f dly d a b me => put 22 f.code <| put 19 dly.val <| put 13 d.code <| put 7 a.code <| put 1 b.code <| put 0 (b2n me) <| 0xAA000000
  | .vsra f dly d a b me => put 22 f.code <| put 19 dly.val <| put 13 d.code <| put 7 a.code <| put 1 b.code <| put 0 (b2n me) <| 0xAC000000
  | .vand dly d a b me => put 19 dly.val <| put 13 d.code <| put 7 a.code <| put 1 b.code <| put 0 (b2n me) <| 0xAE000000
  | .vor dly d a b me => put 19 dly.val <| put 13 d.code <| put 7 a.code <| put 1 b.code <| put 0 (b2n me) <| 0xAE400000
  | .vxor dly d a b me => put 19 dly.val <| put 13 d.code <| put 7 a.code <| put 1 b.code <| put 0 (b2n me) <| 0xAE800000
  | .viabs f dly d a me => put 22 f.code <| put 19 dly.val <| put 13 d.code <| put 7 a.code <| put 0 (b2n me) <| 0xAE000000
  | .vnot dly d a me => put 19 dly.val <| put 13 d.code <| put 7 a.code <| put 0 (b2n me) <| 0xAFC00000
  | .vcmp f dly cc md a b me => put 22 f.code <| put 19 dly.val <| put 16 cc.code <| put 13 md.val <| put 7 a.code <| put 1 b.code <| put 0 (b2n me) <| 0xB0000000
  | .vsel f dly d a b => put 22 f.code <| put 19 dly.val <| put 13 d.code <| put 7 a.code <| put 1 b.code <| 0xB2000001
  | .mand dly md ma mb => put 19 dly.val <| put 13 md.val <| put 7 ma.val <| put 1 mb.val <| 0xB4000000
  | .mor dly md ma mb => put 19 dly.val <| put 13 md.val <| put 7 ma.val <| put 1 mb.val <| 0xB4400000
  | .mxor dly md ma mb => put 19 dly.val <| put 13 md.val <| put 7 ma.val <| put 1 mb.val <| 0xB4800000
  | .mnot dly md ma => put 19 dly.val <| put 13 md.val <| put 7 ma.val <| 0xB4C00000
  | .mpop dly x ma => put 19 dly.val <| put 13 x.val <| put 7 ma.val <| 0xB6000000
  | .mff dly x ma => put 19 dly.val <| put 13 x.val <| put 7 ma.val <| 0xB6400000
  | .mset dly md x => put 19 dly.val <| put 13 md.val <| put 7 x.val <| 0xB6800000
  | .vmov f dly d a me => put 22 f.code <| put 19 dly.val <| put 13 d.code <| put 7 a.code <| put 0 (b2n me) <| 0xB8000000
  | .vmovShort d a => put 6 d.val <| put 1 a.val <| 0x1800
  | .vmovl f dly d l me => put 22 f.code <| put 19 dly.val <| put 13 d.code <| put 7 (Src.code (.l l)) <| put 0 (b2n me) <| 0xB8000002
  | .vbcast f dly d x me => put 22 f.code <| put 19 dly.val <| put 13 d.code <| put 7 x.val <| put 0 (b2n me) <| 0xB8000004
  | .vli f dly d imm me => put 22 f.code <| put 19 dly.val <| put 13 d.code <| put 1 imm.toNat <| put 0 (b2n me) <| 0xBA000000
  | .vimin f dly d a b me => put 22 f.code <| put 19 dly.val <| put 13 d.code <| put 7 a.code <| put 1 b.code <| put 0 (b2n me) <| 0xBC000000
  | .vimax f dly d a b me => put 22 f.code <| put 19 dly.val <| put 13 d.code <| put 7 a.code <| put 1 b.code <| put 0 (b2n me) <| 0xBE000000
  | .vcvt dly d a sf df me => put 19 dly.val <| put 13 d.code <| put 7 a.code <| put 4 sf.code <| put 1 df.code <| put 0 (b2n me) <| 0xC1C00000
  | .vqnt dly d a qf xs me => put 19 dly.val <| put 13 d.code <| put 7 a.code <| put 5 qf.code <| put 1 xs.val <| put 0 (b2n me) <| 0xC3C00000
  | .vdqnt dly d a qf xs me => put 19 dly.val <| put 13 d.code <| put 7 a.code <| put 5 qf.code <| put 1 xs.val <| put 0 (b2n me) <| 0xC5C00000
  | .qscale dly xd xn qf h => put 19 dly.val <| put 13 xd.val <| put 7 xn.val <| put 5 qf.code <| put 1 h.val <| 0xC7C00000
  | .qfix dly d a sh me => put 19 dly.val <| put 13 d.code <| put 7 a.code <| put 2 sh.val <| put 0 (b2n me) <| 0xC9C00000
  | .qflt dly d a sh me => put 19 dly.val <| put 13 d.code <| put 7 a.code <| put 2 sh.val <| put 0 (b2n me) <| 0xC9C00040
  | .revadd dly d a b me => put 19 dly.val <| put 13 d.code <| put 7 a.code <| put 1 b.code <| put 0 (b2n me) <| 0xCB800000
  | .revsub dly d a b me => put 19 dly.val <| put 13 d.code <| put 7 a.code <| put 1 b.code <| put 0 (b2n me) <| 0xCD800000
  | .sealclr dly => put 19 dly.val <| 0xCE000000
  | .sealget dly xd => put 19 dly.val <| put 13 xd.val <| 0xCE400000
  | .vexp2 f dly d a me => put 22 f.code <| put 19 dly.val <| put 13 d.code <| put 7 a.code <| put 0 (b2n me) <| 0xD0000000
  | .vlog2 f dly d a me => put 22 f.code <| put 19 dly.val <| put 13 d.code <| put 7 a.code <| put 0 (b2n me) <| 0xD0000002
  | .vrcp f dly d a me => put 22 f.code <| put 19 dly.val <| put 13 d.code <| put 7 a.code <| put 0 (b2n me) <| 0xD0000004
  | .vrsqrt f dly d a me => put 22 f.code <| put 19 dly.val <| put 13 d.code <| put 7 a.code <| put 0 (b2n me) <| 0xD0000006
  | .vtanh f dly d a me => put 22 f.code <| put 19 dly.val <| put 13 d.code <| put 7 a.code <| put 0 (b2n me) <| 0xD0000008
  | .vrnd raw dly d xs xb me => put 22 (cond raw 3 0) <| put 19 dly.val <| put 13 d.code <| put 7 xs.val <| put 1 xb.val <| put 0 (b2n me) <| 0xD2000000
  | .vredsum f dly d a me => put 22 f.code <| put 19 dly.val <| put 13 d.code <| put 7 a.code <| put 0 (b2n me) <| 0xE0000000
  | .vredmax f dly d a me => put 22 f.code <| put 19 dly.val <| put 13 d.code <| put 7 a.code <| put 0 (b2n me) <| 0xE2000000
  | .vredmin f dly d a me => put 22 f.code <| put 19 dly.val <| put 13 d.code <| put 7 a.code <| put 0 (b2n me) <| 0xE4000000
  | .vredarg f dly d a mn me => put 22 f.code <| put 19 dly.val <| put 13 d.code <| put 7 a.code <| put 1 (b2n mn) <| put 0 (b2n me) <| 0xE6000000
  | .vscan f dly d a me => put 22 f.code <| put 19 dly.val <| put 13 d.code <| put 7 a.code <| put 0 (b2n me) <| 0xE8000000
  | .vsortk f dly d a b me => put 22 f.code <| put 19 dly.val <| put 13 d.code <| put 7 a.code <| put 1 b.code <| put 0 (b2n me) <| 0xEA000000
  | .vperm f dly d a b me => put 22 f.code <| put 19 dly.val <| put 13 d.code <| put 7 a.code <| put 1 b.code <| put 0 (b2n me) <| 0xEC000000
  | .vslide f dly d a b me => put 22 f.code <| put 19 dly.val <| put 13 d.code <| put 7 a.code <| put 1 b.code <| put 0 (b2n me) <| 0xEE000000
  | .acld hi dly v p row => put 24 (b2n hi) <| put 19 dly.val <| put 13 v.code <| put 7 p.val <| put 0 row.code <| 0xF0000000
  | .acst hi dly v p row => put 24 (b2n hi) <| put 19 dly.val <| put 13 v.code <| put 7 p.val <| put 0 row.code <| 0xF2000000
  | .acsta hi int dly v p row => put 24 (b2n hi) <| put 22 (b2n int) <| put 19 dly.val <| put 13 v.code <| put 7 p.val <| put 0 row.code <| 0xF4000000
  | .xli x imm => put 19 x.val <| put 0 imm.toNat <| 0xF6000000
  | .xaddi x a imm => put 19 x.val <| put 15 a.val <| put 0 imm.toNat <| 0xF6800000
  | .xaddiShort x imm => put 7 x.val <| put 0 imm.toNat <| 0x2000
  | .xlane x v wd lane => put 19 x.val <| put 13 v.code <| put 11 wd.code <| put 3 lane.val <| 0xF7000000
  | .bqputX g op q => put 18 g.code <| put 8 op.code <| put 16 q.val <| 0xFA000000
  | .bqgetX g op q => put 18 g.code <| put 8 op.code <| put 16 q.val <| 0xFA400000
  | .exitX g off => put 18 g.code <| put 0 off.toNat <| 0xFA800000
  | .exitXShort g off => put 7 g.code <| put 0 off.toNat <| 0x2800
  | .katchk dly v _ => put 19 dly.val <| put 7 v.code <| 0xF9C00000
  | .blockHeader rot atom len rep => put 24 (b2n rot) <| put 23 (b2n atom) <| put 16 len.val <| put 0 rep.toNat <| 0xFE000000
  | .sealRead g d => put 21 g.code <| put 16 d.val <| 0xFA000059
  | .bqPopRead g d bq3 => put 21 g.code <| put 16 d.val <| put 0 (b2n bq3) <| 0xFA00005B
  | .sealopPut g a => put 21 g.code <| put 11 a.val <| 0xFA00045A
  | .sealopCheck g a => put 21 g.code <| put 11 a.val <| 0xFA00045A
  | _ => 0

/-- The row has words of its own; SEALOP_PUT and SEALOP_CHECK are the two effects of one SWR word (15 R326). -/
def isWord (i : Instr) : Bool :=
  match i with
  | .sealopPut _ _ | .sealopCheck _ _ => false
  | i => i = .nop16 ∨ encodeWord i ≠ 0

/-- Length in halfwords: 16-bit words have bit 15 clear, KATCHK carries its literal (03 R44, 08 R184). -/
def lengthOf (i : Instr) : Nat :=
  match i with
  | .katchk _ _ _ => 6
  | i => if encodeWord i < 2 ^ 15 then 1 else 2

/-- Words of the block that the instruction counts as (03 R46). -/
def wordsOf : Instr → Nat
  | .katchk _ _ _ => 3
  | _ => 1

/-- The halfwords of an instruction in the order its stream reads them (03 R44). -/
def encode (i : Instr) : List Nat :=
  let w := encodeWord i
  if w < 2 ^ 15 then [w]
  else [w / 2 ^ 16, w % 2 ^ 16] ++
    (match i with
     | .katchk _ _ k => [field k.toNat 48 16, field k.toNat 32 16, field k.toNat 16 16, field k.toNat 0 16]
     | _ => [])

/-- The stream a word belongs to, C first where the words of several streams coincide. -/
def streamOf (nbits w : Nat) : Stream :=
  let hw := if nbits ≤ 16 then [w % 2 ^ 16] else [w / 2 ^ 16 % 2 ^ 16, w % 2 ^ 16, 0, 0, 0, 0]
  match decode .c hw, decode .a hw with
  | .ok _, _ => .c
  | _, .ok _ => .a
  | _, _ => .x

/-- What the decoder reads from a word of the opcode table. The 32 bits are those of 03 R48 and R49: bits [31:16] stand in the
first halfword. A pattern that several streams allot is read as the C stream's, else the A stream's, else the X stream's. -/
def decodeTableWord (nbits w : Nat) : Option Instr :=
  let hw := if nbits ≤ 16 then [w % 2 ^ 16] else [w / 2 ^ 16 % 2 ^ 16, w % 2 ^ 16, 0, 0, 0, 0]
  match decode (streamOf nbits w) hw with
  | .ok i => some i
  | .error _ => none

/-! Prefixes (03 R52 to R54). -/

/-- Rounding modes by RND code (04 R78, 03 R52); 6 and 7 are reserved. -/
def Rnd.ofCode : Nat → Option Rnd
  | 0 => some .rne | 1 => some .rtz | 2 => some .rdn | 3 => some .rup | 4 => some .sr | 5 => some .rna | _ => none

/-- IQ codes: all, first of level 1 to 6, last of level 1 to 6 (03 R52). -/
def iqOk (n : N16) : Bool := n.val ≤ 6 || (9 ≤ n.val && n.val ≤ 14)

/-- Modes an X word's entry states: every mode; every mode but SR; RNE only (08, 10 R219, 15). -/
def admitsRnd (i : Instr) (rnd : N8) : Bool :=
  match i with
  | .vadd .. | .vsub .. | .vmul .. | .vfma .. | .vfms .. | .vfnma .. | .vcvt .. | .vqnt .. | .vdqnt .. => rnd.val ≤ 5
  | .acsta .. => rnd.val ≤ 5 && rnd != 4
  | _ => rnd == 0

/-- Words whose entry states saturation (08, 10 R219). -/
def admitsSat : Instr → Bool
  | .vadd .. | .vsub .. | .vmul .. | .vfma .. | .vfms .. | .vfnma .. | .vcvt .. | .vqnt .. | .vdqnt .. | .acsta ..
  | .viadd .. | .visub .. | .vimul .. | .viabs .. | .vexp2 .. | .vlog2 .. | .vrcp .. | .vrsqrt .. | .vtanh ..
  | .vredsum .. | .vscan .. => true
  | _ => false

/-- The word's mask enable (03 R49). -/
def maskEnable : Instr → Bool
  | .vadd _ _ _ _ _ me => me
  | .vsub _ _ _ _ _ me => me
  | .vmul _ _ _ _ _ me => me
  | .vfma _ _ _ _ _ me => me
  | .vfms _ _ _ _ _ me => me
  | .vfnma _ _ _ _ _ me => me
  | .vmin _ _ _ _ _ me => me
  | .vmax _ _ _ _ _ me => me
  | .vabs _ _ _ _ me => me
  | .vneg _ _ _ _ me => me
  | .viadd _ _ _ _ _ me => me
  | .visub _ _ _ _ _ me => me
  | .vimul _ _ _ _ _ me => me
  | .vimulh _ _ _ _ _ me => me
  | .vshl _ _ _ _ _ me => me
  | .vshr _ _ _ _ _ me => me
  | .vsra _ _ _ _ _ me => me
  | .vand _ _ _ _ me => me
  | .vor _ _ _ _ me => me
  | .vxor _ _ _ _ me => me
  | .viabs _ _ _ _ me => me
  | .vnot _ _ _ me => me
  | .vcmp _ _ _ _ _ _ me => me
  | .vmov _ _ _ _ me => me
  | .vmovl _ _ _ _ me => me
  | .vbcast _ _ _ _ me => me
  | .vli _ _ _ _ me => me
  | .vimin _ _ _ _ _ me => me
  | .vimax _ _ _ _ _ me => me
  | .vcvt _ _ _ _ _ me => me
  | .vqnt _ _ _ _ _ me => me
  | .vdqnt _ _ _ _ _ me => me
  | .qfix _ _ _ _ me => me
  | .qflt _ _ _ _ me => me
  | .revadd _ _ _ _ me => me
  | .revsub _ _ _ _ me => me
  | .vexp2 _ _ _ _ me => me
  | .vlog2 _ _ _ _ me => me
  | .vrcp _ _ _ _ me => me
  | .vrsqrt _ _ _ _ me => me
  | .vtanh _ _ _ _ me => me
  | .vrnd _ _ _ _ _ me => me
  | .vredsum _ _ _ _ me => me
  | .vredmax _ _ _ _ me => me
  | .vredmin _ _ _ _ me => me
  | .vredarg _ _ _ _ _ me => me
  | .vscan _ _ _ _ me => me
  | .vsortk _ _ _ _ _ me => me
  | .vperm _ _ _ _ _ me => me
  | .vslide _ _ _ _ _ me => me
  | .vsel .. => true
  | _ => false

/-- The first halfword of a word of layout XC, major 0x3D, which carries its own guard whatever its other fields (03 R49, R51). -/
def ownGuard (h : Nat) : Bool := field h 9 6 == 0x3D

/-- What becomes of a prefix and the word after it (03 R54). -/
inductive PairFate
  | ok
  /-- ILLEGAL_WORD at the prefix, with the halfword that follows (03 R66) -/
  | misplaced
  | fate (f : Fate)
  deriving DecidableEq, Repr

/-- The fields of a prefix against the word it modifies (03 R54). An issue qualifier before an X-scalar word comes only through the
guarded prefix, says 08 R183, and no rule gives the fate of one that a plain prefix carries: it is accepted (notes/assumptions/57.md,
DESIGN CHOICE, unsafe). -/
def prefixFieldsOk (st : Stream) (p : Pfx) (i : Instr) : Bool :=
  match st with
  | .c => p.rnd == 0 && p.msel == 0 && p.iq == 0 && !p.sat
  | .a => p.rnd == 0 && p.msel == 0 && !p.sat && iqOk p.iq
  | .x => iqOk p.iq && admitsRnd i p.rnd && (!p.sat || admitsSat i) && (p.msel == 0 || maskEnable i)

/-- The fate of a pair: `hw` are the halfwords after the prefix, none when its block ends there. A guarded prefix before an XC word
is ILLEGAL_WORD before any fate of that word's fields (03 R51, R54, R65). -/
def pairFate (st : Stream) (p : Pfx) (hw : List Nat) : PairFate :=
  match hw with
  | [] => .misplaced
  | h :: _ =>
    if h < 2 ^ 15 || (p.guard.isSome && ownGuard h) then .misplaced
    else match decodeFields st hw with
      | .error f => .fate f
      | .ok (.blockHeader ..) => .fate .blockHeader
      | .ok i => if !prefixFieldsOk st p i then .fate .reservedField
        else if queuesOk i then .ok else .fate .queueDirection

end Sys2Proof
end

