-- ==== Sys2Proof/Machine/Map.lean ====
section
/-! DEFINITION. Sparse maps in one canonical form, the shape of every large memory of the state. -/

namespace Sys2Proof.Machine

/-- A sparse map: keys strictly rising, no entry equal to the default that an unlisted key reads as. -/
abbrev Map (α : Type) := List (Nat × α)

/-- The value at a key. -/
def Map.get {α : Type} (d : α) : Map α → Nat → α
  | [], _ => d
  | (j, v) :: t, k => if j = k then v else Map.get d t k

/-- The value at a key, if the key is listed. -/
def Map.find {α : Type} : Map α → Nat → Option α
  | [], _ => none
  | (j, v) :: t, k => if j = k then some v else Map.find t k

/-- Set a key whatever the value. -/
def Map.set {α : Type} : Map α → Nat → α → Map α
  | [], k, v => [(k, v)]
  | (j, w) :: t, k, v => if j < k then (j, w) :: Map.set t k v else if j = k then (k, v) :: t else (k, v) :: (j, w) :: t

/-- Remove a key. -/
def Map.del {α : Type} (m : Map α) (k : Nat) : Map α := m.filter (fun e => e.1 != k)

/-- Set a key; the default is not listed. -/
def Map.put {α : Type} [DecidableEq α] (d : α) (m : Map α) (k : Nat) (v : α) : Map α :=
  if v = d then Map.del m k else Map.set m k v

/-- The canonical form. -/
def Map.wf {α : Type} [DecidableEq α] (d : α) : Map α → Bool
  | [] => true
  | [(_, v)] => decide (v ≠ d)
  | (j, v) :: (k, w) :: t => decide (v ≠ d) && decide (j < k) && Map.wf d ((k, w) :: t)

/-- A byte memory: bytes no write has changed read as 0 (12 R274, 19 R386; notes/assumptions/5.md). -/
abbrev Mem := List Host.Cell

/-- The canonical form of a memory. -/
abbrev Memory.wf (m : Mem) : Bool := Map.wf (0 : Byte) m

def Mem.byte (m : Mem) (a : Nat) : Byte := Map.get 0 m a
def Mem.setByte (m : Mem) (a : Nat) (v : Byte) : Mem := Map.put 0 m a v

/-- n bytes from an address, the lowest first. -/
def Mem.bytes (m : Mem) (a n : Nat) : List Byte := (List.range n).map (fun k => Mem.byte m (a + k))

/-- Write bytes from an address up. -/
def Mem.setBytes (m : Mem) (a : Nat) : List Byte → Mem
  | [] => m
  | b :: t => Mem.setBytes (Mem.setByte m a b) (a + 1) t

/-- n zero bytes from an address. -/
def Mem.clear (m : Mem) (a n : Nat) : Mem := m.filter (fun c => c.1 < a || a + n ≤ c.1)

/-- Write the bytes that are present; none leaves a byte as it is. -/
def Mem.merge (m : Mem) (a : Nat) : List (Option Byte) → Mem
  | [] => m
  | none :: t => Mem.merge m (a + 1) t
  | some b :: t => Mem.merge (Mem.setByte m a b) (a + 1) t

/-- Little-endian value of bytes (00 R4). -/
def leNat : List Byte → Nat
  | [] => 0
  | b :: t => b.toNat + 256 * leNat t

/-- n bytes of a value, the lowest first (00 R4). -/
def leBytes (n v : Nat) : List Byte := (List.range n).map (fun k => BitVec.ofNat 8 (v / 256 ^ k))

/-- A little-endian number of n bytes. -/
def Mem.num (m : Mem) (a n : Nat) : Nat := leNat (Mem.bytes m a n)
def Mem.setNum (m : Mem) (a n v : Nat) : Mem := Mem.setBytes m a (leBytes n v)

end Sys2Proof.Machine
end

