-- ==== Sys2Proof/Machine/State.lean ====
section
/-! DEFINITION. The state of a PL-4 package, its faults and refusals, and the state after reset. Every field names the rule
of spec/ that gives it; INVENTORY.md lists them with their reset values. -/

namespace Sys2Proof.Machine

/-- Trap causes (16 R340). -/
inductive Cause
  | illegalWord | reservedField | blockHeader | privilege | queueDirection | shapeInvalid | callDepth | dispOvercommit
  | exitMulti | bindFull | tagIdle | copyParam | syncMisuse | overlayInvalid
  | pageNotPresent | pagePermRead | pagePermWrite | pagePermExec | compressedAccess | align | scratchBounds | accBounds
  | guardTagMismatch | versionStale | atomicTarget | holdViolation | copyIndex | albedoFree
  | batchOpen | rescale | accInflight | mmaParam | matrixResidue | matrixScaleDup | sparseMetaDup | katMismatch
  | leaseNone | leaseOverrun | replayOperandLost
  | predUnfinished | scoreboardLate | orbitUnaligned | launchPoolEmpty | launchRecordBusy | childQueueLow | tailFull
  | offloadPending | sealMismatch | safeptLate | orbitBroken | syncPoisoned | launchRecordInvalid | tailSegment
  | eccReg | eccScratch | eccAcc | eccDram | poisonConsumed | destEclipsed | spanUnreachable
  | preempt | debugBreak | trapInstruction | hostKill | watchdog | coreReset | doubleTrap
  deriving DecidableEq, Repr

/-- A trap that has been raised and not yet delivered (16 R341, R343). -/
structure TrapReq where
  /-- 0 C, 1 A, 2 X: the stream to which it is delivered -/
  stream : Nat
  /-- 0 the stream's own word, 1 matrix array, 2 copy engine, 3 launch unit -/
  src    : Nat
  ch     : Nat
  cause  : Cause
  pc     : Nat
  info0  : Nat
  info1  : Nat
  deriving DecidableEq, Repr

/-- A register of the files that ECC covers: s, a, x, v and m (18 R375). -/
inductive RegId
  | s (n : Nat)
  | a (n : Nat)
  | x (n : Nat)
  | v (n : Nat)
  | m (n : Nat)
  deriving DecidableEq, Repr

/-- Where a stream stands (05 R96 to R99). -/
inductive Phase
  /-- issues nothing: no dispatch, no context -/
  | idle
  /-- the block header at pc is to be checked and issued -/
  | header
  /-- the words of the block's run are being issued -/
  | words
  /-- the run's last word has issued -/
  | runEnd
  /-- C only: the two phases of commit (05 R101) -/
  | commit1 | commit2
  /-- C only: the run has committed and its exit waits for a boundary, an arrival or a restore -/
  | boundary
  deriving DecidableEq, Repr

/-- The exit that fired in a run (05 R97): an offset 0 means end, a block, a return, the next overlay, a handler's return. -/
inductive ExitTo
  | finish
  | block (pc : Nat)
  | call (pc : Nat)
  | ret
  | overlay (va : Nat)
  | rft
  deriving DecidableEq, Repr

/-- The position of a stream in its code (05 R93, R96 to R99; 03 R54). -/
structure Pos where
  phase : Phase
  /-- halfword address of the next word -/
  pc    : Nat
  /-- header address of the block, its words left in this run, REPEAT, ROT and LEN -/
  blk   : Nat
  left  : Nat
  rep   : Nat
  rot   : Bool
  len   : Nat
  /-- run number -/
  run   : Nat
  exit  : Option ExitTo
  /-- prefix that waits for its word, and its address -/
  pfx   : Option Pfx
  pfxAt : Nat
  /-- length of the word being issued: halfwords, and words of the block -/
  flen  : Nat
  fwords : Nat
  /-- issue cycle of the last word (05 R116) -/
  last  : Nat
  /-- the breakpoint at this place has fired (19 R390) -/
  brk   : Bool
  deriving DecidableEq, Repr

/-- An entry of a dispatch queue (05 R107). -/
structure Disp where
  entry : Nat
  desc  : Nat
  args  : List Word
  /-- first cycle in which the outer stream may take it (05 R101) -/
  at_   : Nat
  deriving DecidableEq, Repr

/-- An outer stream: position, dispatch queue and sequencer (05 R107 to R114). -/
structure Outer where
  pos    : Pos
  dq     : List Disp
  active : Bool
  entry  : Nat
  rrb    : Nat
  nlev   : Nat
  drain  : Nat
  idx    : Vector Nat 6
  cnt    : Vector Nat 6
  /-- the 24 stride words of the running descriptor -/
  str    : Vector Nat 24
  p      : Vector Bool 8
  deriving DecidableEq, Repr

/-- Operations of the atomics (10 R221). -/
inductive AtOp | add | min | max | and | or | xor | swp | cas
  deriving DecidableEq, Repr

/-- A held operation of a C run, with the operand values read at issue (05 R100). -/
inductive Held
  | st (ea size val : Nat) (strong : Bool)
  | lds (ea : Nat) (wd : MemW) (d : Reg)
  | shst (ea : Nat) (val : Shape)
  | atomic (op : AtOp) (dw : Bool) (ea : Nat) (opnd cmp : Word) (d : Reg)
  | bind (o b len : Word)
  | unbind (o : Word)
  | acq (o : Word) (sc : Scope)
  | rel (o : Word) (sc : Scope)
  | fence (sc : Scope)
  | disp (toX : Bool) (entry desc : Nat) (args : List Word)
  | post (addr val : Word) (lat : Nat)
  | mbrd (addr : Word) (d : Reg)
  | lrpatch (v r : Word) (f : Nat)
  | lrarm (r : Word)
  | childq (r : Word)
  | lease
  | unlease
  | albinit (n : Word) (trapen : Bool)
  | albsettle (n : Word)
  | albrd (n : Word) (idx : Nat) (d : Reg)
  | trap (code : Nat)
  | safept (orbit : Bool) (live : Nat)
  | corerst (r : Word)
  | halt
  | seal (put : Bool) (seg : Nat)
  | swrFrame (idx : Nat) (v : Word)
  | unalign (old : Word)
  deriving DecidableEq, Repr

/-- Where an address leads (12 R260 to R266; 07 R142; 10 R217). -/
inductive Place
  /-- byte of the tile's scratchpad -/
  | scratch (o : Nat)
  /-- byte of the accumulator window -/
  | acc (o : Nat)
  /-- byte of DRAM or host memory by device physical address -/
  | dram (dpa : Nat)
  /-- byte of a compressed page, in the address space of the decompressing aperture (12 R282) -/
  | packed (ap : Nat)
  /-- byte of another package's DRAM -/
  | remote (pkg dpa : Nat)
  deriving DecidableEq, Repr

/-- A page held by a TLB: the page number of its size, the size, its frame and rights (12 R264, R267). -/
structure TlbEntry where
  space : Nat
  large : Bool
  /-- virtual page number, in units of its size -/
  vpn   : Nat
  /-- the leaf entry -/
  pte   : Nat
  /-- cycle of last use -/
  used  : Nat
  deriving DecidableEq, Repr

/-- A translation that failed: its cause, the level at which the walk stopped, an entry that is malformed (12 R265). -/
structure TransFail where
  cause : Cause
  level : Nat
  malformed : Bool
  deriving DecidableEq, Repr

/-- A stream TLB (07 R145). -/
structure StreamTlb where
  cur  : Option TlbEntry
  nxt  : Option TlbEntry
  prev : Nat
  deriving DecidableEq, Repr

/-- What a waiting word or run has gathered: for each address its place or failure, in order, and the page entries to install;
`until_` is the cycle in which the walks end, `done` that they have (07 R145, 05 R101). -/
structure Walk where
  got    : List (Nat × Place)
  /-- the trap that ends it: cause and what it reports -/
  fail   : Option (Cause × Nat × Nat)
  fill   : List TlbEntry
  /-- the stream TLB after the walks of a queue word -/
  stlb   : Option StreamTlb
  until_ : Nat
  done   : Bool
  deriving DecidableEq, Repr

/-- An overlay whose header has been read: code lengths in halfwords, trailer mask, and where each page of it lies, by page
number (14 R310, R311). -/
structure Overlay where
  va    : Nat
  clen  : Nat
  alen  : Nat
  xlen  : Nat
  trailer : Nat
  pages : List (Nat × Place)
  /-- cycles of its load once the waits have ended -/
  time  : Nat
  deriving DecidableEq, Repr

/-- The C stream: position, call stack and the run in progress (05 R96 to R106). -/
structure CStream where
  pos    : Pos
  /-- call stack, the deepest entry last; its length is CSP -/
  stack  : List Nat
  p      : Vector Bool 8
  /-- registers with a later delivery: number and cycle (06 R122) -/
  ready  : List (Nat × Nat)
  held   : List Held
  /-- register and predicate values before the run, for rollback (05 R102) -/
  s0     : Vector Word 32
  p0     : Vector Bool 8
  /-- the s registers that held an uncorrectable error before the run (18 R375) -/
  e0     : List RegId
  /-- system registers written in the run with their values before it -/
  undo   : List (Nat × Word)
  /-- shape fields written in the run: shape number, the bits written, their values (06 R137) -/
  shapes : List (Nat × Shape × Shape)
  /-- entries of bq2 and bq3 read and not yet popped (07 R153) -/
  peek2  : Nat
  peek3  : Nat
  /-- cycle at which phase 1 of commit ends, translations made in it, acceptances gathered (05 R101) -/
  until_ : Nat
  /-- requests to homes still to be made in phase 1: key and tile; the one made and not yet answered -/
  asks   : List (Nat × Nat)
  asked  : Bool
  /-- the refusal a home has answered -/
  refused : Option (Cause × Nat × Nat)
  /-- the cycle of phase 2, while it waits for merges; merges issued since then to a record that an ALBINIT of the run initialises, which
  come after it (13 R295) -/
  settle : Option Nat
  late   : List Partial
  walk   : Option Walk
  /-- the overlay that phase 1 has checked (14 R311) -/
  ovl    : Option Overlay
  /-- a SAFEPT of the committed run: orbit-wide, classes (16 R351) -/
  safept : Option (Bool × Nat)
  /-- loads whose data come from another tile's column: the tile, the cycle of arrival (17 R367) -/
  air    : List (Nat × Nat) := []
  deriving DecidableEq, Repr

/-- Where an X result goes (08 R161). -/
inductive FDst
  | none
  /-- physical v register -/
  | v (n : Nat) (val : Vec)
  | m (n : Nat) (val : Mask)
  | x (n : Nat) (val : Word)
  | p (n : Nat) (val : Bool)
  /-- entry of q6 or q7 -/
  | q (n : Nat) (val : Vec) (en : Mask)
  deriving DecidableEq, Repr

/-- What a landing does to the seal accumulator (15 R320, R321, R324). -/
inductive SealOp
  | none
  | clear
  | add (bytes : List Nat)
  deriving DecidableEq, Repr

/-- An X result in flight (05 R115 to R117). -/
structure Flight where
  id    : Nat
  /-- landing cycle, none where it is not known yet -/
  land  : Option Nat
  /-- unit and the vector its latch receives -/
  unit  : Option (N8 × Vec)
  dst   : FDst
  sealOp : SealOp
  /-- a QSCALE's: `land` is none while it waits at the home beyond its unloaded time (08 R176) -/
  scale : Bool := false
  deriving DecidableEq, Repr

/-- An entry of q0 to q5: `ready` is the first cycle it may be read, once its data has come (07 R139, R140). -/
structure LoadEntry where
  id    : Nat
  data  : Vec
  ready : Option Nat
  deriving DecidableEq, Repr

/-- An entry of q6 or q7 (07 R138 to R141). -/
structure StoreEntry where
  id    : Nat
  data  : Vec
  en    : Mask
  ready : Option Nat
  deriving DecidableEq, Repr

/-- One segment of a queue store that has issued and is not yet written (07 R150). -/
structure SegWrite where
  place : Place
  va    : Nat
  bytes : List (Option Byte)
  deriving DecidableEq, Repr

/-- What a queue store, or a scalar store, writes at one time, issued and not yet written: the segments of one word that go to the
scratchpad, or one that goes to device memory; with the stamp and the merge of a bound queue (07 R146, R150; 12 R268). The merge stays
with one of the word's writes until the last is done. -/
structure QStore where
  id    : Nat
  /-- number of the word's first write -/
  word  : Nat
  /-- cycle of its write -/
  at_   : Nat
  segs  : List SegWrite
  gver  : Option Nat
  merge : Option Partial
  deriving DecidableEq, Repr

/-- Queues, stream TLBs and what the A and X streams have in flight (07, 08). -/
structure Queues where
  /-- q0 to q5 -/
  ld   : Vector (List LoadEntry) 6
  /-- q6 and q7 -/
  st   : Vector (List StoreEntry) 2
  /-- bq0 to bq3: value and first cycle it may be read -/
  bq   : Vector (List (Byte × Nat)) 4
  /-- queue stores not yet written, the oldest first -/
  wr   : List QStore
  /-- stream TLBs of the queue channels 0 to 7 -/
  tlb  : Vector StreamTlb 8
  /-- PREFDIST of channels 0 to 13 -/
  pref : Vector Nat 14
  /-- translations that a waiting A word has gathered, and the cycle its walk ends -/
  walk : Option Walk
  /-- number of the next load entry or queue store -/
  nextId : Nat
  /-- the cycle of the last queue-store write, and the lowest number written in it (11 R240) -/
  wrote : Nat × Nat
  /-- loads whose data come from another tile's column: the tile, the cycle of arrival (17 R367) -/
  air    : List (Nat × Nat) := []
  deriving DecidableEq, Repr

/-- Registers and results of the execute processor (08 R157, 05 R115). -/
structure XRegs where
  v      : Vector Vec 32
  m      : Vector Mask 8
  x      : Vector Word 16
  l      : Vector Vec 8
  /-- number of the word whose result each latch holds (08 R185) -/
  lid    : Vector Nat 8
  sealAcc : Word
  flights : List Flight
  /-- number of the next X word with a result -/
  nextId : Nat
  /-- first cycle in which VFMA0, VFMA1 and VRED accept a word -/
  fma0   : Nat
  fma1   : Nat
  vred   : Nat
  /-- the word that waits on the scoreboard has raised the stall wire (14 R315) -/
  sbWait : Bool
  deriving DecidableEq, Repr

/-- A QSCALE whose home has not replied: its request, the home's refusal, the X stream as it stood at the word, and what younger words
have done since that a refusal takes back, so that it traps precisely (08 R176, 13 R296; 05 R103). -/
structure ScaleSave where
  /-- number of its flight -/
  id     : Nat
  recno  : Nat
  xd     : N16
  qf     : QFmt
  h      : Nat
  /-- the context may use the record (13 R292) -/
  granted : Bool
  refusal : Option Cause
  xo     : Outer
  xr     : XRegs
  srctr  : Word
  /-- entries popped: queue and entry -/
  popped : List (Nat × LoadEntry)
  /-- entries of branch queues taken, and the branch queues pushed into -/
  bqTaken : List (Fin 4 × Byte × Nat)
  bqPut  : List (Fin 4)
  dispTaken : List Disp
  /-- half-rows of accumulator SRAM that younger words have written, the newest first: offset, bytes before, words in error before -/
  rows   : List (Nat × List Byte × List Nat) := []
  /-- RESCALE-pending and LASTSCALE of its record before the home performed it -/
  was    : Option (Bool × Nat) := none
  /-- messages of younger words that leave once it cannot be refused any more: the cycle in which each would have left, and its event -/
  owed   : List (Nat × Event) := []
  deriving DecidableEq, Repr

/-- Commit batches of a core (09 R206): 0 FREE, 1 OPEN, 2 CLOSED. -/
structure Batches where
  st     : Vector Nat 8
  /-- DONE of batch b at bit 2b, FAULT at bit 2b + 1 -/
  df     : Nat
  /-- next position in the batch -/
  nidx   : Vector Nat 8
  /-- it retires with FAULT 1: abandoned, or a release failed -/
  fault  : Vector Bool 8
  abandoned : Vector Bool 8
  deriving DecidableEq, Repr

/-- What a core is doing as a whole (14 R307, R312; 16 R342, R352). -/
inductive Mode
  /-- no context -/
  | free
  /-- a context waits for its overlay -/
  | loading
  | running
  /-- a trap waits for the handler overlay -/
  | trapped
  /-- the context has stopped at a safe point, to be saved -/
  | saving
  /-- the die management core holds the context -/
  | held
  /-- a saved member of an orbit has been restored and waits for the others (16 R354) -/
  | restored
  /-- a context has ended and commands of it run on -/
  | ended
  deriving DecidableEq, Repr

/-- The state of a context that a trap frame or a context save holds (16 R355). The public regions stand in the save area in
memory as well; what the spec calls private stands here alone. -/
structure Saved where
  s     : Vector Word 32
  a     : Vector Word 32
  c     : CStream
  ao    : Outer
  xo    : Outer
  xr    : XRegs
  q     : Queues
  deriving DecidableEq, Repr

/-- A counter that adds 1 in every cycle while it runs: its value at a cycle from which it runs on (14 R314, 16 R351). -/
structure Counter where
  base  : Nat
  since : Nat
  run   : Bool
  deriving DecidableEq, Repr

/-- A post in a mail slot (14 R317). -/
structure Mail where
  slot   : Nat
  due    : Nat
  poster : Nat
  value  : Word
  deriving DecidableEq, Repr

/-- A post on its way or not yet acknowledged; the cycle in which its lateness raised the wire (14 R317). -/
structure Post where
  id     : Nat
  owner  : Nat
  mail   : Mail
  arrived : Bool
  raised : Option Nat
  deriving DecidableEq, Repr

/-- An arrival at a core: who sent it and when, whether for SAFEPT.O, and what it carries (14 R313, 16 R353). -/
structure Arrival where
  src    : Nat
  at_    : Nat
  safept : Bool
  word   : Nat
  deriving DecidableEq, Repr

/-- One core (05 R92). -/
structure Core where
  mode   : Mode
  s      : Vector Word 32
  a      : Vector Word 32
  /-- A registers with a later delivery: number and cycle (06 R122) -/
  aReady : List (Nat × Nat)
  c      : CStream
  ao     : Outer
  xo     : Outer
  xr     : XRegs
  q      : Queues
  sh     : Vector Shape 16
  /-- the system registers of 16 R357 that are plain storage, by index -/
  sys    : Map Word
  ctlb   : List TlbEntry
  imemC  : Map (BitVec 16)
  imemA  : Map (BitVec 16)
  imemX  : Map (BitVec 16)
  /-- descriptor store (05 R93) -/
  desc   : Mem
  /-- trailer mask of the running overlay (14 R310) -/
  trailer : Nat
  /-- SC and WDCNT (14 R314, 16 R351) -/
  sc     : Counter
  wd     : Counter
  /-- outstanding raises of the stall wire by this core; the core's orbit is stopped (12 R269) -/
  raises : Nat
  stopped : Bool
  /-- traps raised in this cycle, and engine traps that wait for RFT (16 R343) -/
  traps  : List TrapReq
  pend   : List TrapReq
  frame  : Option Saved
  batch  : Batches
  /-- launch record of the context and the core's ordinal in it (14 R308) -/
  lr     : Option Nat
  ordinal : Nat
  /-- base VA and bytes of the context's ring and of its spill region (15 R331) -/
  ringBase : Nat
  ringSize : Nat
  spillBase : Nat
  spillSize : Nat
  /-- binding slots in use: slot, object, base, length (10 R229) -/
  binds  : List (Nat × Nat × Nat × Nat)
  /-- posts in the core's mail slots, and its own posts without acknowledgement (14 R317) -/
  mail   : List Mail
  posts  : List Post
  nextPost : Nat
  /-- arrivals received; it has sent its own (14 R313, 16 R353) -/
  arrivals : List Arrival
  sent   : Bool
  /-- traps to be taken before the next C runs, the oldest first: cause and TRAPINFO0 (14 R316, R317) -/
  before : List (Cause × Nat)
  /-- the die management core has asked for pre-emption (16 R352) -/
  preempt : Bool
  /-- the overlay being loaded -/
  load   : Option Overlay
  /-- number of the context, the cycle of its start: tells contexts of one core apart (14 R306) -/
  ctx    : Nat
  /-- the alignment that its SYZY waits for was made while the C stream stood elsewhere (14 R313) -/
  synced : Bool
  /-- bytes of the image of the overlay in instruction memory, which name its pages (12 R273, 14 R310) -/
  ovlBytes : Nat
  /-- scalar stores of committed runs on their way to their lines, the oldest first (12 R268) -/
  cst    : List QStore
  /-- QSCALEs whose homes have not replied, the oldest first (08 R176) -/
  scales : List ScaleSave
  /-- registers that hold an uncorrectable error, until they are written (18 R375) -/
  ecc    : List RegId
  deriving DecidableEq, Repr

/-- Metadata of a line of DRAM (12 R274). -/
structure LineMeta where
  nova : Bool
  crc  : BitVec 32
  gver : BitVec 16
  enc  : BitVec 4
  sect : BitVec 4
  deriving DecidableEq, Repr

/-- The matrix commands (09 R197 to R205). -/
inductive MOp
  | mma (f : MFmt) (sparse : Bool)
  | mzero
  | mdrain (m : DrainMode)
  deriving DecidableEq, Repr

/-- Where a matrix command stands: in the queue; at its acquire, or with it made; executing; its release at the home; stopped by a trap;
completed. -/
inductive MSt | queued | acquiring | acquired | running | releasing | stopped | done
  deriving DecidableEq, Repr

/-- A range of addresses: bytes of the tile's scratchpad, or virtual addresses of device memory. -/
structure Span where
  scr : Bool
  lo  : Int
  hi  : Int
  deriving DecidableEq, Repr

/-- A matrix command, from its issue until its batch has retired (09 R192). -/
structure MCmd where
  id    : Nat
  core  : Nat
  /-- the run of the lease it belongs to -/
  run   : Nat
  op    : MOp
  /-- copies of its shapes and of its descriptor -/
  sa    : Shape
  sb    : Shape
  desc  : Nat
  ord   : OrdF
  hold  : Bool
  sq    : Bool
  /-- SCRPART, privilege and address space of its context at issue -/
  part  : Nat
  sup   : Bool
  /-- position in its batch -/
  index : Nat
  issue : Nat
  /-- cycle in which its acquire completes (09 R194) -/
  acqAt : Nat := 0
  rows  : Nat
  cols  : Nat
  spans : List Span
  st    : MSt
  /-- start cycle and execution length -/
  start : Nat
  dur   : Nat
  /-- k-steps promoted for every row and row groups of the interval promoted, or rows written (09 R208) -/
  kdone : Nat
  rowg  : Nat
  /-- operand codes read: A row by row, B row by row, positions of the kept values -/
  opA   : List Nat
  opB   : List Nat
  posn  : List Nat
  /-- scale buffer: bytes taken from q5, bytes of the last entry left, blocks taken -/
  scales : List Nat
  rest  : List Nat
  blk   : Nat
  /-- where its operand spans of device memory lie: memory, first and last byte of each page; a span has changed since its first read
  (09 R211) -/
  watch : List (Nat × Nat × Nat)
  marked : Bool
  /-- the block of scales that begins next (09 R202) -/
  biv   : Nat
  /-- prefetch distances of load pipes 0 and 1 at issue (07 R145) -/
  prefA : Nat
  prefB : Nat
  /-- where it will stop: cause code, address, KDONE, ROWG -/
  failAt : Option (Nat × Nat × Nat × Nat)
  /-- cycle in which its batch retired -/
  ret   : Option Nat
  deriving DecidableEq, Repr

/-- A run of a lease: 0 open, 1 closed by count, 2 closed by UNLEASE (09 R186). -/
structure MRun where
  id     : Nat
  core   : Nat
  left   : Nat
  closed : Nat
  granted : Bool
  /-- cycle of the request -/
  req    : Nat
  deriving DecidableEq, Repr

/-- A tile's matrix array (09 R187, R194). -/
structure Matrix where
  /-- runs of all cores, the oldest first -/
  runs   : List MRun
  owner  : Option Nat
  /-- cycle of the grant, cycle the array last became free, core index granted last -/
  gat    : Nat
  freed  : Nat
  last   : Nat
  /-- completion cycle of the previous command -/
  doneAt : Nat
  nextId : Nat
  /-- commands of unretired batches in issue order -/
  cmds   : List MCmd
  deriving DecidableEq, Repr

/-- Copy and tail commands (11 R244, R249, R251; 15 R336). -/
inductive COp
  | cpy (guardChk expand : Bool)
  | cpyg
  | cpyr
  | tailput
  | tailget (free : Bool)
  | offload
  | recall
  deriving DecidableEq, Repr

/-- Where a copy command stands: in its queue; in its channel, or waiting for a segment's state; at its acquire, or with it made; asking
for its turn, or with it; moving; its release on the way or at the home; the home's last reply on the way; stopped. -/
inductive CSt | queued | taken | acquiring | ready | turning | turned | running | releasing | replying | stopped
  deriving DecidableEq, Repr

/-- The 64 KiB unit of virtual addresses that an end of a copy command touches, and the entry that translates it: end 0 the index list, 1
the source, 2 the destination. -/
structure EndPage where
  end_  : Nat
  unit  : Nat
  entry : Option TlbEntry
  deriving DecidableEq, Repr

/-- A copy or tail command, from its acceptance until it completes (11 R238). -/
structure CCmd where
  id    : Nat
  core  : Nat
  op    : COp
  tag   : Tag
  dst   : Shape
  src   : Shape
  /-- the index list of CPYG -/
  idx   : Shape
  ord   : OrdF
  /-- copy of CPYCFG -/
  cfg   : Nat
  seg   : Nat
  /-- SCRPART, tail and privilege of its context, and the prefetch distance, at issue -/
  part  : Nat
  tail  : Bool
  sup   : Bool
  pref  : Nat
  issue : Nat
  /-- the newest queue store its A stream had issued (11 R240) -/
  store : Nat
  st    : CSt
  start : Nat
  /-- elements moved; elements folded into partials; partials of the destination blocks begun and not merged, by block (13 R286) -/
  elem  : Nat
  folded : Nat
  groups : List (Nat × Partial)
  /-- a TAILGET served from the ring copy of an OUTBOUND segment; a TAILGET or an OFFLOAD accepted on a RESIDENT segment; a TAILGET that
  recalls its segment itself (15 R334) -/
  ring  : Bool
  direct : Bool
  auto  : Bool
  /-- where the segment lies in the ring or spill region, and in host memory, as the command was accepted (15 R333) -/
  segVa : Nat
  hostVa : Nat
  /-- where it has stopped: cause code, address, element -/
  failAt : Option (Nat × Nat × Nat)
  /-- the clock of its move (11 R240): the cycle from which it counts, the element there, the slowest read so far, the cycle in which the
  elements that come next are moved (0: not yet reckoned), and the pages its ends stand in -/
  base   : Nat := 0
  from_  : Nat := 0
  slow   : Nat := 0
  due    : Nat := 0
  pages  : List EndPage := []
  /-- the source block checked last, and the sticky bit of the additions whose flag word is not written yet (11 R248, R252) -/
  blk    : Option Nat := none
  sticky : Bool := false
  deriving DecidableEq, Repr

/-- A tile's copy engine (11 R239). -/
structure CopyEngine where
  /-- commands not yet completed in order of issue -/
  cmds   : List CCmd
  /-- core index each channel served last -/
  served : Vector Nat 4
  nextId : Nat
  deriving DecidableEq, Repr

/-- What a heartbeat unit keeps about one neighbour (17 R361, R363, R371, R373). -/
structure Nbr where
  clean : Nat
  miss  : Nat
  prob  : Bool
  /-- 0 none, 1 compute, 2 router -/
  fence : Nat
  level : Nat
  /-- 0 TRUSTED, 1 SUSPECT, 2 ACCUSING -/
  vote  : Nat
  held  : Bool
  lift  : Bool
  /-- the appeal has ended (17 R371); a tile that cannot be judged has been reported (17 R369) -/
  spent : Bool
  told  : Bool
  seq   : Option Nat
  /-- beats received in the epoch, and evidence from malformed flits -/
  beats : List Beat
  badC  : Bool
  badR  : Bool
  /-- the cycles in which flits that it originated arrived, compute and service classes -/
  injC  : List Nat
  injS  : List Nat
  drops : Nat
  deriving DecidableEq, Repr

/-- A tile's heartbeat unit (17 R362, R368, R370, R372, R373). -/
structure Hbu where
  cfg     : Nat
  sigs    : Nat
  nbr     : Vector Nbr 4
  votes   : List Beat
  seqOut  : Nat
  /-- own eclipse: 0 none, 1 compute, 2 router -/
  self    : Nat
  appeals : Nat
  appealing : Bool
  sigOut  : Nat
  selfFail : Bool
  /-- beats and vote flits sent: the cycle and their number (17 R359) -/
  sent    : List (Nat × Nat)
  deriving DecidableEq, Repr

/-- Suspect scores of cores 0 to 3, the matrix array and the copy engine (18 R378). -/
structure Suspects where
  score  : Vector Nat 6
  quar   : Vector Bool 6
  thresh : Nat
  /-- the first cycle in whose beats the tile asks for its fence (18 R380) -/
  reqAt  : Nat
  deriving DecidableEq, Repr

/-- Kinds of row access of the X stream to the accumulator SRAM (10 R220). -/
inductive AccOp | load | store | addF | addI
  deriving DecidableEq, Repr

/-- A row access issued and not yet made: core, its flight, the half-row, the 64 lanes it brings, rounding. -/
structure AccReq where
  core  : Nat
  id    : Nat
  op    : AccOp
  plane : Nat
  row   : Nat
  base  : Nat
  data  : Vec
  rnd   : Rnd
  sat   : Bool
  /-- first cycle in which it asks for the port -/
  at_   : Nat
  deriving DecidableEq, Repr

/-- A merge message on its way to a record unit or in its queue (13 R286 to R288). -/
structure Merge where
  core  : Nat
  src   : MergeSrc
  /-- cycle of issue and cycle of its application -/
  issue : Nat
  due   : Nat
  /-- 1: the A stream has awaited the engine command that sent it; 2: a DJOIN covers it, so that a REL of the core waits for it
  (10 R233, 13 R290) -/
  level : Nat
  part  : Partial
  deriving DecidableEq, Repr

/-- What one tile holds beside its memories (09; 12 R261; 13 R288). -/
structure Tile where
  /-- PGROOT -/
  pgroot : Word
  mx     : Matrix
  /-- merges on their way to or at the record unit -/
  merges : List Merge
  /-- by plane, 1 more than the cycle in which its port last served a request, and the copy channel of the package that it granted
  last (10 R218) -/
  served : Map Nat
  cpLast : Map Nat := []
  /-- stream TLBs of the matrix load pipes 0 and 1 and of the copy channels 0 to 3 (07 R145) -/
  etlb   : Vector StreamTlb 6
  /-- row accesses of the tile's X streams that wait for their planes (10 R218) -/
  ports  : List AccReq
  cp     : CopyEngine
  hb     : Hbu
  susp   : Suspects
  /-- BRK0 to BRK3 (19 R390) -/
  brk    : Vector Nat 4
  deriving DecidableEq, Repr

/-- What the die management core has been told (12 R280; 16 R342, R352; 17 R369). -/
inductive Notice
  | poolLow | lastBlock
  | trap (core : Nat) (cause : Cause)
  | preempted (core : Nat)
  /-- a neighbour's notice: tile, level, epoch -/
  | fence (tile level epoch : Nat)
  /-- a record that became FAULTED with no context to take its trap (14 R306) -/
  | record (r : Nat) (cause : Cause)
  /-- a record whose target includes a quarantined core -/
  | quarantined (r : Nat)
  deriving DecidableEq, Repr

/-- A record in an arm list: the cycle it entered, the cycle since which it is ready (14 R304, R306). -/
structure Arm where
  r     : Nat
  at_   : Nat
  ready : Option Nat
  /-- periods of 2^20 cycles it has been ready -/
  age   : Nat
  /-- the quarantined target cores that the die management core has been told of (18 R380) -/
  told  : List Nat := []
  deriving DecidableEq, Repr

/-- What one die holds (12 R271, R277, R280). -/
structure Die where
  cmpcfg : Nat
  /-- CHILDQs since the start: the next place of the child queue in memory (14 R302) -/
  chqAt  : Nat
  /-- overflow slots and index blocks in use, and those reserved: by cores in phase 1 of a commit, and by their scalar stores until
  these are performed: whose, slots, blocks -/
  slots  : List Nat
  blocks : List Nat
  resv   : List (Nat × Nat × Nat)
  /-- the pool is in the state that has been notified (12 R280) -/
  low    : Bool
  notices : List Notice
  /-- ALBDROP (13 R287) -/
  albdrop : Nat
  /-- TLBINV (12 R271) and LCFG (14 R302) as written -/
  tlbinv : Nat
  /-- what an invalidation in progress waits for: core, the first number of a memory access that it does not wait for, whether the C
  stream held translations or an overlay was being loaded, and whether a queue word held translations -/
  inval  : List (Nat × Nat × Bool × Bool)
  /-- the cycle until which data of C loads and of matrix operands, read before it began, come -/
  invTill : Nat := 0
  lcfg   : Nat
  arms   : List Arm
  childq : List Nat
  deriving DecidableEq, Repr

/-- Who asks a home: the run that a C stream commits, a tile's matrix array, one of its copy channels, a QSCALE by its flight, a
VQNT that sets RESCALE-pending; at a launch record, a work queue by its number, the host as 1024, firmware as 1025. -/
inductive Requester
  | run (core : Nat)
  | matrix (tile : Nat)
  | copy (tile ch : Nat)
  | scale (core id : Nat)
  | rescale
  | outside (n : Nat)
  deriving DecidableEq, Repr

/-- A launch record: its 256 bytes (14 R297), the work queue that armed it, the albedo records its contexts hold, its contexts
that have not ended; `ctx` is the number of the context that armed it. -/
structure Rec where
  img   : BitVec 2048
  wq    : Option Nat
  ctx   : Nat
  albFirst : Nat
  albCount : Nat
  live  : List Nat
  /-- one of the contexts that have left had EFFECT set (16 R356) -/
  effect : Bool
  deriving DecidableEq, Repr

/-- A work queue (19 R384). -/
structure WorkQueue where
  base  : Nat
  log   : Nat
  sub   : Nat
  cons  : Nat
  stop  : Bool
  cause : Nat
  rcd   : Nat
  done  : Nat
  /-- the cycle until which its vector is held off, and whether a change waits for it -/
  hold  : Nat
  owed  : Bool
  deriving DecidableEq, Repr

/-- A request that has left for a home: its key, the cycle in which it is performed if nothing delays it, the core it is for, who asks. -/
structure Waiter where
  key  : Nat
  at_  : Nat
  core : Nat
  who  : Requester
  deriving DecidableEq, Repr

/-- Who writes a line of memory: a store of a core by its number, a copy channel of a tile, another agent at an address, a core's save area. -/
inductive Writer
  | store (core id : Nat)
  | copy (tile ch : Nat)
  | line (dpa : Nat)
  | save (core : Nat)
  deriving DecidableEq, Repr

/-- What the device tells the host: a completion with data or a refusal, or an interrupt vector (19 R381, R384). -/
inductive HostMsg
  | data (fn : Nat) (bytes : List Byte)
  | done (fn : Nat)
  | abort (fn : Nat)
  | msix (fn vector : Nat)
  deriving DecidableEq, Repr

/-- A saved context of a core: the core, its matrix run and commands, its copy commands, the LOCKs it keeps (16 R352 to R355; 09 R191;
11 R258; 10 R228). -/
structure Save where
  id    : Nat
  core  : Nat
  /-- the live classes of its SAFEPT: what the save wrote (16 R352) -/
  live  : Nat
  img   : Core
  runs  : List MRun
  cmds  : List MCmd
  ccmds : List CCmd
  /-- offsets of the sync objects in the accumulator window -/
  locks : List Nat
  deriving DecidableEq, Repr

/-- What the package block holds (19 R382, R386, R389, R390). -/
structure Package where
  pkgid  : Nat
  warm   : Bool
  keep   : Bool
  /-- a start is in progress -/
  go     : Bool
  fails  : Nat
  safe   : Bool
  pwrcap : Nat
  /-- arithmetic clock in MHz (00 R7, 19 R389) -/
  clock  : Nat
  spanstat : Nat
  hosterr  : Nat
  routebase : Nat
  vftiles : Map Nat
  vfres  : Map Nat
  deriving DecidableEq, Repr

/-- The package. -/
structure State where
  /-- arithmetic cycles since the last start (01 R16) -/
  now    : Nat
  /-- the stream whose word is being executed; the stream that moves next; the streams still to move in this cycle -/
  who    : Agent
  turn   : Option Agent
  todo   : List Agent
  /-- events to come: twice the cycle, plus one when the event follows the cycle's streams -/
  agenda : List (Nat × Event)
  /-- the event being executed, with its data -/
  ev     : Event
  /-- picks a fresh free value (notes/assumptions/4.md) -/
  freeCount : Nat
  cores  : Map Core
  dram   : Mem
  remote : Mem
  scratch : Mem
  accum  : Mem
  /-- metadata by line number of the address or of the aperture -/
  lines  : Map LineMeta
  tiles  : Map Tile
  dies   : Map Die
  /-- words that homes have reserved for a run, by home key: key and core (05 R101) -/
  reserved : List (Nat × Nat)
  /-- requests on their way to homes and waiting at them, in the order of their arrival, those of one cycle by core number
  (10 R218, R228) -/
  waiters : List Waiter
  /-- writes that wait at memory controllers for an overflow slot or an index block: line and writer, in the order of their arrival
  (12 R279, R280) -/
  lineQ  : List (Nat × Writer)
  /-- words of memory with an uncorrectable error: doublewords of the accumulators and scratchpads, lines of DRAM (18 R375) -/
  badAcc : List Nat
  badScr : List Nat
  badDram : List Nat
  /-- tiles fenced at compute level and at router level (17 R365) -/
  fencedC : List Nat
  fencedR : List Nat
  recs   : Map Rec
  wqs    : Map WorkQueue
  saves  : List Save
  pkg    : Package
  /-- the cycle in which HBC was 0 (17 R358) -/
  hbc0   : Option Nat
  toHost : List HostMsg
  /-- what the host has sent since a write of its began to wait, that write first: served in this order (19 R384) -/
  fromHost : List Event
  deriving DecidableEq, Repr

/-- Why the machine stops. -/
inductive Fault
  /-- LINE_ACCESS of a device physical address that 12 R262 reserves. Safe. -/
  | noSuchAddress
  deriving DecidableEq, Repr

/-- Why an instruction has no meaning. -/
inductive Refusal
  /-- The arm of an instruction that has no meaning yet. Safe. -/
  | notModelled (mnemonic : String)
  deriving DecidableEq, Repr

/-- What a stream outcome is. -/
abbrev Res := Host.Outcome State Fault Refusal

/-- A position that issues nothing. -/
def Pos.idle : Pos := ⟨.idle, 0, 0, 0, 0, false, 0, 0, none, none, 0, 0, 0, 0, false⟩

/-- The predicates at a context start: p0 1, the others 0 (14 R307). -/
def preds0 : Vector Bool 8 := #v[true, false, false, false, false, false, false, false]

def Outer.idle : Outer :=
  ⟨Pos.idle, [], false, 0, 0, 0, 0, Vector.replicate 6 0, Vector.replicate 6 0, Vector.replicate 24 0, preds0⟩

def CStream.idle : CStream :=
  ⟨Pos.idle, [], preds0, [], [], Vector.replicate 32 0, preds0, [], [], [], 0, 0, 0, [], false, none, none, [], none, none, none, []⟩

/-- No page held. The previous address is 0, so that the first segment's direction is up (07 R145; notes/assumptions/46.md, DESIGN
CHOICE, unsafe). -/
def StreamTlb.empty : StreamTlb := ⟨none, none, 0⟩

def Queues.empty : Queues :=
  ⟨Vector.replicate 6 [], Vector.replicate 2 [], Vector.replicate 4 [], [], Vector.replicate 8 StreamTlb.empty,
   Vector.replicate 14 16384, none, 1, (0, 0), []⟩

def XRegs.zero : XRegs :=
  ⟨Vector.replicate 32 0, Vector.replicate 8 0, Vector.replicate 16 0, Vector.replicate 8 0, Vector.replicate 8 0, 0, [], 1, 0, 0, 0, false⟩

/-- All FREE, MBSTAT 0x5555 (09 R206). -/
def Batches.fresh : Batches :=
  ⟨Vector.replicate 8 0, 0x5555, Vector.replicate 8 0, Vector.replicate 8 false, Vector.replicate 8 false⟩

/-- The array is free and core 3 was granted last (09 R187). -/
def Matrix.fresh : Matrix :=
  { runs := [], owner := none, gat := 0, freed := 0, last := 3, doneAt := 0, nextId := 1, cmds := [] }

/-- A neighbour after a start (17 R374). -/
def Nbr.fresh : Nbr :=
  { clean := 0, miss := 0, prob := false, fence := 0, level := 0, vote := 0, held := false, lift := false, spent := false, told := false, seq := none, beats := [],
    badC := false, badR := false, injC := [], injS := [], drops := 0 }

/-- INJCAP 0x2_0000, MISSMAX 4 (17 R362). -/
def Hbu.fresh : Hbu :=
  { cfg := 0x200004, sigs := 0, nbr := Vector.replicate 4 Nbr.fresh, votes := [], seqOut := 0, self := 0, appeals := 0,
    appealing := false, sigOut := 0, selfFail := false, sent := [] }

def Tile.fresh : Tile :=
  { pgroot := 0, mx := Matrix.fresh, merges := [], served := [], etlb := Vector.replicate 6 StreamTlb.empty, ports := [], cp := ⟨[], Vector.replicate 4 3, 1⟩, hb := Hbu.fresh,
    susp := ⟨Vector.replicate 6 0, Vector.replicate 6 false, 200, 0⟩, brk := Vector.replicate 4 0 }

def Die.fresh : Die :=
  { cmpcfg := 512, slots := [], blocks := [], resv := [], low := false, notices := [], albdrop := 0,
    tlbinv := 0, inval := [], lcfg := 256 * 2 ^ 32, arms := [], childq := [], chqAt := 0 }

/-- A core that no context has touched since the start (19 R386; notes/assumptions/6.md). -/
def Core.fresh : Core :=
  { mode := .free, s := Vector.replicate 32 0, a := Vector.replicate 32 0, aReady := [], c := CStream.idle,
    ao := Outer.idle, xo := Outer.idle, xr := XRegs.zero, q := Queues.empty, sh := Vector.replicate 16 0, sys := [],
    ctlb := [], imemC := [], imemA := [], imemX := [], desc := [], trailer := 0,
    sc := ⟨0, 0, true⟩, wd := ⟨0, 0, false⟩, raises := 0, stopped := false, traps := [], pend := [], frame := none,
    batch := Batches.fresh, lr := none, ordinal := 0,
    ringBase := 0, ringSize := 0, spillBase := 0, spillSize := 0, binds := [], mail := [], posts := [], nextPost := 1,
    arrivals := [], sent := false, before := [], preempt := false, load := none, ctx := 0, synced := false, ovlBytes := 0, cst := [],
    scales := [], ecc := [] }

def Rec.fresh : Rec := ⟨0, none, 0, 0, 0, [], false⟩
def WorkQueue.fresh : WorkQueue := ⟨0, 0, 0, 0, false, 0, 0, 0, 0, false⟩

/-- The package block after a start; the clock runs at its full rate (00 R7). -/
def Package.fresh : Package :=
  { pkgid := 0, warm := false, keep := false, go := false, fails := 0, safe := false, pwrcap := 2900, clock := 850, spanstat := 0,
    hosterr := 0, routebase := 0, vftiles := [], vfres := [] }

/-- The machine right after a start (19 R386). -/
def State.reset : State :=
  { now := 0, who := ⟨0, .c⟩, turn := none, todo := [], agenda := [(0, .beatSend 0), (2 ^ 31, .scoreDecay)], ev := .dramRefresh, freeCount := 0,
    cores := [], dram := [], remote := [],
    scratch := [], accum := [], lines := [], tiles := [], dies := [], reserved := [], waiters := [], lineQ := [],
    badAcc := [], badScr := [], badDram := [], fencedC := [], fencedR := [],
    recs := [], wqs := [], saves := [], pkg := Package.fresh, hbc0 := some 0, toHost := [], fromHost := [] }

end Sys2Proof.Machine
end

