-- ==== Sys2Proof/Machine/Base.lean ====
section
/-! DEFINITION. Reading and writing the parts of the state; the agenda of events; the position of a stream. -/

namespace Sys2Proof.Machine

/-! Places of the mesh (01 R11, R12). -/

def tileX (t : Nat) : Nat := t % 16
def tileY (t : Nat) : Nat := t / 16
def dieOf (t : Nat) : Nat := 2 * b2n (8 ≤ tileY t) + b2n (8 ≤ tileX t)
/-- The tile of a package core number (01 R11). -/
def tileOf (core : Nat) : Nat := core / 4
def absDiff (a b : Nat) : Nat := (a - b) + (b - a)
/-- Hops on an unfenced mesh (01 R408). -/
def hops (t u : Nat) : Nat := absDiff (tileX t) (tileX u) + absDiff (tileY t) (tileY u)

/-! Cores, tiles and dies. -/

def State.core (s : State) (n : Nat) : Core := Map.get Core.fresh s.cores n
/-- Tiles at most `n` hops from a tile on routes that avoid a set of tiles. -/
def reach (fenced : List Nat) (t : Nat) : Nat → List Nat
  | 0 => [t]
  | n + 1 =>
    let r := reach fenced t n
    (List.range 256).filter (fun u => r.contains u || r.any (fun v => hops u v == 1 && (v == t || !fenced.contains v)))
/-- Hops of the route between two tiles: the shortest that goes round router-fenced tiles (01 R408, 17 R366; notes/assumptions/38.md,
DEDUCED, unsafe). -/
def State.hops (s : State) (t u : Nat) : Nat :=
  if s.fencedR = [] then Machine.hops t u
  else ((List.range 256).find? (fun n => (reach s.fencedR t n).contains u)).getD (Machine.hops t u)

def State.setCore (s : State) (n : Nat) (c : Core) : State := { s with cores := Map.set s.cores n c }
def State.modCore (s : State) (n : Nat) (f : Core → Core) : State := s.setCore n (f (s.core n))
def State.tile (s : State) (n : Nat) : Tile := Map.get Tile.fresh s.tiles n
def State.setTile (s : State) (n : Nat) (t : Tile) : State := { s with tiles := Map.set s.tiles n t }
def State.modTile (s : State) (n : Nat) (f : Tile → Tile) : State := s.setTile n (f (s.tile n))
def State.die (s : State) (n : Nat) : Die := Map.get Die.fresh s.dies n
def State.setDie (s : State) (n : Nat) (d : Die) : State := { s with dies := Map.set s.dies n d }
def State.modDie (s : State) (n : Nat) (f : Die → Die) : State := s.setDie n (f (s.die n))

/-- The core whose word is being executed. -/
def State.me (s : State) : Core := s.core s.who.core
def State.setMe (s : State) (c : Core) : State := s.setCore s.who.core c
def State.myTile (s : State) : Nat := tileOf s.who.core

/-! Events. -/

/-- The order of one cycle's requests to a plane of accumulator SRAM (10 R218); other events come before them, and a decay of the suspect
scores before what SUSPCTL writes (18 R379). -/
def eventRank : Event → Nat
  | .suspctlInc _ _ _ => 2
  | .suspctlClrq _ _ => 2
  | .suspcfgWrite _ _ => 2
  | .matrixCommandComplete _ => 1
  | .matrixCommandStop _ _ _ _ => 1
  | .accumulatorPortGrant _ _ => 3
  | .syncAccept _ => 4
  | .homeRequest _ _ => 4
  | .matrixAcquire _ => 4
  | .copyCommandComplete _ _ => 5
  | .copyCommandStop _ _ _ => 5
  | .albedoMergeApply _ => 6
  | _ => 0

/-- Put an event after those with the same key and no higher rank. -/
def agendaPut : List (Nat × Event) → Nat → Event → List (Nat × Event)
  | [], k, i => [(k, i)]
  | (j, e) :: t, k, i => if j < k ∨ (j = k ∧ eventRank e ≤ eventRank i) then (j, e) :: agendaPut t k i else (k, i) :: (j, e) :: t

/-- An event in a later cycle, before the cycle's words. -/
def State.at_ (s : State) (cycle : Nat) (i : Event) : State := { s with agenda := agendaPut s.agenda (2 * cycle) i }
def State.after (s : State) (delay : Nat) (i : Event) : State := s.at_ (s.now + delay) i
/-- An event after the words of this cycle. -/
def State.late (s : State) (i : Event) : State :=
  if s.agenda.any (fun e => e.1 == 2 * s.now + 1 && e.2 == i) then s
  else { s with agenda := agendaPut s.agenda (2 * s.now + 1) i }
/-- Withdraw events. -/
def State.cancel (s : State) (p : Event → Bool) : State := { s with agenda := s.agenda.filter (fun e => !p e.2) }

/-! Requests to homes (01 R408, 10 R218). -/

/-- Requests stand in the order of their arrival, those of one cycle by core number. -/
def waiterPut : List Waiter → Waiter → List Waiter
  | [], w => [w]
  | v :: t, w => if v.at_ < w.at_ ∨ (v.at_ = w.at_ ∧ v.core ≤ w.core) then v :: waiterPut t w else w :: v :: t
/-- The neighbour in direction d: 0 x + 1, 1 y + 1, 2 x − 1, 3 y − 1 (17 R359). -/
def neighbour (t d : Nat) : Option Nat :=
  let x := tileX t
  let y := tileY t
  match d with
  | 0 => if x < 15 then some (t + 1) else none
  | 1 => if y < 15 then some (t + 16) else none
  | 2 => if 0 < x then some (t - 1) else none
  | _ => if 0 < y then some (t - 16) else none
/-- The direction in which a tile first passes a flit on to u, x first. -/
def firstHop (t u : Nat) : Nat :=
  if tileX t < tileX u then 0 else if tileX u < tileX t then 2 else if tileY t < tileY u then 1 else 3
/-- A tile is fenced at compute level, and what its cores and engines send to another tile is dropped at the neighbour's port and counted there
(17 R366). -/
def State.muted (s : State) (t u : Nat) : Bool := s.fencedC.contains t && t != u
def State.dropFlit (s : State) (t u : Nat) : State :=
  match neighbour t (firstHop t u) with
  | none => s
  | some m => s.modTile m (fun ti =>
      let d := (firstHop t u + 2) % 4
      let n := ti.hb.nbr.getD d Nbr.fresh
      { ti with hb := { ti.hb with nbr := ti.hb.nbr.setIfInBounds d { n with drops := min 65535 (n.drops + 1) } } })
/-- A request leaves a tile for a home: it travels 6 + 2h cycles and is performed in the cycle after its arrival, as `ev` (01 R408). -/
def State.sendAsk (s : State) (tile home key core : Nat) (who : Requester) (ev : Event) : State :=
  if s.muted tile home then s.dropFlit tile home else
  let t := s.now + 7 + 2 * s.hops tile home
  { s with waiters := waiterPut s.waiters ⟨key, t, core, who⟩ }.at_ t ev
def State.dropAsks (s : State) (p : Requester → Bool) : State := { s with waiters := s.waiters.filter (fun w => !p w.who) }

/-! Merge messages (10 R233; 13 R286, R288, R290). -/

/-- Offset of a record in the accumulator window (13 R283). -/
def recOff (n : Nat) : Nat := n / 256 * 0x40_0000 + 0x3F_0000 + 128 * (n % 256)
/-- An engine of a core waits to issue a merge. -/
def State.unsent (s : State) (core : Nat) (p : MergeSrc → Bool) : Bool :=
  s.agenda.any (fun e => match e.2 with | .albedoMergeIssue c src _ => c == core && p src | _ => false)
/-- Merges of a core come to stand before its later releases: `f` gives the level that each has reached. -/
def State.raiseMerges (s : State) (core : Nat) (f : Merge → Nat) : State :=
  if s.tiles.any (fun t => t.2.merges.any (fun m => m.core == core && m.level < f m)) then
    { s with tiles := s.tiles.map (fun t => (t.1, { t.2 with merges := t.2.merges.map (fun m =>
        if m.core = core then { m with level := max m.level (f m) } else m) })) }
  else s
/-- A DJOIN covers what the joined streams wrote, and the engine commands that the A stream has awaited. -/
def State.joinMerges (s : State) (core : Nat) (x a : Bool) : State :=
  s.raiseMerges core (fun m => if (x && m.src == .vqnt) || (a && (m.src == .queue || m.level == 1)) then 2 else 0)
/-- The A stream has awaited tags, a batch. -/
def State.awaitTags (s : State) (core : Nat) (mask : Word) : State :=
  s.raiseMerges core (fun m => match m.src with | .copy _ t => b2n (mask.getLsbD t.val) | _ => 0)
def State.awaitBatch (s : State) (core : Nat) (b : N8) : State :=
  s.raiseMerges core (fun m => match m.src with | .matrix _ n => b2n (n == b) | _ => 0)
/-- Merges of a core that have been issued, or that an engine still waits to issue, and are not yet applied. -/
def State.mergesOf (s : State) (core : Nat) (p : MergeSrc → Bool) : Bool :=
  s.unsent core p || s.tiles.any (fun t => t.2.merges.any (fun m => m.core == core && p m.src))
/-- Merges that a release of the core waits for. -/
def State.mergesJoined (s : State) (core : Nat) : Bool :=
  s.tiles.any (fun t => t.2.merges.any (fun m => m.core == core && m.level == 2))

/-! Registers (06 R121, 08 R157). -/

def Core.getS (c : Core) (r : Reg) : Word := if r = 0 then 0 else c.s[r]
/-- A register that is written holds no error any more (18 R375). -/
def Core.mend (c : Core) (r : RegId) : Core := { c with ecc := c.ecc.filter (fun x => x != r) }
def RegId.isS : RegId → Bool | .s _ => true | _ => false
/-- Some of the registers holds an uncorrectable error. -/
def Core.bad (c : Core) (rs : List RegId) : Bool := rs.any (fun r => c.ecc.contains r)
def Core.setS (c : Core) (r : Reg) (v : Word) : Core := if r = 0 then c else { c.mend (.s r) with s := c.s.set r v }
def Core.getA (c : Core) (r : Reg) : Word := if r = 0 then 0 else c.a[r]
def Core.setA (c : Core) (r : Reg) (v : Word) : Core := if r = 0 then c else { c.mend (.a r) with a := c.a.set r v }
def Core.getX (c : Core) (r : N16) : Word := if r = 0 then 0 else c.xr.x[r]
def Core.setX (c : Core) (r : N16) (v : Word) : Core :=
  if r = 0 then c else { c.mend (.x r) with xr := { c.xr with x := c.xr.x.set r v } }

/-- Predicates of a stream; p0 reads one. -/
def Core.pred (c : Core) (st : Stream) (p : N8) : Bool :=
  if p = 0 then true else match st with | .c => c.c.p[p] | .a => c.ao.p[p] | .x => c.xo.p[p]
def Core.setPred (c : Core) (st : Stream) (p : N8) (b : Bool) : Core :=
  if p = 0 then c else match st with
    | .c => { c with c := { c.c with p := c.c.p.set p b } }
    | .a => { c with ao := { c.ao with p := c.ao.p.set p b } }
    | .x => { c with xo := { c.xo with p := c.xo.p.set p b } }

/-- The value of a guard (03 R48). -/
def Core.guard (c : Core) (st : Stream) (g : Guard) : Bool := c.pred st g.p != g.neg

/-! System registers that are plain storage (16 R357). -/

/-- Their values after a start (notes/assumptions/6.md). -/
def sysDefault (i : Nat) : Word := if i = 0x0D then 2 ^ 28 else if i = 0x56 then 0x7F else if i = 0x64 then 16 else 0
def Core.sysReg (c : Core) (i : Nat) : Word := Map.get (sysDefault i) c.sys i
def Core.setSys (c : Core) (i : Nat) (v : Word) : Core := { c with sys := Map.set c.sys i v }
/-- PRIVSTAT bits (16 R357). -/
def Core.sup (c : Core) : Bool := bitOf (c.sysReg 7).toNat 0
def Core.inHandler (c : Core) : Bool := bitOf (c.sysReg 7).toNat 1
def Core.setEffect (c : Core) : Core := c.setSys 7 (c.sysReg 7 ||| 4)

/-! Positions. -/

def Core.pos (c : Core) (st : Stream) : Pos := match st with | .c => c.c.pos | .a => c.ao.pos | .x => c.xo.pos
def Core.setPos (c : Core) (st : Stream) (p : Pos) : Core :=
  match st with
  | .c => { c with c := { c.c with pos := p } }
  | .a => { c with ao := { c.ao with pos := p } }
  | .x => { c with xo := { c.xo with pos := p } }

def Core.imem (c : Core) (st : Stream) : Map (BitVec 16) := match st with | .c => c.imemC | .a => c.imemA | .x => c.imemX
/-- Halfwords of a stream's instruction memory (05 R93). -/
def imemSize (st : Stream) : Nat := match st with | .c => 8192 | .a => 8192 | .x => 16384
/-- The halfwords at an address, as many as lie in instruction memory, at most `n`. -/
def Core.halfwords (c : Core) (st : Stream) (pc n : Nat) : List Nat :=
  (List.range (min n (imemSize st - pc))).map (fun k => (Map.get 0 (c.imem st) (pc + k)).toNat)

/-- The stream and position whose word is being executed. -/
def State.pos (s : State) : Pos := s.me.pos s.who.st
def State.setPos (s : State) (p : Pos) : State := s.setMe (s.me.setPos s.who.st p)

/-- SPCNT counts the cycles in which the C stream issues a word or a header (16 R351). -/
def Core.countIssue (c : Core) (st : Stream) : Core := match st with | .c => c.setSys 0x0B (c.sysReg 0x0B + 1) | _ => c

/-- SPCNT is past its limit between safe points (16 R351). -/
def Core.pastLimit (c : Core) : Bool := 16384 < (c.sysReg 0x0B).toNat

/-- What a C run keeps for its rollback, at its start (05 R100, R102). -/
def Core.startRun (c : Core) : Core :=
  { c with c := { c.c with held := [], s0 := c.s, p0 := c.c.p, e0 := c.ecc.filter RegId.isS, undo := [], shapes := [], peek2 := 0, peek3 := 0,
                           until_ := 0, asks := [], asked := false, refused := none, settle := none, walk := none } }

/-- The word has issued: the position moves past it (05 R96, R99). The last word of a run ends the run: in the A and X streams
in this cycle, in the C stream with phase 1 of commit in the next (05 R101). A KATCHK whose literal reaches past the block's LEN words
executes and is the run's last word (notes/assumptions/44.md, DESIGN CHOICE, unsafe). -/
def State.retire (s : State) : State :=
  let s := s.setMe (s.me.countIssue s.who.st)
  let p := s.pos
  let left := p.left - p.fwords
  let p := { p with pc := p.pc + p.flen, left := left, last := s.now, pfx := none, brk := false }
  if left = 0 then
    match s.who.st with
    | .c => s.setPos { p with phase := .commit1 }
    | _ => { s.setPos { p with phase := .runEnd } with turn := some s.who }
  else s.setPos p

/-! Raising a trap (16 R341, R343). -/

/-- The codes of the causes (16 R340). -/
def Cause.code : Cause → Nat
  | .illegalWord => 0 | .reservedField => 1 | .blockHeader => 2 | .privilege => 3 | .queueDirection => 4 | .shapeInvalid => 5
  | .callDepth => 6 | .dispOvercommit => 7 | .exitMulti => 8 | .bindFull => 9 | .tagIdle => 10 | .copyParam => 11
  | .syncMisuse => 12 | .overlayInvalid => 13 | .pageNotPresent => 16 | .pagePermRead => 17 | .pagePermWrite => 18
  | .pagePermExec => 19 | .compressedAccess => 20 | .align => 21 | .scratchBounds => 22 | .accBounds => 23
  | .guardTagMismatch => 24 | .versionStale => 25 | .atomicTarget => 26 | .holdViolation => 27 | .copyIndex => 28
  | .albedoFree => 29 | .batchOpen => 32 | .rescale => 33 | .accInflight => 34 | .mmaParam => 35 | .matrixResidue => 36
  | .matrixScaleDup => 37 | .sparseMetaDup => 38 | .katMismatch => 39 | .leaseNone => 40 | .leaseOverrun => 41
  | .replayOperandLost => 42 | .predUnfinished => 48 | .scoreboardLate => 49 | .orbitUnaligned => 50
  | .launchPoolEmpty => 51 | .launchRecordBusy => 52 | .childQueueLow => 53 | .tailFull => 54 | .offloadPending => 55
  | .sealMismatch => 56 | .safeptLate => 57 | .orbitBroken => 58 | .syncPoisoned => 59 | .launchRecordInvalid => 60
  | .tailSegment => 61 | .eccReg => 64 | .eccScratch => 65 | .eccAcc => 66 | .eccDram => 67 | .poisonConsumed => 68
  | .destEclipsed => 69 | .spanUnreachable => 70 | .preempt => 80 | .debugBreak => 81 | .trapInstruction => 82
  | .hostKill => 83 | .watchdog => 84 | .coreReset => 85 | .doubleTrap => 86

/-- The causes by code. -/
def Cause.ofCode (n : Nat) : Option Cause :=
  [Cause.illegalWord, .reservedField, .blockHeader, .privilege, .queueDirection, .shapeInvalid, .callDepth, .dispOvercommit,
   .exitMulti, .bindFull, .tagIdle, .copyParam, .syncMisuse, .overlayInvalid, .pageNotPresent, .pagePermRead, .pagePermWrite,
   .pagePermExec, .compressedAccess, .align, .scratchBounds, .accBounds, .guardTagMismatch, .versionStale, .atomicTarget,
   .holdViolation, .copyIndex, .albedoFree, .batchOpen, .rescale, .accInflight, .mmaParam, .matrixResidue, .matrixScaleDup,
   .sparseMetaDup, .katMismatch, .leaseNone, .leaseOverrun, .replayOperandLost, .predUnfinished, .scoreboardLate,
   .orbitUnaligned, .launchPoolEmpty, .launchRecordBusy, .childQueueLow, .tailFull, .offloadPending, .sealMismatch, .safeptLate,
   .orbitBroken, .syncPoisoned, .launchRecordInvalid, .tailSegment, .eccReg, .eccScratch, .eccAcc, .eccDram, .poisonConsumed,
   .destEclipsed, .spanUnreachable, .preempt, .debugBreak, .trapInstruction, .hostKill, .watchdog, .coreReset,
   .doubleTrap].find? (fun c => c.code == n)

/-- TRAPSTREAM (16 R357). -/
def TrapReq.streamWord (t : TrapReq) : Nat := t.stream % 4 + t.src % 4 * 4 + t.ch % 4 * 16
/-- TRAPCAUSE; ASYNC: an engine raised it. -/
def TrapReq.causeWord (t : TrapReq) : Nat := t.cause.code + b2n (t.src ≠ 0) * 128
def Core.setTrapRegs (c : Core) (t : TrapReq) : Core :=
  ((((c.setSys 0 (BitVec.ofNat 64 t.causeWord)).setSys 1 (BitVec.ofNat 64 t.pc)).setSys 2 (BitVec.ofNat 64 t.streamWord)).setSys 3
    (BitVec.ofNat 64 t.info0)).setSys 4 (BitVec.ofNat 64 t.info1)

def streamCode : Stream → Nat | .c => 0 | .a => 1 | .x => 2

/-- Post a trap for delivery after the cycle's words (16 R342, R343). -/
def State.post (s : State) (core : Nat) (t : TrapReq) : State :=
  (s.modCore core (fun c => { c with traps := c.traps ++ [t] })).late (.trapDelivery core)

/-- A precise trap of a stream's own word. TRAPPC is the block's header in the C stream, the micro-PC of the word, or of its
prefix, in the others (03 R66, 05 R102, R103). The stream stands at the word, or at its
prefix, and issues it again after RFT (16 R343). -/
def State.trapOf (s : State) (ag : Agent) (cause : Cause) (i0 i1 : Nat) : State :=
  let p := (s.core ag.core).pos ag.st
  let at_ := if p.pfx.isSome then p.pfxAt else p.pc
  let pc := match ag.st with | .c => p.blk | _ => at_
  let s := s.modCore ag.core (fun c => c.setPos ag.st { p with pc := at_, left := if p.pfx.isSome then p.left + 1 else p.left, pfx := none })
  s.post ag.core ⟨streamCode ag.st, 0, 0, cause, pc, i0, i1⟩

/-- The same for the word being executed. -/
def State.trap (s : State) (cause : Cause) (i0 i1 : Nat := 0) : Res := .next (s.trapOf s.who cause i0 i1)

/-! Traps of an encoding (03 R66). -/

/-- The word at halfwords of instruction memory, zero-extended (03 R66). Where no whole word stands, at the end of instruction
memory, the halfwords that are there (notes/assumptions/33.md, DESIGN CHOICE, unsafe). -/
def wordBits : List Nat → Nat
  | [] => 0
  | [h] => h
  | h :: l :: _ => if h < 2 ^ 15 then h else h * 2 ^ 16 + l

/-- The bits of a prefix. -/
def pfxBits (p : Pfx) : Nat :=
  match p.guard with
  | some g => encodeWord (.pfxGuarded g p.rnd p.iq)
  | none => encodeWord (.pfx p.rnd p.msel p.iq p.sat)

/-- A trap of the encoding the stream stands at: the address of the instruction, its word and its prefix (03 R66). -/
def State.encTrap (s : State) (cause : Cause) : Res :=
  let p := s.pos
  let w := wordBits (s.me.halfwords s.who.st p.pc 2)
  match p.pfx with
  | none => s.trap cause p.pc w
  | some x => s.trap cause p.pfxAt (pfxBits x * 2 ^ 32 + w)

end Sys2Proof.Machine
end

