-- ==== Sys2Proof/Machine/Flags.lean ====
section
/-! DEFINITION. What decides: conditions, predicates, byte lanes of masks (03 R59; 06 R126; 08 R160). -/

namespace Sys2Proof.Machine

/-- A condition on two doublewords (06 R126). -/
def condHolds (cc : Cond) (a b : Word) : Bool :=
  match cc with
  | .eq => a == b
  | .ne => a != b
  | .lt => a.slt b
  | .ltu => a.ult b
  | .ge => b.sle a
  | .geu => b.ule a

/-- The functions of R123 that count bits. -/
def clz (a : Word) : Nat := if a = 0 then 64 else 63 - Nat.log2 a.toNat
def ctz (a : Word) : Nat := ((List.range 64).find? (fun k => a.getLsbD k)).getD 64
def popc (a : Word) : Nat := (List.range 64).countP (fun k => a.getLsbD k)

/-- Quotient and remainder with the edges of 06 R124. -/
def divS (a b : Word) : Word := if b = 0 then BitVec.allOnes 64 else a.sdiv b
def divU (a b : Word) : Word := if b = 0 then BitVec.allOnes 64 else a / b
def remS (a b : Word) : Word := if b = 0 then a else a.srem b
def remU (a b : Word) : Word := if b = 0 then a else a % b
/-- Upper half of the exact product (06 R123). -/
def mulhS (a b : Word) : Word := BitVec.ofInt 64 (a.toInt * b.toInt / 2 ^ 64)
def mulhU (a b : Word) : Word := BitVec.ofNat 64 (a.toNat * b.toNat / 2 ^ 64)
def minS (a b : Word) : Word := if a.slt b then a else b
def maxS (a b : Word) : Word := if a.slt b then b else a
def minU (a b : Word) : Word := if a.ult b then a else b
def maxU (a b : Word) : Word := if a.ult b then b else a
/-- The low six bits of a shift count (06 R123). -/
def shAmt (b : Word) : Nat := b.toNat % 64
def extBits : ExtW → Nat | .b => 8 | .h => 16 | .w => 32
/-- Sign- and zero-extension of the low bits (06 R123). -/
def sextTo (n : Nat) (a : Word) : Word := (a.setWidth n).signExtend 64
def zextTo (n : Nat) (a : Word) : Word := (a.setWidth n).setWidth 64

end Sys2Proof.Machine
end

