-- ==== Sys2Proof/Machine/Lines.lean ====
section
/-! DEFINITION. The memory controllers: lines of 128 bytes, their metadata, compression and overflow slots (12 R262, R268,
R274 to R282; 11 R248). -/

namespace Sys2Proof.Machine

/-! The map of device physical addresses (12 R262). -/

def columnSize : Nat := 0x6000_0000
def dramEnd : Nat := 0x60_0000_0000
def apertureBase : Nat := 0x80_0000_0000
def apertureEnd : Nat := 0x140_0000_0000
def hostBase : Nat := 0x4000_0000_0000
def registerBase : Nat := 0x8000_0000_0000
def inDram (a : Nat) : Bool := a < dramEnd
def inAperture (a : Nat) : Bool := apertureBase ≤ a && a < apertureEnd
def inHost (a : Nat) : Bool := hostBase ≤ a && a < registerBase
/-- The tile whose column holds a DRAM address. -/
def columnOf (dpa : Nat) : Nat := dpa / columnSize
/-- The DRAM address of the home unit behind an aperture address (12 R282). -/
def homeOf (ap : Nat) : Nat := minus ap apertureBase / 0x1_0000 * 0x8000
/-- The aperture address of a home unit (12 R282). -/
def apertureOf (dpa : Nat) : Nat := apertureBase + 2 * dpa

/-! Guard tags (11 R248). -/

/-- One byte into a CRC-32C, reflected. -/
def crc32cByte (c b : Nat) : Nat :=
  (List.range 8).foldl (fun c _ => if c % 2 = 1 then (c / 2) ^^^ 0x82F63B78 else c / 2) (c ^^^ b)
/-- CRC-32C of bytes. -/
def crc32c (bs : List Byte) : BitVec 32 :=
  BitVec.ofNat 32 (bs.foldl (fun c b => crc32cByte c b.toNat) 0xFFFFFFFF ^^^ 0xFFFFFFFF)
/-- The CRC of a block: its virtual address divided by 128 as eight bytes, then the block (11 R248). -/
def blockCrc (addrWord : Nat) (bs : List Byte) : BitVec 32 := crc32c (leBytes 8 addrWord ++ bs)
/-- The CRC of a zero block under address word 0 (12 R274): `blockCrc 0` of 128 zero bytes. -/
def zeroCrc : BitVec 32 := 0x9BF6C57C#32

/-- Metadata of a line nobody has written: a plain line after a start (12 R274), a line of a fresh home (12 R277). -/
def metaDefault (line : Nat) : LineMeta :=
  if apertureBase / 128 ≤ line && line < apertureEnd / 128 then ⟨true, zeroCrc, 0, 1, 0⟩ else ⟨true, zeroCrc, 0, 0, 8⟩
def State.lineMeta (s : State) (line : Nat) : LineMeta := Map.get (metaDefault line) s.lines line
def State.setMeta (s : State) (line : Nat) (m : LineMeta) : State :=
  { s with lines := Map.put (metaDefault line) s.lines line m }

/-! Encodings (12 R275, R276). A line is a number of 1,024 bits. -/

/-- Element i of width w bits. -/
def elem (n w i : Nat) : Nat := n / 2 ^ (w * i) % 2 ^ w
/-- The difference of an element from element 0, as a signed number of w bits. -/
def delta (n w i : Nat) : Int := signedOf w (elem n w i + 2 ^ w - elem n w 0)
def fitsSigned (d : Nat) (z : Int) : Bool := -(2 ^ (d - 1) : Int) ≤ z && z < 2 ^ (d - 1)
def bdFits (w d n : Nat) : Bool := (List.range (1024 / w)).all (fun i => fitsSigned d (delta n w i))
def bdStore (w d n : Nat) : Nat :=
  (List.range (1024 / w)).foldl (fun r i => r + wrapTo d (delta n w i) * 2 ^ (w + d * i)) (elem n w 0)
def bdLoad (w d st : Nat) : Nat :=
  (List.range (1024 / w)).foldl
    (fun r i => r + wrapTo w ((st % 2 ^ w : Int) + signedOf d (st / 2 ^ (w + d * i))) * 2 ^ (w * i)) 0
/-- Exponent field of word i. -/
def expOf (n i : Nat) : Nat := field (elem n 32 i) 23 8
def expDelta (n i : Nat) : Int := signedOf 8 (expOf n i + 256 - expOf n 0)
def expFits (n : Nat) : Bool := (List.range 32).all (fun i => fitsSigned 3 (expDelta n i))
def expStore (n : Nat) : Nat :=
  (List.range 32).foldl (fun r i => r + wrapTo 3 (expDelta n i) * 2 ^ (8 + 3 * i)
    + (field (elem n 32 i) 31 1 * 2 ^ 23 + field (elem n 32 i) 0 23) * 2 ^ (104 + 24 * i)) (expOf n 0)
def expLoad (st : Nat) : Nat :=
  (List.range 32).foldl (fun r i =>
    let e := wrapTo 8 ((st % 256 : Int) + signedOf 3 (st / 2 ^ (8 + 3 * i)))
    let f := field st (104 + 24 * i) 24
    r + (field f 23 1 * 2 ^ 31 + e * 2 ^ 23 + field f 0 23) * 2 ^ (32 * i)) 0
def allEqual (w n : Nat) : Bool := (List.range (1024 / w)).all (fun i => elem n w i == elem n w 0)

/-- The encoding the controller gives a line, its stored bytes and its sectors, the first that fits in the order of 12 R276. -/
def packLine (opt : Bool) (n : Nat) : BitVec 4 × Nat × BitVec 4 :=
  if n = 0 then (1, 0, 0)
  else if allEqual 32 n then (2, elem n 32 0, 1)
  else if allEqual 64 n then (3, elem n 64 0, 1)
  else if bdFits 64 8 n then (6, bdStore 64 8 n, 2)
  else if bdFits 32 8 n then (4, bdStore 32 8 n, 3)
  else if bdFits 64 16 n then (7, bdStore 64 16 n, 3)
  else if bdFits 32 16 n then (5, bdStore 32 16 n, 5)
  else if bdFits 64 32 n then (8, bdStore 64 32 n, 5)
  else if opt && expFits n then (9, expStore n, 7)
  else (0, n, 8)

/-- The bytes an encoding stands for (12 R275, R276). -/
def unpackLine (enc : BitVec 4) (st : Nat) : Nat :=
  match enc.toNat with
  | 0 => st
  | 2 => (List.range 32).foldl (fun r i => r + st % 2 ^ 32 * 2 ^ (32 * i)) 0
  | 3 => (List.range 16).foldl (fun r i => r + st % 2 ^ 64 * 2 ^ (64 * i)) 0
  | 4 => bdLoad 32 8 st
  | 5 => bdLoad 32 16 st
  | 6 => bdLoad 64 8 st
  | 7 => bdLoad 64 16 st
  | 8 => bdLoad 64 32 st
  | 9 => expLoad st
  | _ => 0

/-! The size table, index blocks and overflow pool of a die (12 R277, R278). -/

def Die.ovfcnt (d : Die) : Nat := field d.cmpcfg 96 32
def Die.ovfbase (d : Die) : Nat := field d.cmpcfg 64 32 * 0x1_0000
def Die.idxcnt (d : Die) : Nat := field d.cmpcfg 48 16
def Die.idxbase (d : Die) : Nat := field d.cmpcfg 16 32 * 0x1_0000
def Die.resvMin (d : Die) : Nat := field d.cmpcfg 0 10

/-- Address of the size-table entry of the unit that holds a DRAM address (12 R277). -/
def sizeEntry (s : State) (dpa : Nat) : Nat :=
  let t := columnOf dpa
  let d := s.die (dieOf t)
  let i := 8 * (tileY t % 8) + tileX t % 8
  d.idxbase + 2048 * d.idxcnt + 16 * (49152 * i + dpa % columnSize / 0x8000)
/-- KIND of the unit that holds a DRAM address (12 R277). -/
def State.kindOf (s : State) (dpa : Nat) : Nat :=
  if !inDram dpa || (s.die (dieOf (columnOf dpa))).idxcnt = 0 then 0 else s.dram.num (sizeEntry s dpa) 1 % 4
/-- IDX of the unit. -/
def State.idxOf (s : State) (dpa : Nat) : Nat := s.dram.num (sizeEntry s dpa + 12) 4

/-- Free slots and index blocks as core `c` sees them, other cores' reservations taken off (12 R278, R280). -/
def Die.freeSlots (d : Die) (c : Option Nat) : Nat :=
  d.ovfcnt - 1 - d.slots.length - ((d.resv.filter (fun r => c ≠ some r.1)).map (fun r => r.2.1)).sum
def Die.freeBlocks (d : Die) (c : Option Nat) : Nat :=
  d.idxcnt - 1 - d.blocks.length - ((d.resv.filter (fun r => c ≠ some r.1)).map (fun r => r.2.2)).sum
/-- The lowest number from 1 that is not in use. -/
def lowestFree (used : List Nat) (n : Nat) : Option Nat := ((List.range n).map (· + 1)).find? (fun k => !used.contains k)

/-- The pool's state towards its reserve, with the notice on entering it (12 R280). -/
def Die.checkLow (d : Die) : Die :=
  let low := d.idxcnt ≠ 0 && d.ovfcnt - 1 - d.slots.length ≤ d.resvMin
  { d with low := low, notices := if low && !d.low then d.notices ++ [.poolLow] else d.notices }

/-- The stored bytes of line L of the home at H: home slot, then overflow slot (12 R277, R278). -/
def State.storedLine (s : State) (home l sect : Nat) : Nat :=
  let low := s.dram.num (home + 64 * l) 64
  if sect ≤ 4 then low
  else
    let d := s.die (dieOf (columnOf home))
    let slot := s.dram.num (d.idxbase + 2048 * s.idxOf home + 4 * l) 4
    low + s.dram.num (d.ovfbase + 64 * slot) 64 * 2 ^ 512

/-- What an access to a line answers: done, a wait for a slot or a block, or a refusal (12 R279 to R281). -/
inductive LineRes
  | done (s : State)
  | wait (s : State)
  | refuse (c : Cause)

/-- A write to a line waits behind an earlier one that waits there (12 R279). -/
def State.lineTaken (s : State) (line : Nat) (w : Writer) : Bool := (s.lineQ.find? (fun e => e.1 == line)).any (fun e => e.2 != w)
/-- A write waits at its line's controller, in the order of its arrival. -/
def State.joinLine (s : State) (line : Nat) (w : Writer) : State :=
  if s.lineQ.contains (line, w) then s else { s with lineQ := s.lineQ ++ [(line, w)] }
def State.leaveLine (s : State) (line : Nat) (w : Writer) : State := { s with lineQ := s.lineQ.filter (fun e => e != (line, w)) }
/-- A writer waits nowhere any more. -/
def State.leaveLines (s : State) (p : Writer → Bool) : State := { s with lineQ := s.lineQ.filter (fun e => !p e.2) }

/-- The 128 bytes of a line of a compressed page (12 R279). -/
def State.packedLine (s : State) (ap : Nat) : Nat :=
  let m := s.lineMeta (ap / 128)
  unpackLine m.enc (s.storedLine (homeOf ap) (ap % 0x1_0000 / 128) m.sect.toNat)

/-- Give line L of a home a slot if it has none. -/
def takeSlot (s : State) (home l : Nat) (core : Option Nat) : Option State :=
  let dn := dieOf (columnOf home)
  let d := s.die dn
  let needBlock := s.idxOf home = 0
  if d.freeSlots core = 0 || (needBlock && d.freeBlocks core = 0) then none
  else match lowestFree d.slots (d.ovfcnt - 1) with
    | none => none
    | some slot =>
      let (s, d) := if needBlock then
          match lowestFree d.blocks (d.idxcnt - 1) with
          | none => (s, d)
          | some b =>
            let dram := (s.dram.clear (d.idxbase + 2048 * b) 2048).setNum (sizeEntry s home + 12) 4 b
            let d := { d with blocks := b :: d.blocks }
            ({ s with dram := dram }, if d.blocks.length + 1 = d.idxcnt then { d with notices := d.notices ++ [.lastBlock] } else d)
        else (s, d)
      let d := { d with slots := slot :: d.slots }.checkLow
      let s := s.setDie dn d
      some { s with dram := s.dram.setNum (d.idxbase + 2048 * s.idxOf home + 4 * l) 4 slot }

/-- Free the slot of line L, and the index block with the page's last slot (12 R278). -/
def freeSlot (s : State) (home l : Nat) : State :=
  let dn := dieOf (columnOf home)
  let d := s.die dn
  let b := s.idxOf home
  let ent := d.idxbase + 2048 * b + 4 * l
  let slot := s.dram.num ent 4
  let dram := s.dram.setNum ent 4 0
  let empty := (List.range 512).all (fun k => dram.num (d.idxbase + 2048 * b + 4 * k) 4 == 0)
  let d := { d with slots := d.slots.erase slot, blocks := if empty then d.blocks.erase b else d.blocks }.checkLow
  { s with dram := if empty then dram.setNum (sizeEntry s home + 12) 4 0 else dram }.setDie dn d

/-- Bytes of a line laid over the line they go to. -/
def mergeBytes : List Byte → List (Option Byte) → List Byte
  | _ :: t, some c :: u => c :: mergeBytes t u
  | b :: t, Option.none :: u => b :: mergeBytes t u
  | bs, [] => bs
  | [], _ => []

/-- The memory that a place lies in, and the byte of it. -/
def Place.space : Place → Nat
  | .scratch _ => 0 | .acc _ => 1 | .dram _ => 2 | .packed _ => 3 | .remote pkg _ => 4 + pkg
def Place.off : Place → Nat | .scratch o => o | .acc o => o | .dram d => d | .packed a => a | .remote _ d => d
/-- The number of a line of device memory. -/
def Place.line : Place → Nat | .dram d => d / 128 | .packed a => a / 128 | .remote p d => (p * 2 ^ 48 + d) / 128 | _ => 0

/-- A write laid over the bytes read at a place. -/
def layWrite (pl : Place) (bs : List Byte) (g : SegWrite) : List Byte :=
  if g.place.space ≠ pl.space ∨ pl.off + bs.length ≤ g.place.off ∨ g.place.off + g.bytes.length ≤ pl.off then bs
  else bs.zipIdx.map (fun (b, i) =>
    if g.place.off ≤ pl.off + i then (g.bytes.getD (pl.off + i - g.place.off) none).getD b else b)
/-- Stores that are not yet written, the oldest first, laid over the bytes read at a place (05 R120, 07 R156). -/
def overlayStores (wr : List QStore) (pl : Place) (bs : List Byte) : List Byte :=
  wr.foldl (fun bs q => q.segs.foldl (layWrite pl) bs) bs

/-- The metadata after a write: the CRC over the address word the write carries, or 0 with NOVA (11 R248); the version stamped,
or the one that stands. -/
def stamp (m : LineMeta) (va gver : Option Nat) (bs : List Byte) : LineMeta :=
  { m with nova := va.isNone, crc := blockCrc (va.getD 0 / 128) bs,
           gver := match gver with | some v => BitVec.ofNat 16 v | none => m.gver }

/-- Write a line of a compressed page: read, merge, re-encode, as one action (12 R279). -/
def State.writePacked (s : State) (ap : Nat) (bytes : List (Option Byte)) (va gver core : Option Nat) (w : Writer) : LineRes :=
  let home := homeOf ap
  let l := ap % 0x1_0000 / 128
  let kind := s.kindOf home
  if kind = 0 then .refuse .compressedAccess
  else if s.lineTaken (ap / 128) w then .wait (s.joinLine (ap / 128) w) else
  let m := s.lineMeta (ap / 128)
  let bs := mergeBytes (leBytes 128 (s.packedLine ap)) bytes
  let (enc, st, sect) := packLine (kind = 2) (leNat bs)
  let s? := if 4 < sect.toNat && m.sect.toNat ≤ 4 then takeSlot s home l core
    else if sect.toNat ≤ 4 && 4 < m.sect.toNat then some (freeSlot s home l) else some s
  match s? with
  | none => .wait (s.joinLine (ap / 128) w)
  | some s =>
    let s := s.leaveLine (ap / 128) w
    let d := s.die (dieOf (columnOf home))
    let dram := s.dram.setNum (home + 64 * l) 64 (st % 2 ^ 512)
    let dram := if 4 < sect.toNat then
        dram.setNum (d.ovfbase + 64 * dram.num (d.idxbase + 2048 * s.idxOf home + 4 * l) 4) 64 (st / 2 ^ 512) else dram
    let e := sizeEntry s home
    let dram := dram.setNum (e + 8) 2 ((dram.num (e + 8) 2 + sect.toNat - m.sect.toNat) % 8192)
    let bad := if bytes.length = 128 && bytes.all Option.isSome then s.badDram.filter (fun l => l != ap / 128) else s.badDram
    .done ({ s with dram := dram, badDram := bad }.setMeta (ap / 128) { stamp m va gver bs with enc := enc, sect := sect })

/-- A write marks the operand spans it falls in of every matrix command that has begun and not completed, one that is saved with its
context among them; a version stamped on a block counts for all bytes of the block (09 R211). -/
def State.touch (s : State) (pl : Place) (n : Nat) (stamped : Bool) : State :=
  let lo := if stamped then pl.off / 128 * 128 else pl.off
  let hi := if stamped then (pl.off + n - 1) / 128 * 128 + 127 else pl.off + n - 1
  let hit (t : Nat) (m : MCmd) : Bool := (m.st == .running || m.st == .stopped || (m.st == .acquired && m.start != 0)) && (match pl with
    | .scratch o => o / 0x80_0000 == t && m.spans.any (fun sp => sp.scr && sp.lo ≤ (o % 0x80_0000 + n : Int) - 1 && (o % 0x80_0000 : Int) ≤ sp.hi)
    | .acc _ => false
    | _ => m.watch.any (fun w => w.1 == pl.space && w.2.1 ≤ hi && lo ≤ w.2.2))
  let mark (t : Nat) (m : MCmd) : MCmd := if hit t m then { m with marked := true } else m
  { s with tiles := s.tiles.map (fun (t, ti) =>
      if ti.mx.cmds.any (hit t) then (t, { ti with mx := { ti.mx with cmds := ti.mx.cmds.map (mark t) } }) else (t, ti)),
           saves := s.saves.map (fun v => { v with cmds := v.cmds.map (mark (tileOf v.core)) }) }

/-- Words of eight bytes that hold an error, after n bytes from o have been written: one that is written whole is mended (18 R375). -/
def mendWords (bad : List Nat) (o n : Nat) : List Nat := bad.filter (fun w => !(o ≤ w && w + 8 ≤ o + n))
/-- A PLAIN line whose ENC and SECT say otherwise, a line whose ENC and SECT do not go together (12 R274, R275). -/
def LineMeta.plain (m : LineMeta) : Bool := m.enc == 0 && m.sect == 8
def LineMeta.agrees (m : LineMeta) : Bool :=
  match m.enc.toNat with
  | 0 => m.sect == 8 | 1 => m.sect == 0 | 2 => m.sect == 1 | 3 => m.sect == 1 | 4 => m.sect == 3 | 5 => m.sect == 5
  | 6 => m.sect == 2 | 7 => m.sect == 3 | 8 => m.sect == 5 | 9 => m.sect == 7 | _ => false

/-- Write bytes of one line at a place outside the windows; `bytes` begin at the place and end in its line. What is written whole holds
no error any more. -/
def State.writePlace (s : State) (pl : Place) (bytes : List (Option Byte)) (va gver core : Option Nat) (w : Writer) : LineRes :=
  let s := s.touch pl bytes.length gver.isSome
  match pl with
  | .scratch o =>
    .done { s with scratch := s.scratch.merge o bytes, badScr := if bytes.all Option.isSome then mendWords s.badScr o bytes.length else s.badScr }
  | .acc o =>
    .done { s with accum := s.accum.merge o bytes, badAcc := if bytes.all Option.isSome then mendWords s.badAcc o bytes.length else s.badAcc }
  | .remote pkg dpa => .done { s with remote := s.remote.merge (pkg * 2 ^ 48 + dpa) bytes }
  | .packed ap => s.writePacked (ap / 128 * 128) (List.replicate (ap % 128) none ++ bytes) va gver core w
  | .dram dpa =>
    if inDram dpa then
      if s.kindOf dpa ≠ 0 then .refuse .compressedAccess
      else
        let line := dpa / 128
        let whole := bytes.length = 128 && bytes.all Option.isSome
        let s := { s with dram := s.dram.merge dpa bytes, badDram := if whole then s.badDram.filter (fun l => l != line) else s.badDram }
        let m := stamp (s.lineMeta line) va gver (s.dram.bytes (128 * line) 128)
        .done (s.setMeta line (if whole then { m with enc := 0, sect := 8 } else m))
    else .done { s with dram := s.dram.merge dpa bytes }

/-- n bytes at a place, within one line. -/
def State.readPlace (s : State) (pl : Place) (n : Nat) : List Byte :=
  match pl with
  | .scratch o => s.scratch.bytes o n
  | .acc o => s.accum.bytes o n
  | .dram dpa => s.dram.bytes dpa n
  | .remote pkg dpa => s.remote.bytes (pkg * 2 ^ 48 + dpa) n
  | .packed ap => ((leBytes 128 (s.packedLine (ap / 128 * 128))).drop (ap % 128)).take n

/-- An uncorrectable error in the bytes read (18 R375); metadata that do not fit the page count as one (12 R274). -/
def State.placeEcc (s : State) (pl : Place) (n : Nat) : Option Cause :=
  match pl with
  | .scratch o => if s.badScr.any (fun w => w < o + n && o < w + 8) then some .eccScratch else none
  | .acc o => if s.badAcc.any (fun w => w < o + n && o < w + 8) then some .eccAcc else none
  | .dram d => if s.badDram.contains (d / 128) || (inDram d && !(s.lineMeta (d / 128)).plain) then some .eccDram else none
  | .packed a => if s.badDram.contains (a / 128) || !(s.lineMeta (a / 128)).agrees then some .eccDram else none
  | .remote _ _ => none

/-- The refusal of a device access to a place: a column behind a router fence (17 R367), a home reached the wrong way (12 R281). -/
def State.kindRefusal (s : State) (pl : Place) : Option Cause :=
  match pl with
  | .dram dpa =>
    if !inDram dpa then none
    else if s.fencedR.contains (columnOf dpa) then some .destEclipsed
    else if s.kindOf dpa ≠ 0 then some .compressedAccess else none
  | .packed ap =>
    if s.fencedR.contains (columnOf (homeOf ap)) then some .destEclipsed
    else if s.kindOf (homeOf ap) = 0 then some .compressedAccess else none
  | _ => none

/-- Metadata of the line at a place of DRAM. -/
def State.placeMeta (s : State) (pl : Place) : Option LineMeta :=
  match pl with
  | .dram dpa => if inDram dpa then some (s.lineMeta (dpa / 128)) else none
  | .packed ap => some (s.lineMeta (ap / 128))
  | _ => none

/-- Unloaded cycles from issue to data (12 R268, 01 R19); host and other packages have no fixed time (notes/assumptions/2.md). -/
def columnTime (tile col : Nat) : Nat :=
  if tile = col then 85 else if hops tile col = 1 then 102 else if dieOf tile = dieOf col then 255 else 680
def State.accessTime (s : State) (tile : Nat) (pl : Place) : Nat :=
  match pl with
  | .dram dpa => if inDram dpa then columnTime tile (columnOf dpa) else 680
  | .packed ap =>
    let m := s.lineMeta (ap / 128)
    columnTime tile (columnOf (homeOf ap)) + (if m.enc.toNat ≤ 1 then 0 else 3) + (if 4 < m.sect.toNat then 255 else 0)
  | _ => 680

/-- The other tile in whose column a place lies. -/
def Place.otherColumn (tile : Nat) : Place → Option Nat
  | .dram d => if inDram d && columnOf d != tile then some (columnOf d) else none
  | .packed a => if columnOf (homeOf a) = tile then none else some (columnOf (homeOf a))
  | _ => none
/-- A load from places is on its way until a cycle (17 R367). -/
def airPut (air : List (Nat × Nat)) (tile now till : Nat) (pls : List Place) : List (Nat × Nat) :=
  match pls.filterMap (Place.otherColumn tile) with
  | [] => air
  | ts => air.filter (fun e => now < e.2) ++ ts.eraseDups.map (fun t => (t, till))

/-- Make a unit a home of KIND k (12 R277): 512 lines of ZERO encoding, SECTORS and IDX 0. -/
def State.makeHome (s : State) (dpa k : Nat) : State :=
  let home := dpa / 0x8000 * 0x8000
  let e := sizeEntry s home
  let s := { s with dram := ((s.dram.clear home 0x8000).setNum e 16 0).setNum e 1 k }
  let first := apertureOf home / 128
  { s with lines := s.lines.filter (fun e => e.1 < first || first + 512 ≤ e.1),
           lineQ := s.lineQ.filter (fun e => e.1 < first || first + 512 ≤ e.1) }

/-- Free a home's slots and index block, and make it no home (12 R277). The 256 lines of its unit keep metadata of a home until they are
written whole as PLAIN lines (12 R274; notes/assumptions/43.md, DEDUCED, unsafe). -/
def State.freeHome (s : State) (dpa : Nat) : State :=
  let home := dpa / 0x8000 * 0x8000
  let dn := dieOf (columnOf home)
  let d := s.die dn
  let b := s.idxOf home
  let used := if b = 0 then [] else (List.range 512).map (fun l => s.dram.num (d.idxbase + 2048 * b + 4 * l) 4)
  let d := { d with slots := d.slots.filter (fun k => !used.contains k), blocks := d.blocks.erase b }.checkLow
  let s := s.setDie dn d
  let e := sizeEntry s home
  let s := (List.range 256).foldl (fun s k => s.setMeta (home / 128 + k) { s.lineMeta (home / 128 + k) with enc := 1, sect := 0 }) s
  let first := apertureOf home / 128
  { s with dram := (s.dram.setNum (e + 12) 4 0).setNum e 1 0, lineQ := s.lineQ.filter (fun e => e.1 < first || first + 512 ≤ e.1) }

end Sys2Proof.Machine
end

