-- ==== Sys2Proof/Machine/Mmu.lean ====
section
/-! DEFINITION. Virtual addresses: windows, page tables, TLBs (12 R260 to R267; 07 R142, R145; 10 R217). -/

namespace Sys2Proof.Machine

def scrBase : Nat := 0x3F_FF00_0000_0000
def accBase : Nat := 0x3F_FE00_0000_0000
def inScratchWindow (va : Nat) : Bool := scrBase ≤ va && va < scrBase + 0x80_0000
def inAccWindow (va : Nat) : Bool := accBase ≤ va && va < accBase + 0x4000_0000
/-- The range that is never translated (12 R260). -/
def inReservedRange (va : Nat) : Bool := accBase ≤ va && va < 0x40_0000_0000_0000
/-- Bits [63:54] are all equal (12 R260). -/
def canonical (va : Nat) : Bool := field va 54 10 == 0 || field va 54 10 == 1023

/-- What an access does with the page (12 R265). -/
inductive Access | read | write | exec
  deriving DecidableEq, Repr

def permCause : Access → Cause | .read => .pagePermRead | .write => .pagePermWrite | .exec => .pagePermExec

/-! Page-table entries (12 R264). -/

def pteP (e : Nat) : Bool := bitOf e 0
def pteLarge (e : Nat) : Bool := bitOf e 6
def pteKind (e : Nat) : Nat := field e 62 2
def pteRem (e : Nat) : Bool := bitOf e 48
/-- ADDR in place: bits [47:15]. -/
def pteAddr (e : Nat) : Nat := field e 15 33 * 0x8000
/-- The entry is a leaf at its level. -/
def pteLeaf (level e : Nat) : Bool := level == 3 || pteLarge e

/-- A malformed entry (12 R264); an aperture address makes every leaf malformed (12 R282). -/
def malformed (level e : Nat) : Bool :=
  bitOf e 61 || field e 7 8 != 0 || bitOf e 1
  || (pteLarge e && level != 2)
  || (if pteLeaf level e then
        (if pteKind e = 1 ∨ pteKind e = 2 then pteLarge e || pteRem e
         else if pteLarge e then field e 15 14 != 0 else bitOf e 15)
        || (!pteRem e && !(inDram (pteAddr e) || inHost (pteAddr e))) || inAperture (pteAddr e)
      else pteKind e != 0 || pteRem e || field e 2 4 != 0 || bitOf e 15 || !inDram (pteAddr e))

/-- PGROOT's fields (12 R261). -/
def Tile.space (t : Tile) : Nat := field t.pgroot.toNat 48 8
def Tile.root (t : Tile) : Nat := field t.pgroot.toNat 16 32 * 0x1_0000

/-- The index into a level's table (12 R263). -/
def tableIndex (level va : Nat) : Nat := field va (67 - 13 * level - 12) 13

/-- The walk from a table: the leaf with its level, or the failure; and the cycles of its entry reads (12 R263, R268). An uncorrectable
error in an entry's line is found as the entry is read (12 R274, 18 R375). -/
def walkFrom (s : State) (tile va : Nat) : Nat → Nat → Nat → Except TransFail (Nat × Nat) × Nat
  | 0, level, _ => (.error ⟨.pageNotPresent, level, true⟩, 0)
  | fuel + 1, level, table =>
    if !inDram table then (.error ⟨.pageNotPresent, level, true⟩, 0) else
    let e := s.dram.num (table + 8 * tableIndex level va) 8
    let time := columnTime tile (columnOf table)
    if (s.placeEcc (.dram (table + 8 * tableIndex level va)) 8).isSome then (.error ⟨.eccDram, level, false⟩, time)
    else if !pteP e then (.error ⟨.pageNotPresent, level, false⟩, time)
    else if malformed level e then (.error ⟨.pageNotPresent, level, true⟩, time)
    else if pteLeaf level e then (.ok (e, level), time)
    else
      let (r, t) := walkFrom s tile va fuel (level + 1) (pteAddr e)
      (r, time + t)

/-- A leaf as a TLB keeps it. -/
def leafEntry (space va e now : Nat) : TlbEntry :=
  ⟨space, pteLarge e, if pteLarge e then field va 29 26 else field va 16 39, e, now⟩

def TlbEntry.covers (t : TlbEntry) (space va : Nat) : Bool :=
  t.space == space && (if t.large then t.vpn == field va 29 26 else t.vpn == field va 16 39)

/-- Rows 4 to 7 of 12 R265 for a leaf: poison, supervisor, the right, the path. -/
def leafCause (e : Nat) (acc : Access) (sup localOnly : Bool) : Option Cause :=
  if pteKind e = 3 then some .poisonConsumed
  else if bitOf e 5 && !sup then some (permCause acc)
  else if !(match acc with | .read => bitOf e 2 | .write => bitOf e 3 | .exec => bitOf e 4) then some (permCause acc)
  else if localOnly && (pteRem e || inHost (pteAddr e)) then some (permCause acc)
  else none

/-- Where a page puts an address (12 R263, R277). -/
def leafPlace (e va : Nat) : Place :=
  if pteKind e = 1 ∨ pteKind e = 2 then .packed (apertureOf (pteAddr e) + field va 0 16)
  else
    let pa := pteAddr e + (if pteLarge e then field va 0 29 else field va 0 16)
    if pteRem e then .remote (field e 49 12) pa else .dram pa

/-- A translation: the place or the failure, the entry used, whether it was walked for, and the walk's cycles. -/
structure Transl where
  res   : Except TransFail Place
  entry : Option TlbEntry
  walked : Bool
  time  : Nat

/-- Translate an address outside both windows against the entries a TLB holds. A kept entry that refuses the access is walked
for again once (12 R267). -/
def State.translate (s : State) (tile : Nat) (sup : Bool) (tlb : List TlbEntry) (va : Nat) (acc : Access) (localOnly : Bool) : Transl :=
  if !canonical va || inReservedRange va then ⟨.error ⟨.pageNotPresent, 0, false⟩, none, false, 0⟩ else
  let t := s.tile tile
  let fresh : Transl :=
    let (r, time) := walkFrom s tile va 3 1 t.root
    match r with
    | .error f => ⟨.error f, none, true, time⟩
    | .ok (e, level) =>
      match leafCause e acc sup localOnly with
      | some c => ⟨.error ⟨c, level, false⟩, none, true, time⟩
      | none => ⟨.ok (leafPlace e va), some (leafEntry t.space va e s.now), true, time⟩
  match tlb.find? (fun e => e.covers t.space va) with
  | some e =>
    match leafCause e.pte acc sup localOnly with
    | none => ⟨.ok (leafPlace e.pte va), some { e with used := s.now }, false, 0⟩
    | some _ => fresh
  | none => fresh

/-- The trap of a translation failure: its cause; the address, the level and a malformed entry in TRAPINFO0 and TRAPINFO1 (12 R265). No
rule states what they hold for an error of an entry's line (16 R341). -/
def TransFail.trap (f : TransFail) (va : Nat) : Cause × Nat × Nat :=
  if f.cause = .eccDram then (f.cause, 0, 0) else (f.cause, va, f.level + 4 * b2n f.malformed)

/-! The C stream's TLB (12 R267). -/

/-- Put an entry in: the least recently used makes room. -/
def tlbFill (tlb : List TlbEntry) (e : TlbEntry) : List TlbEntry :=
  let rest := tlb.filter (fun t => !(t.space == e.space && t.large == e.large && t.vpn == e.vpn))
  if rest.length < 64 then rest ++ [e]
  else
    let oldest := rest.foldl (fun m t => min m t.used) e.used
    match rest.find? (fun t => t.used == oldest) with
    | some o => rest.erase o ++ [e]
    | none => rest ++ [e]

/-! Stream TLBs (07 R145). -/

/-- One segment through a stream TLB: the translation, and the TLB after it with its prefetch of the adjacent page. The distance to the
end of the page counts from the segment's first byte: to the page's last byte upward, to its first downward (07 R145;
notes/assumptions/46.md, DESIGN CHOICE, unsafe). -/
def State.streamTranslate (s : State) (tile : Nat) (sup : Bool) (tlb : StreamTlb) (pref va : Nat) (acc : Access) (localOnly : Bool) :
    Transl × StreamTlb :=
  let held := tlb.cur.toList ++ tlb.nxt.toList
  let r := s.translate tile sup held va acc localOnly
  match r.entry with
  | none => (r, { tlb with prev := va })
  | some e =>
    let space := (s.tile tile).space
    let fromNxt := !r.walked && !(match tlb.cur with | some c => c.covers space va | none => false)
    let nxt := if fromNxt then none else tlb.nxt
    let up := tlb.prev ≤ va
    let size := if e.large then 2 ^ 29 else 2 ^ 16
    let dist := if up then size - 1 - va % size else va % size
    let nxt := if dist < pref && nxt.isNone then
        -- the page that begins at the end of this one, or the one that ends where this one begins
        if up then (s.translate tile sup [] (va - va % size + size) acc localOnly).entry
        else if va - va % size = 0 then none
        else (s.translate tile sup [] (va - va % size - 1) acc localOnly).entry
      else nxt
    (r, ⟨some e, nxt, va⟩)

/-! Where a scalar or segment access goes. -/

/-- Granules of a partition, SCRPART as a number (07 R142). -/
def partCount (part : Nat) : Nat := field part 8 8
def partFirst (part : Nat) : Nat := field part 0 7
/-- Bytes of the partition that programs may use: the staging granule of a tail is its last (15 R331). -/
def partBytes (part : Nat) (tail : Bool) : Nat := (partCount part - b2n (tail && partCount part != 0)) * 0x1_0000

/-- The context has a tail (15 R331). -/
def Core.hasTail (c : Core) : Bool := c.ringSize != 0 && partCount (c.sysReg 0x60).toNat != 0
/-- The byte of the tile's scratchpad behind n bytes at an address of the scratch window, inside the partition and outside its
staging granule (07 R142, 15 R331). -/
def Core.scratchAt (c : Core) (tile va n : Nat) : Option Nat :=
  let o := minus va scrBase
  let part := (c.sysReg 0x60).toNat
  if o + n ≤ partBytes part c.hasTail then some (tile * 0x80_0000 + partFirst part * 0x1_0000 + o) else none

end Sys2Proof.Machine
end

