-- ==== Sys2Proof/Machine/Wire.lean ====
section
/-! DEFINITION. Orbits as sets of cores, the schedule counter and the stall wire (12 R269, R270; 14 R299, R314, R315). -/

namespace Sys2Proof.Machine

/-- The value of a counter in a cycle. -/
def Counter.value (c : Counter) (now : Nat) : Nat := if c.run then c.base + (now - c.since) else c.base
def Counter.hold (c : Counter) (now : Nat) : Counter := ⟨c.value now, now, false⟩
def Counter.resume (c : Counter) (now : Nat) : Counter := ⟨c.value now, now, true⟩
/-- From `now` on the counter counts from `v`. -/
def Counter.from_ (v now : Nat) : Counter := ⟨v, now, true⟩

/-- SC (14 R314). -/
def State.sc (s : State) (core : Nat) : Nat := (s.core core).sc.value s.now
/-- WDCNT (16 R351). -/
def State.wdcnt (s : State) (core : Nat) : Nat := (s.core core).wd.value s.now

/-! A target: the layout of ORBITSET and TGT (14 R299). -/

def tgtOrb (t : Nat) : Bool := bitOf t 20
/-- The cores of a target in ascending number. -/
def tgtCores (t : Nat) : List Nat :=
  (List.range 1024).filter (fun n =>
    let x := tileX (tileOf n)
    let y := tileY (tileOf n)
    bitOf (field t 16 4) (n % 4) && field t 0 4 ≤ x && x ≤ field t 0 4 + field t 8 4
      && field t 4 4 ≤ y && y ≤ field t 4 4 + field t 12 4)

/-- ORBITSET (14 R299). -/
def Core.orbitset (c : Core) : Nat := (c.sysReg 0x63).toNat
def Core.aligned (c : Core) : Bool := bitOf c.orbitset 21
def Core.setAligned (c : Core) (b : Bool) : Core :=
  c.setSys 0x63 (BitVec.ofNat 64 (c.orbitset % 2 ^ 21 + b2n b * 2 ^ 21))
/-- The members of a core's aligned orbit; only the aligned have a wire (12 R269, 14 R315). -/
def State.orbit (s : State) (core : Nat) : List Nat :=
  if (s.core core).aligned then tgtCores (s.core core).orbitset else []

/-- WDCNT counts while the core has a context that is not saved, but not while its orbit is stopped by raises of other members
alone (16 R351). -/
def Core.wdRule (c : Core) (now : Nat) : Core :=
  let context := match c.mode with | .loading | .running | .trapped | .saving | .held => true | _ => false
  let runs := context && !(c.stopped && c.raises = 0)
  if runs = c.wd.run then c else { c with wd := if runs then c.wd.resume now else c.wd.hold now }

/-- No further engine command of the core starts: its orbit is stopped, or its context is being saved (12 R270; 09 R191; 11 R258). -/
def Core.engineHold (c : Core) : Bool := c.stopped || c.mode == .saving || c.mode == .restored

/-- The wire of an orbit is raised while any member's raise is outstanding. -/
def State.wireUp (s : State) (ms : List Nat) : Bool := ms.any (fun n => (s.core n).raises ≠ 0)

/-- A member raises the wire: every member stops 16 cycles later (12 R269). -/
def State.raise (s : State) (core : Nat) : State :=
  let ms := s.orbit core
  let up := s.wireUp ms
  let s := if ms = [] then s else s.modCore core (fun c => ({ c with raises := c.raises + 1 } : Core).wdRule s.now)
  if up then s else ms.foldl (fun s n => s.after 16 (.orbitStop n)) s

/-- A raise ends: when none is left, every member resumes 16 cycles later, and no sooner than the cycle after its stop. -/
def State.lower (s : State) (core : Nat) : State :=
  let c := s.core core
  if c.raises = 0 then s else
  let s := s.setCore core (({ c with raises := c.raises - 1 } : Core).wdRule s.now)
  let ms := s.orbit core
  if s.wireUp ms then s
  else ms.foldl (fun s n =>
    let stopsNow := s.agenda.any (fun e => e.1 == 2 * (s.now + 16) && e.2 == .orbitStop n)
    s.after (if stopsNow then 17 else 16) (.orbitResume n)) s

end Sys2Proof.Machine
end

