-- ==== Sys2Proof/Machine/Operands.lean ====
section
/-! DEFINITION. Operand forms: addresses of the scalar and queue words, values of the X operands (06 R129; 07 R148; 08 R159). -/

namespace Sys2Proof.Machine

/-- Bytes of a width code (03 R59). -/
def memSize : MemW → Nat | .b => 1 | .h => 2 | .w => 4 | .d => 8 | .bu => 1 | .hu => 2 | .wu => 4

/-- A loaded value as its width code extends it (06 R128). -/
def memExtend (m : MemW) (v : Nat) : Word :=
  match m with
  | .b => sextTo 8 (BitVec.ofNat 64 v)
  | .h => sextTo 16 (BitVec.ofNat 64 v)
  | .w => sextTo 32 (BitVec.ofNat 64 v)
  | _ => BitVec.ofNat 64 v

/-- The address of a scalar access: base plus displacement in units of the size, modulo 2^64 (06 R129, R135). -/
def scalarEa (base : Word) {n : Nat} (disp : BitVec n) (size : Nat) : Nat :=
  (base + disp.signExtend 64 * BitVec.ofNat 64 size).toNat

/-- The four segment addresses of a queue word (07 R148). -/
inductive SegForm
  /-- base plus displacement, 64 bytes apart -/
  | run (disp : Word)
  /-- one address for all four -/
  | same (disp : Word)
  | stride (by_ : Word)
  | index (by_ : Word)

def segAddrs (b : Word) (f : SegForm) : List Nat :=
  (List.range 4).map (fun k => match f with
    | .run d => (b + d + BitVec.ofNat 64 (64 * k)).toNat
    | .same d => (b + d).toNat
    | .stride st => (b + BitVec.ofNat 64 k * st).toNat
    | .index ix => (b + BitVec.ofNat 64 (field ix.toNat (16 * k) 16 * 64)).toNat)

/-- Physical number of a v register: v16 to v31 are renamed by RRB (05 R112). -/
def physV (rrb : Nat) (n : Reg) : Nat := if n.val < 16 then n.val else 16 + (n.val - 16 + 16 - rrb % 16) % 16
def Core.getV (c : Core) (n : Reg) : Vec := c.xr.v.getD (physV c.xo.rrb n) 0

/-- A value in every lane of width w: the x broadcast (08 R159). -/
def broadcast (w : Nat) (v : Nat) : Vec :=
  BitVec.ofNat 2048 ((List.range (2048 / w)).foldl (fun r i => r + v % 2 ^ w * 2 ^ (w * i)) 0)

/-- Lane i of width w (08 R158). -/
def lane (v : Vec) (w i : Nat) : Nat := v.toNat / 2 ^ (w * i) % 2 ^ w

/-- A vector from its lanes. -/
def ofLanes (w : Nat) (vs : List Nat) : Vec :=
  BitVec.ofNat 2048 (vs.foldr (fun v r => r * 2 ^ w + v % 2 ^ w) 0)

/-- Lane width of an element format (08 R158). -/
def fmtWidth : Fmt → Nat | .f32 => 32 | .i32 => 32 | .i8 => 8 | _ => 16

end Sys2Proof.Machine
end

