-- ==== Sys2Proof/Machine/Ops.lean ====
section
/-! DEFINITION. The named operations that the meanings of the C and A words share: interlock, register results, held operations,
scalar accesses (05 R99, R100; 06 R122, R129, R137). -/

namespace Sys2Proof.Machine

/-! The C stream. -/

/-- A register whose producer has not delivered (06 R122). -/
def busy (ready : List (Nat × Nat)) (now : Nat) (rs : List Reg) : Bool :=
  ready.any (fun e => now < e.2 && rs.any (fun r => r.val == e.1))
/-- The deliveries after a word writes d, `lat` cycles after its issue. -/
def delivers (ready : List (Nat × Nat)) (now : Nat) (d : Reg) (lat : Nat) : List (Nat × Nat) :=
  let rest := ready.filter (fun e => now < e.2 && e.1 != d.val)
  if lat ≤ 1 || d = 0 then rest else rest ++ [(d.val, now + lat)]

/-- A C word: with a false guard it only retires; while a source is undelivered it waits (05 R99, 06 R122); a source that holds an
uncorrectable error traps (18 R375). -/
def cWord (s : State) (g : Guard) (srcs : List Reg) (k : Core → Res) : Res :=
  if s.me.guard .c g = false then .next s.retire
  else if busy s.me.c.ready s.now srcs then .next s
  else if s.me.bad (srcs.map (fun r => .s r)) then s.trap .eccReg
  else k s.me

/-- A result of a C word, written at issue (05 R100). -/
def State.cWrite (s : State) (d : Reg) (v : Word) (lat : Nat) : State :=
  let c := s.me.setS d v
  s.setMe { c with c := { c.c with ready := delivers c.c.ready s.now d lat } }

/-- A C word that computes a register from registers (06 R123). -/
def cAlu (s : State) (g : Guard) (srcs : List Reg) (d : Reg) (lat : Nat) (f : Core → Word) : Res :=
  cWord s g srcs (fun c => .next (s.cWrite d (f c) lat).retire)

/-- A C word that computes a predicate (06 R126, R127). -/
def cPred (s : State) (g : Guard) (srcs : List Reg) (pd : N8) (f : Core → Bool) : Res :=
  cWord s g srcs (fun c => .next (s.setMe (c.setPred .c pd (f c))).retire)

/-- An operation held until commit (05 R100). -/
def State.hold (s : State) (h : Held) : State :=
  s.setMe { s.me with c := { s.me.c with held := s.me.c.held ++ [h] } }
def cHold (s : State) (g : Guard) (srcs : List Reg) (h : Core → Held) : Res :=
  cWord s g srcs (fun c => .next (s.hold (h c)).retire)

/-- An exit word with a true guard: a second one in the run traps (05 R97). -/
def State.takeExit (s : State) (e : ExitTo) : Res :=
  if s.pos.exit.isSome then s.trap .exitMulti
  else .next (s.setPos { s.pos with exit := some e }).retire

/-! The A stream. -/

/-- The issue qualifier of a pending prefix lets the word issue in this iteration (05 R111): a level that is not in use is at
its single iteration. -/
def iqHolds (o : Outer) : Bool :=
  match o.pos.pfx with
  | none => true
  | some p =>
    if h : 1 ≤ p.iq.val ∧ p.iq.val ≤ 6 then o.nlev < p.iq.val || o.idx[p.iq.val - 1] == 0
    else if h : 9 ≤ p.iq.val ∧ p.iq.val ≤ 14 then
      o.nlev < p.iq.val - 8 || o.idx[p.iq.val - 9] + 1 == o.cnt[p.iq.val - 9]
    else true

/-- An A word: with a false guard, or outside the iterations of its qualifier, it only retires (05 R99); its sources as a C word's. -/
def aWord (s : State) (g : Guard) (srcs : List Reg) (k : Core → Res) : Res :=
  if s.me.guard .a g = false ∨ iqHolds s.me.ao = false then .next s.retire
  else if busy s.me.aReady s.now srcs then .next s
  else if s.me.bad (srcs.map (fun r => .a r)) then s.trap .eccReg
  else k s.me

def State.aWrite (s : State) (d : Reg) (v : Word) (lat : Nat) : State :=
  let c := s.me.setA d v
  s.setMe { c with aReady := delivers c.aReady s.now d lat }

def aAlu (s : State) (g : Guard) (srcs : List Reg) (d : Reg) (lat : Nat) (f : Core → Word) : Res :=
  aWord s g srcs (fun c => .next (s.aWrite d (f c) lat).retire)

def aPred (s : State) (g : Guard) (srcs : List Reg) (pd : N8) (f : Core → Bool) : Res :=
  aWord s g srcs (fun c => .next (s.setMe (c.setPred .a pd (f c))).retire)

/-! Shapes (06 R132, R137). -/

/-- The bits of a mask from one shape, the others from another. -/
def layShape (mask v old : Shape) : Shape := (v &&& mask) ||| (old &&& ~~~mask)
/-- The shapes with a run's own writes laid over them. -/
def laidShapes (w : List (Nat × Shape × Shape)) (sh : Vector Shape 16) : Vector Shape 16 :=
  w.foldr (fun e v => v.setIfInBounds e.1 (layShape e.2.1 e.2.2 (v.getD e.1 0))) sh
/-- The C stream's view of a shape: the run's own writes over the committed register. -/
def Core.shapeC (c : Core) (n : N16) : Shape := (laidShapes c.c.shapes c.sh)[n]
/-- A write of the C run to the bits of a mask, held over the register until commit. -/
def Core.setShapeC (c : Core) (n : N16) (mask v : Shape) : Core :=
  { c with c := { c.c with shapes := (n.val, mask, v) :: c.c.shapes } }

/-! Translation for the C stream's word (12 R267; 06 R129). -/

/-- What a waiting word's translation answers. -/
inductive TrRes
  | wait (s : State)
  | ok (p : Place) (s : State)
  | fail (f : TransFail) (s : State)

/-- Through the C TLB: a hit answers at once, a miss walks and the word waits for it, raising the stall wire in an orbit. -/
def State.cTranslate (s : State) (va : Nat) (acc : Access) : TrRes :=
  let c := s.me
  match c.c.walk with
  | some w =>
    if !w.done then .wait s else
    let s' := s.setMe { c with c := { c.c with walk := none } }
    match (w.got.find? (fun e => e.1 == va)).map (fun e => e.2) with
    | some p => .ok p s'
    | none => .wait s'
  | none =>
    let r := s.translate s.myTile c.sup c.ctlb va acc false
    if r.walked then
      let got := match r.res with | .ok p => [(va, p)] | .error _ => []
      let fail := match r.res with | .ok _ => none | .error f => some (f.trap va)
      let w : Walk := ⟨got, fail, r.entry.toList, none, s.now + r.time, false⟩
      .wait (((s.setMe { c with c := { c.c with walk := some w } }).after r.time (.streamTlbWalkDone s.who.core 14)).raise
        s.who.core)
    else
      match r.res with
      | .ok p => .ok p (match r.entry with
          | some e => s.setMe { c with ctlb := tlbFill c.ctlb e }
          | none => s)
      | .error f => .fail f s

/-- The checks of a scalar access before translation (06 R129). -/
def scalarCheck (ea size : Nat) : Option Cause :=
  if ea % size ≠ 0 then some .align
  else if inScratchWindow ea then some .scratchBounds
  else if inAccWindow ea then some .accBounds
  else none

/-- A held store as a later load of its run meets it: its virtual address, where that address leads in the cycle of the load, its
bytes as a number (05 R100). -/
structure HeldStore where
  va   : Nat
  at_  : Option Place
  size : Nat
  val  : Nat
  deriving DecidableEq, Repr

/-- Address, size and value of a held store. -/
def Held.stores : Held → Option (Nat × Nat × Nat)
  | .st ea size v _ => some (ea, size, v)
  | .shst ea v => some (ea, 64, v.toNat)
  | _ => none
/-- The held stores of the run, the newest first. Their translations come with commit: where a store's address leads is looked up in
the load's cycle, at no cost of time and with no entry kept (notes/assumptions/37.md, DEDUCED, unsafe). -/
def State.heldStores (s : State) : List HeldStore :=
  let c := s.me
  (c.c.held.filterMap Held.stores).reverse.map (fun (ea, size, v) =>
    ⟨ea, (s.translate s.myTile c.sup c.ctlb ea .write false).res.toOption, size, v⟩)

/-- What a held store writes to byte k of a read at an address and its place: the two name one byte by virtual address, or lead to one
byte of memory. -/
def HeldStore.byteAt (h : HeldStore) (va : Nat) (pl : Place) (k : Nat) : Option Byte :=
  let byte (i : Nat) : Byte := BitVec.ofNat 8 (h.val / 256 ^ i)
  if h.va ≤ va + k ∧ va + k < h.va + h.size then some (byte (va + k - h.va))
  else match h.at_ with
    | some q => if q.space = pl.space ∧ q.off ≤ pl.off + k ∧ pl.off + k < q.off + h.size then some (byte (pl.off + k - q.off)) else none
    | none => none

/-- The newest held store to a byte stands over memory (05 R100, 06 R129). -/
def overlayHeld (held : List HeldStore) (va : Nat) (pl : Place) : Nat → List Byte → List Byte
  | _, [] => []
  | k, b :: t => ((held.findSome? (fun h => h.byteAt va pl k)).getD b) :: overlayHeld held va pl (k + 1) t

/-- A read of a C word at issue: checks, translation, the bytes with the stream's stores of committed runs and of this run over
them, and the access time (06 R129, R135). -/
def State.cRead (s : State) (ea n : Nat) (k : State → List Byte → Nat → Res) : Res :=
  match scalarCheck ea n with
  | some c => s.trap c
  | none =>
    match s.cTranslate ea .read with
    | .wait s => .next s
    | .fail f s => s.trap (f.trap ea).1 (f.trap ea).2.1 (f.trap ea).2.2
    | .ok p s =>
      match s.kindRefusal p <|> s.placeEcc p n with
      | some c => s.trap c
      | none =>
        let time := s.accessTime s.myTile p
        let c := s.me
        let bytes := overlayHeld s.heldStores ea p 0 (overlayStores c.cst p (s.readPlace p n))
        k (s.setMe { c with c := { c.c with air := airPut c.c.air s.myTile s.now (s.now + time) [p] } }) bytes time

end Sys2Proof.Machine
end

