-- ==== Sys2Proof/Machine/Scalar.lean ====
section
/-! DEFINITION. The C stream's register, immediate, compare and predicate words (06 R123 to R127; 03 R56). -/

namespace Sys2Proof.Machine

def execAdd (g : Guard) (d a b : Reg) (s : State) : Res := cAlu s g [a, b] d 1 (fun c => c.getS a + c.getS b)
def execSub (g : Guard) (d a b : Reg) (s : State) : Res := cAlu s g [a, b] d 1 (fun c => c.getS a - c.getS b)
def execMul (g : Guard) (d a b : Reg) (s : State) : Res := cAlu s g [a, b] d 3 (fun c => c.getS a * c.getS b)
def execMulh (g : Guard) (d a b : Reg) (s : State) : Res := cAlu s g [a, b] d 3 (fun c => mulhS (c.getS a) (c.getS b))
def execMulhu (g : Guard) (d a b : Reg) (s : State) : Res := cAlu s g [a, b] d 3 (fun c => mulhU (c.getS a) (c.getS b))
def execDiv (g : Guard) (d a b : Reg) (s : State) : Res := cAlu s g [a, b] d 66 (fun c => divS (c.getS a) (c.getS b))
def execDivu (g : Guard) (d a b : Reg) (s : State) : Res := cAlu s g [a, b] d 66 (fun c => divU (c.getS a) (c.getS b))
def execRem (g : Guard) (d a b : Reg) (s : State) : Res := cAlu s g [a, b] d 66 (fun c => remS (c.getS a) (c.getS b))
def execRemu (g : Guard) (d a b : Reg) (s : State) : Res := cAlu s g [a, b] d 66 (fun c => remU (c.getS a) (c.getS b))
def execAnd (g : Guard) (d a b : Reg) (s : State) : Res := cAlu s g [a, b] d 1 (fun c => c.getS a &&& c.getS b)
def execOr (g : Guard) (d a b : Reg) (s : State) : Res := cAlu s g [a, b] d 1 (fun c => c.getS a ||| c.getS b)
def execXor (g : Guard) (d a b : Reg) (s : State) : Res := cAlu s g [a, b] d 1 (fun c => c.getS a ^^^ c.getS b)
def execAndn (g : Guard) (d a b : Reg) (s : State) : Res := cAlu s g [a, b] d 1 (fun c => c.getS a &&& ~~~(c.getS b))
def execShl (g : Guard) (d a b : Reg) (s : State) : Res := cAlu s g [a, b] d 1 (fun c => c.getS a <<< shAmt (c.getS b))
def execShr (g : Guard) (d a b : Reg) (s : State) : Res := cAlu s g [a, b] d 1 (fun c => c.getS a >>> shAmt (c.getS b))
def execSra (g : Guard) (d a b : Reg) (s : State) : Res :=
  cAlu s g [a, b] d 1 (fun c => (c.getS a).sshiftRight (shAmt (c.getS b)))
def execMin (g : Guard) (d a b : Reg) (s : State) : Res := cAlu s g [a, b] d 1 (fun c => minS (c.getS a) (c.getS b))
def execMax (g : Guard) (d a b : Reg) (s : State) : Res := cAlu s g [a, b] d 1 (fun c => maxS (c.getS a) (c.getS b))
def execMinu (g : Guard) (d a b : Reg) (s : State) : Res := cAlu s g [a, b] d 1 (fun c => minU (c.getS a) (c.getS b))
def execMaxu (g : Guard) (d a b : Reg) (s : State) : Res := cAlu s g [a, b] d 1 (fun c => maxU (c.getS a) (c.getS b))
def execClz (g : Guard) (d a : Reg) (s : State) : Res := cAlu s g [a] d 1 (fun c => BitVec.ofNat 64 (clz (c.getS a)))
def execCtz (g : Guard) (d a : Reg) (s : State) : Res := cAlu s g [a] d 1 (fun c => BitVec.ofNat 64 (ctz (c.getS a)))
def execPopc (g : Guard) (d a : Reg) (s : State) : Res := cAlu s g [a] d 1 (fun c => BitVec.ofNat 64 (popc (c.getS a)))
def execSext (g : Guard) (d a : Reg) (wd : ExtW) (s : State) : Res :=
  cAlu s g [a] d 1 (fun c => sextTo (extBits wd) (c.getS a))
def execZext (g : Guard) (d a : Reg) (wd : ExtW) (s : State) : Res :=
  cAlu s g [a] d 1 (fun c => zextTo (extBits wd) (c.getS a))
def execSel (g : Guard) (p : N8) (d a b : Reg) (s : State) : Res :=
  cAlu s g [a, b] d 1 (fun c => if c.pred .c p then c.getS a else c.getS b)

def execAddi (g : Guard) (d a : Reg) (imm : BitVec 11) (s : State) : Res :=
  cAlu s g [a] d 1 (fun c => c.getS a + imm.signExtend 64)
def execAndi (g : Guard) (d a : Reg) (imm : BitVec 11) (s : State) : Res :=
  cAlu s g [a] d 1 (fun c => c.getS a &&& imm.signExtend 64)
def execOri (g : Guard) (d a : Reg) (imm : BitVec 11) (s : State) : Res :=
  cAlu s g [a] d 1 (fun c => c.getS a ||| imm.signExtend 64)
def execXori (g : Guard) (d a : Reg) (imm : BitVec 11) (s : State) : Res :=
  cAlu s g [a] d 1 (fun c => c.getS a ^^^ imm.signExtend 64)
def execShli (g : Guard) (d a : Reg) (sh : Fin 64) (s : State) : Res := cAlu s g [a] d 1 (fun c => c.getS a <<< sh.val)
def execShri (g : Guard) (d a : Reg) (sh : Fin 64) (s : State) : Res := cAlu s g [a] d 1 (fun c => c.getS a >>> sh.val)
def execSrai (g : Guard) (d a : Reg) (sh : Fin 64) (s : State) : Res :=
  cAlu s g [a] d 1 (fun c => (c.getS a).sshiftRight sh.val)
def execLi (g : Guard) (d : Reg) (imm : BitVec 16) (s : State) : Res := cAlu s g [] d 1 (fun _ => imm.signExtend 64)
/-- LUI reads its destination's low halfword (06 R125). -/
def luiValue (old : Word) (imm : BitVec 16) : Word := ((imm ++ 0#16).signExtend 64) ||| (old &&& 0xFFFF)
def execLui (g : Guard) (d : Reg) (imm : BitVec 16) (s : State) : Res := cAlu s g [d] d 1 (fun c => luiValue (c.getS d) imm)

/-- The guard of a short form: p0 (03 R56). -/
def always : Guard := ⟨false, 0⟩

def execAddiShort (d : Reg) (imm : BitVec 6) (s : State) : Res :=
  cAlu s always [d] d 1 (fun c => c.getS d + imm.signExtend 64)
def execLiShort (d : Reg) (imm : BitVec 6) (s : State) : Res := cAlu s always [] d 1 (fun _ => imm.signExtend 64)
def execAddShort (d b : Reg) (s : State) : Res := cAlu s always [d, b] d 1 (fun c => c.getS d + c.getS b)
def execSubShort (d b : Reg) (s : State) : Res := cAlu s always [d, b] d 1 (fun c => c.getS d - c.getS b)

def execCmp (g : Guard) (cc : Cond) (pd : N8) (a b : Reg) (s : State) : Res :=
  cPred s g [a, b] pd (fun c => condHolds cc (c.getS a) (c.getS b))
def execCmpi (g : Guard) (cc : Cond) (pd : N8) (a : Reg) (imm : BitVec 8) (s : State) : Res :=
  cPred s g [a] pd (fun c => condHolds cc (c.getS a) (imm.signExtend 64))
def execPand (g : Guard) (pd pa pb : N8) (s : State) : Res := cPred s g [] pd (fun c => c.pred .c pa && c.pred .c pb)
def execPor (g : Guard) (pd pa pb : N8) (s : State) : Res := cPred s g [] pd (fun c => c.pred .c pa || c.pred .c pb)
def execPxor (g : Guard) (pd pa pb : N8) (s : State) : Res := cPred s g [] pd (fun c => c.pred .c pa != c.pred .c pb)
def execPnot (g : Guard) (pd pa : N8) (s : State) : Res := cPred s g [] pd (fun c => !c.pred .c pa)
def execPmov (g : Guard) (pd pa : N8) (s : State) : Res := cPred s g [] pd (fun c => c.pred .c pa)

end Sys2Proof.Machine
end

