-- ==== Sys2Proof/Machine/Control.lean ====
section
/-! DEFINITION. Exits, calls, dispatch and joins of the three streams (05 R97, R98, R104 to R107, R113). -/

namespace Sys2Proof.Machine

/-- Where an offset leads: 0 is the end, another the word's own address plus the offset (05 R98, R104). -/
def exitTo (pc : Nat) {n : Nat} (off : BitVec n) : ExitTo :=
  if off = 0 then .finish else .block (wrapTo 64 (pc + off.toInt))

def cExit (s : State) (g : Guard) {n : Nat} (off : BitVec n) : Res := cWord s g [] (fun _ => s.takeExit (exitTo s.pos.pc off))
def aExit (s : State) (g : Guard) {n : Nat} (off : BitVec n) : Res := aWord s g [] (fun _ => s.takeExit (exitTo s.pos.pc off))

def execExitC (g : Guard) (off : BitVec 21) (s : State) : Res := cExit s g off
def execExitCShort (g : Guard) (off : BitVec 7) (s : State) : Res := cExit s g off
def execExitA (g : Guard) (off : BitVec 21) (s : State) : Res := aExit s g off
def execExitAShort (g : Guard) (off : BitVec 7) (s : State) : Res := aExit s g off

/-- EXITS: the register holds the halfword address, 0 included (05 R105). -/
def execExits (g : Guard) (a : Reg) (s : State) : Res := cWord s g [a] (fun c => s.takeExit (.block (c.getS a).toNat))

/-- A second exit of the run traps before the depth of the call stack is looked at (05 R97, R106). -/
def execCall (g : Guard) (off : BitVec 21) (s : State) : Res :=
  cWord s g [] (fun c =>
    if s.pos.exit.isNone && c.c.stack.length ≥ 16 then s.trap .callDepth
    else s.takeExit (.call (wrapTo 64 (s.pos.pc + off.toInt))))

def cRet (s : State) (g : Guard) : Res :=
  cWord s g [] (fun c => if s.pos.exit.isNone && c.c.stack = [] then s.trap .callDepth else s.takeExit .ret)
def execRet (g : Guard) (s : State) : Res := cRet s g
def execRetShort (s : State) : Res := cRet s always

/-- OVSWAP is an exit word whose target is the next overlay (14 R311). -/
def execOvswap (g : Guard) (a : Reg) (s : State) : Res := cWord s g [a] (fun c => s.takeExit (.overlay (c.getS a).toNat))

/-- Dispatches to a stream that the run holds. -/
def heldDisps (held : List Held) (toX : Bool) : Nat :=
  held.countP (fun h => match h with | .disp x _ _ _ => x == toX | _ => false)

/-- DISP with the arguments s1 to sNARG read at issue; a ninth to one stream traps (05 R107). -/
def cDisp (s : State) (g : Guard) (toX : Bool) (narg : Fin 5) (desc : Fin 64) (entry : BitVec 12) : Res :=
  let args : List Reg := (List.range narg.val).map (fun k => Fin.ofNat 32 (k + 1))
  cWord s g args (fun c =>
    if 8 ≤ heldDisps c.c.held toX then s.trap .dispOvercommit
    else .next (s.hold (.disp toX (entry.toNat * 4) desc.val (args.map c.getS))).retire)

def execDispA (g : Guard) (narg : Fin 5) (desc : Fin 64) (entry : BitVec 12) (s : State) : Res := cDisp s g false narg desc entry
def execDispX (g : Guard) (narg : Fin 5) (desc : Fin 64) (entry : BitVec 12) (s : State) : Res := cDisp s g true narg desc entry

/-- The X stream of a core is idle: no dispatch waits or runs, and every word it issued has completed, row accesses that wait for
a plane too (05 R113, R120). -/
def State.xIdle (s : State) (core : Nat) : Bool :=
  let c := s.core core
  c.xo.dq.isEmpty && !c.xo.active && c.xo.pos.phase == .idle && c.xr.flights.isEmpty
    && (s.tile (tileOf core)).ports.all (fun q => q.core != core) && !s.unsent core (fun m => m == .vqnt)
/-- The A stream of a core is idle: a register result still to be delivered has not completed (05 R113, 06 R122). -/
def State.aIdle (s : State) (core : Nat) : Bool :=
  let c := s.core core
  c.ao.dq.isEmpty && !c.ao.active && c.ao.pos.phase == .idle && c.q.wr.isEmpty
    && c.q.ld.toList.all (fun l => l.all (fun e => e.ready.isSome)) && c.aReady.all (fun e => e.2 ≤ s.now)
    && !s.unsent core (fun m => m == .queue)

/-- DJOIN waits at issue until every named stream is idle (05 R113). -/
def execDjoin (g : Guard) (x a : Bool) (s : State) : Res :=
  cWord s g [] (fun _ => if (x && !s.xIdle s.who.core) || (a && !s.aIdle s.who.core) then .next s
    else .next (s.joinMerges s.who.core x a).retire)

/-- A word of one issue cycle with no other effect (16 R348, 05 R119). -/
def execNop (g : Guard) (s : State) : Res := cWord s g [] (fun _ => .next s.retire)
def execNop16 (s : State) : Res := .next s.retire

end Sys2Proof.Machine
end

