-- ==== Sys2Proof/Machine/Blocks.lean ====
section
/-! DEFINITION. Block headers, prefixes, the ends of runs, dispatch and the nested-loop sequencer (03 R44 to R54, R66;
05 R96 to R98, R108 to R112). -/

namespace Sys2Proof.Machine

/-! Traps of an encoding (03 R66). -/

def fateCause : Fate → Cause
  | .blockHeader => .blockHeader | .illegalWord => .illegalWord | .reservedField => .reservedField
  | .queueDirection => .queueDirection

/-- A decode trap at the word the stream stands at (03 R66). -/
def State.fateTrap (s : State) (f : Fate) : Res := s.encTrap (fateCause f)

/-! Headers. -/

/-- Halfwords that `n` words from an address take, of which the first `lit` are slots of a literal: KATCHK's literal counts as
two words and is not decoded (03 R46, 08 R184). Where LEN ends inside a literal, only its words within LEN count
(notes/assumptions/44.md, DESIGN CHOICE, unsafe). -/
def spanOf (c : Core) (st : Stream) : Nat → Nat → Nat → Nat
  | 0, _, _ => 0
  | n + 1, lit, pc =>
    let h := (Map.get 0 (c.imem st) pc).toNat
    if 0 < lit then 2 + spanOf c st n (lit - 1) (pc + 2)
    else if h < 2 ^ 15 then 1 + spanOf c st n 0 (pc + 1)
    else if st = .x && field h 9 6 = 0x3C then 2 + spanOf c st n 2 (pc + 2)
    else 2 + spanOf c st n 0 (pc + 2)

/-- The header at the entry address of a block, or inside one (03 R46, R47). At an entry it starts a run of the block; the C
stream keeps the values a rollback restores (05 R102). -/
def execBlockHeader (rot atom : Bool) (len : Fin 128) (rep : BitVec 16) (s : State) : Res :=
  let p := s.pos
  let st := s.who.st
  let c := s.me
  if p.phase ≠ .header then s.fateTrap .blockHeader
  else if len = 0 || (st = .c && rot) || atom != (st == .c) || imemSize st < p.pc + 2 + spanOf c st len.val 0 (p.pc + 2) then
    (s.setPos { p with blk := p.pc }).fateTrap .blockHeader
  else
    let p := { p with phase := .words, blk := p.pc, pc := p.pc + 2, left := len.val, rep := rep.toNat, rot := rot,
                      len := len.val, exit := none, last := s.now }
    let c := c.countIssue st
    .next (s.setMe ((match st with | .c => c.startRun | _ => c).setPos st p))

/-! Prefixes. -/

/-- A prefix against the word after it; the pair then issues as one instruction in this cycle (03 R54, 05 R118). -/
def prefixWord (s : State) (p : Pfx) : Res :=
  let q := s.pos
  let hw := if q.left ≤ 1 then [] else s.me.halfwords s.who.st (q.pc + 1) 6
  match pairFate s.who.st p hw with
  | .misplaced => s.trap .illegalWord q.pc (pfxBits p * 2 ^ 32 + hw.headD 0)
  | .fate f => s.trap (fateCause f) q.pc (pfxBits p * 2 ^ 32 + wordBits hw)
  | .ok => .next { s.setPos { q with pc := q.pc + 1, left := q.left - 1, pfx := some p, pfxAt := q.pc } with turn := some s.who }

def execPfx (rnd msel : N8) (iq : N16) (sat : Bool) (s : State) : Res := prefixWord s ⟨none, rnd, msel, iq, sat⟩
def execPfxGuarded (g : Guard) (rnd : N8) (iq : N16) (s : State) : Res := prefixWord s ⟨some g, rnd, 0, iq, false⟩

/-! The sequencer (05 R108 to R112). -/

/-- Target and increment of a stride word (05 R108). -/
def strideTarget (w : Nat) : Nat := field w 24 8
def strideInc (w : Nat) : Int := signedOf 24 w

/-- Add to a stride's target, modulo 2^64. A register whose result is still to be delivered takes that result afterwards
(05 R110), so the addition is lost. A register that holds an uncorrectable error still holds it afterwards: the word that reads it
consumes the error (18 R375; notes/assumptions/49.md, DESIGN CHOICE, unsafe). -/
def addStride (c : Core) (st : Stream) (now w : Nat) (times : Int) : Core :=
  let t := strideTarget w
  let d := BitVec.ofInt 64 (strideInc w * times)
  if t = 0 then c
  else match st with
    | .x => let r : N16 := Fin.ofNat 16 t; { c.setX r (c.getX r + d) with ecc := c.ecc }
    | _ =>
      if t < 32 then
        let r : Reg := Fin.ofNat 32 t
        if busy c.aReady now [r] then c else { c.setA r (c.getA r + d) with ecc := c.ecc }
      else
        let n : N16 := Fin.ofNat 16 (t - 32)
        let sh := c.sh[n]
        { c with sh := c.sh.set n (BitVec.ofNat 512 (sh.toNat / 2 ^ 64 * 2 ^ 64 + (BitVec.ofNat 64 sh.toNat + d).toNat)) }

def Core.outer (c : Core) (st : Stream) : Outer := match st with | .x => c.xo | _ => c.ao
def Core.setOuter (c : Core) (st : Stream) (o : Outer) : Core := match st with | .x => { c with xo := o } | _ => { c with ao := o }

/-- The four strides of a level, from 0. -/
def levelStrides (o : Outer) (l : Nat) : List Nat := (List.range 4).map (fun i => o.str.getD (4 * l + i) 0)

/-- The advance at the end of a body iteration: true when another iteration begins (05 R110). Levels count from 0 here. -/
def advance (c : Core) (st : Stream) (now : Nat) : Nat → Nat → Core × Bool
  | 0, _ => (c, false)
  | fuel + 1, l =>
    let o := c.outer st
    if o.nlev ≤ l then (c, false) else
    let i := o.idx.getD l 0 + 1
    let n := o.cnt.getD l 0
    if i < n then
      let c := (levelStrides o l).foldl (fun c w => addStride c st now w 1) c
      let o := c.outer st
      (c.setOuter st { o with idx := o.idx.setIfInBounds l i }, true)
    else
      let c := (levelStrides o l).foldl (fun c w => addStride c st now w (-(n - 1 : Int))) c
      let o := c.outer st
      advance (c.setOuter st { o with idx := o.idx.setIfInBounds l 0 }) st now fuel (l + 1)

/-- Rotation at the end of a run of a block with ROT (05 R112); `fresh`: the next run begins a new level-1 loop. -/
def rotate (o : Outer) (st : Stream) (fresh : Bool) : Outer :=
  -- a level above NLEV counts as one iteration (05 R109)
  let q : Bool := o.idx[0] < (if o.nlev = 0 then 1 else o.cnt[0] - o.drain)
  let p := if fresh then (((o.p.set 4 true).set 5 false).set 6 false).set 7 false
    else (((o.p.set 7 o.p[6]).set 6 o.p[5]).set 5 o.p[4]).set 4 q
  { o with p := p, rrb := if st = .x then (o.rrb + 1) % 16 else o.rrb }

/-- Enter a block at an address: its header is next (05 R98). -/
def Pos.enter (p : Pos) (pc : Nat) : Pos := { p with phase := .header, pc := pc, blk := pc, run := 0, left := 0, exit := none }
/-- Another run of the same block: no header cycle when it fits the loop buffer (05 R96). -/
def Pos.again (p : Pos) (run : Nat) : Pos :=
  { p with phase := if p.len ≤ 64 then .words else .header, pc := if p.len ≤ 64 then p.blk + 2 else p.blk, run := run,
           left := if p.len ≤ 64 then p.len else 0, exit := none }

/-- The end of a run of an A or X block: one exit fires, or the block runs again, or the sequencer advances (05 R97, R110). The
strides are added in the cycle in which the run's last word issues: 05 R110 says only that it is before the next first word, and
06 R137 orders it before a C commit of the same cycle (notes/assumptions/35.md, DESIGN CHOICE, unsafe). -/
def outerRunEnd (c : Core) (st : Stream) (now : Nat) : Core :=
  let p := (c.outer st).pos
  let rot (c : Core) (fresh : Bool) : Core := if p.rot then c.setOuter st (rotate (c.outer st) st fresh) else c
  match p.exit with
  | some .finish =>
    let (c, more) := advance c st now 6 0
    let o := c.outer st
    if more then
      let c := rot c (o.idx[0] == 0)
      let o := c.outer st
      let p' := if p.blk = o.entry then p.again 0 else p.enter o.entry
      c.setOuter st { o with pos := p' }
    else
      let c := rot c true
      let o := c.outer st
      c.setOuter st { o with active := false, pos := { p with phase := .idle, exit := none } }
  | some (.block t) => (rot c false).setPos st (p.enter t)
  | _ =>
    let c := rot c false
    if p.run < p.rep then c.setPos st (p.again (p.run + 1)) else c.setPos st (p.enter p.pc)

/-! Dispatch (05 R108, R109). -/

/-- A dispatch of this stream has a reserved target (05 R108). -/
def badTarget (st : Stream) (w : Nat) : Bool :=
  let t := strideTarget w
  match st with | .x => 16 ≤ t | _ => 48 ≤ t

/-- The outer stream after it takes the oldest entry of its dispatch queue; none where the descriptor is refused (05 R109). LSTR
holds the 24 stride words of the descriptor, those of unused levels too (05 R114); a dispatch without a descriptor leaves 0 there
(notes/assumptions/34.md, DESIGN CHOICE, unsafe). A result of an earlier A word that is still to be delivered lands over the
argument (05 R117). -/
def startDispatch (c : Core) (st : Stream) (now : Nat) (e : Disp) : Option Core :=
  let o := c.outer st
  let a := 128 * e.desc
  let ctl := c.desc.num a 8
  let nlev := if e.desc = 63 then 0 else field ctl 0 3
  let drain := if e.desc = 63 then 0 else field ctl 3 2
  let count (l : Nat) : Nat := c.desc.num (a + 8 + 20 * l) 4
  let str (k : Nat) : Nat := c.desc.num (a + 12 + 20 * (k / 4) + 4 * (k % 4)) 4
  let used := (List.range nlev)
  if e.desc ≠ 63 && (field ctl 5 59 ≠ 0 || 6 < nlev || used.any (fun l => count l == 0)
      || (1 ≤ nlev && 2 ^ 32 - 1 < count 0 + drain)
      || used.any (fun l => (List.range 4).any (fun i => badTarget st (str (4 * l + i))))) then none
  else
    let cnt : Vector Nat 6 := Vector.ofFn (fun l =>
      if l.val < nlev then count l.val + (if l.val = 0 then drain else 0) else 1)
    let strs : Vector Nat 24 := Vector.ofFn (fun k => if e.desc = 63 then 0 else str k.val)
    let o := { o with dq := o.dq.drop 1, active := true, entry := e.entry, rrb := 0, nlev := nlev, drain := drain,
                      idx := Vector.replicate 6 0, cnt := cnt, str := strs,
                      p := (((o.p.set 4 true).set 5 false).set 6 false).set 7 false, pos := o.pos.enter e.entry }
    let c := c.setOuter st o
    -- a QSCALE that may still be refused gives the entry back
    let c := match st with
      | .x => { c with scales := c.scales.map (fun v => { v with dispTaken := v.dispTaken ++ [e] }) }
      | _ => c
    some (e.args.zipIdx.foldl (fun c (v, k) => match st with
      | .x => c.setX (Fin.ofNat 16 (k + 1)) v
      | _ => let r : Reg := Fin.ofNat 32 (k + 1); if busy c.aReady now [r] then c else c.setA r v) c)

/-- DISPATCH_START: an idle outer stream takes its oldest entry and issues the header of the block in the same cycle
(05 R101, R109). -/
def execDispatchStart (s : State) : Res :=
  match s.ev with
  | .dispatchStart ag =>
    let c := s.core ag.core
    let o := c.outer ag.st
    match o.dq with
    | e :: _ =>
      if o.active || s.now < e.at_ || ag.st = .c then .next s
      else match startDispatch c ag.st s.now e with
        | some c => .next { s.setCore ag.core c with turn := some ag }
        | none => .next ((s.setCore ag.core (c.setPos ag.st { o.pos with pc := e.entry, pfx := none })).trapOf ag .reservedField 0 0)
    | [] => .next s
  | _ => .next s

end Sys2Proof.Machine
end

