-- ==== Sys2Proof/Machine/Address.lean ====
section
/-! DEFINITION. The A stream's register, immediate and compare words (06 R123, R125, R126; 03 R56). -/

namespace Sys2Proof.Machine

def execAadd (g : Guard) (d a b : Reg) (s : State) : Res := aAlu s g [a, b] d 1 (fun c => c.getA a + c.getA b)
def execAsub (g : Guard) (d a b : Reg) (s : State) : Res := aAlu s g [a, b] d 1 (fun c => c.getA a - c.getA b)
def execAmul (g : Guard) (d a b : Reg) (s : State) : Res := aAlu s g [a, b] d 3 (fun c => c.getA a * c.getA b)
def execAand (g : Guard) (d a b : Reg) (s : State) : Res := aAlu s g [a, b] d 1 (fun c => c.getA a &&& c.getA b)
def execAor (g : Guard) (d a b : Reg) (s : State) : Res := aAlu s g [a, b] d 1 (fun c => c.getA a ||| c.getA b)
def execAmin (g : Guard) (d a b : Reg) (s : State) : Res := aAlu s g [a, b] d 1 (fun c => minS (c.getA a) (c.getA b))
def execAmax (g : Guard) (d a b : Reg) (s : State) : Res := aAlu s g [a, b] d 1 (fun c => maxS (c.getA a) (c.getA b))
def execAaddi (g : Guard) (d a : Reg) (imm : BitVec 11) (s : State) : Res :=
  aAlu s g [a] d 1 (fun c => c.getA a + imm.signExtend 64)
def execAshli (g : Guard) (d a : Reg) (sh : Fin 64) (s : State) : Res := aAlu s g [a] d 1 (fun c => c.getA a <<< sh.val)
def execAshri (g : Guard) (d a : Reg) (sh : Fin 64) (s : State) : Res := aAlu s g [a] d 1 (fun c => c.getA a >>> sh.val)
def execAli (g : Guard) (d : Reg) (imm : BitVec 16) (s : State) : Res := aAlu s g [] d 1 (fun _ => imm.signExtend 64)
def execAlui (g : Guard) (d : Reg) (imm : BitVec 16) (s : State) : Res := aAlu s g [d] d 1 (fun c => luiValue (c.getA d) imm)
def execAaddiShort (d : Reg) (imm : BitVec 6) (s : State) : Res :=
  aAlu s always [d] d 1 (fun c => c.getA d + imm.signExtend 64)
def execAliShort (d : Reg) (imm : BitVec 6) (s : State) : Res := aAlu s always [] d 1 (fun _ => imm.signExtend 64)
def execAcmp (g : Guard) (cc : Cond) (pd : N8) (a b : Reg) (s : State) : Res :=
  aPred s g [a, b] pd (fun c => condHolds cc (c.getA a) (c.getA b))
def execAcmpi (g : Guard) (cc : Cond) (pd : N8) (a : Reg) (imm : BitVec 8) (s : State) : Res :=
  aPred s g [a] pd (fun c => condHolds cc (c.getA a) (imm.signExtend 64))

end Sys2Proof.Machine
end

