-- ==== Sys2Proof/Machine/Formats.lean ====
section
/-! DEFINITION. Number formats: what a code stands for, exact arithmetic, rounding (04 R67 to R91; 08 R173, R174). -/

namespace Sys2Proof.Machine

/-- What a floating code stands for: NaN, an infinity, or the sign and the magnitude m × 2^e. -/
inductive Num
  | nan
  | inf (neg : Bool)
  | fin (neg : Bool) (m : Nat) (e : Int)
  deriving DecidableEq, Repr

/-- Exponent and fraction bits of a binary format; its bias is 2^(E-1) - 1 (04 R69). -/
structure Bin where
  ebits : Nat
  fbits : Nat
  deriving DecidableEq, Repr

def fp32 : Bin := ⟨8, 23⟩
def fp16 : Bin := ⟨5, 10⟩
def bf16 : Bin := ⟨8, 7⟩
def e5m2 : Bin := ⟨5, 2⟩
def n24 : Bin := ⟨8, 15⟩

def Bin.width (b : Bin) : Nat := 1 + b.ebits + b.fbits
def Bin.bias (b : Bin) : Int := 2 ^ (b.ebits - 1) - 1
/-- Exponent of the spacing of the subnormals. -/
def Bin.qmin (b : Bin) : Int := 1 - b.bias - b.fbits
/-- The magnitude code of infinity; the largest finite is one below. -/
def Bin.infCode (b : Bin) : Nat := (2 ^ b.ebits - 1) * 2 ^ b.fbits
/-- The canonical NaN (04 R70). -/
def Bin.nanCode (b : Bin) : Nat := b.infCode + 2 ^ (b.fbits - 1)
def Bin.signBit (b : Bin) (neg : Bool) : Nat := b2n neg * 2 ^ (b.ebits + b.fbits)

/-- Decoding of the binary formats (04 R68). -/
def Bin.decode (b : Bin) (c : Nat) : Num :=
  let e := field c b.fbits b.ebits
  let f := field c 0 b.fbits
  let neg := bitOf c (b.ebits + b.fbits)
  if e = 2 ^ b.ebits - 1 then (if f = 0 then .inf neg else .nan)
  else if e = 0 then .fin neg f b.qmin
  else .fin neg (2 ^ b.fbits + f) (b.qmin + e - 1)

/-- Magnitude of a T8 payload 1 to 126 in units of 2^-26 (04 R72). -/
def t8Mag (p : Nat) : Nat :=
  if p = 0 then 0 else
  let k := 6 - Nat.log2 p
  let r := 6 - k
  let low := p % 2 ^ r
  let (j, n, d) := if 2 ≤ r then (low / 2 ^ (r - 2), 2 ^ (r - 2) + low % 2 ^ (r - 2), r - 2) else (low, 1, 0)
  n * 2 ^ (j + 24 - 4 * k - d)

def t8Decode (c : Nat) : Num :=
  let p := c % 128
  if p = 127 then .nan else .fin (bitOf c 7) (t8Mag p) (-26)

/-- An integer as a number. -/
def Num.ofInt (z : Int) : Num := .fin (decide (z < 0)) z.natAbs 0

/-! Exact arithmetic. -/

def Num.isNan : Num → Bool | .nan => true | _ => false
def Num.neg : Num → Num
  | .nan => .nan
  | .inf s => .inf (!s)
  | .fin s m e => .fin (!s) m e

def Num.mul : Num → Num → Num
  | .nan, _ => .nan
  | _, .nan => .nan
  | .inf s, .inf t => .inf (s != t)
  | .inf s, .fin t m _ => if m = 0 then .nan else .inf (s != t)
  | .fin s m _, .inf t => if m = 0 then .nan else .inf (s != t)
  | .fin s m e, .fin t n f => .fin (s != t) (m * n) (e + f)

/-- An exact zero sum of operands of opposite sign is +0, and -0 under RDN (08 R164). -/
def Num.add (rdn : Bool) : Num → Num → Num
  | .nan, _ => .nan
  | _, .nan => .nan
  | .inf s, .inf t => if s = t then .inf s else .nan
  | .inf s, .fin _ _ _ => .inf s
  | .fin _ _ _, .inf t => .inf t
  | .fin s m e, .fin t n f =>
    let q := min e f
    let a : Nat := m * 2 ^ (e - q).toNat
    let b : Nat := n * 2 ^ (f - q).toNat
    if s = t then .fin s (a + b) q
    else if a = b then .fin rdn 0 q
    else if b < a then .fin s (a - b) q else .fin t (b - a) q

/-- Times a power of two. -/
def Num.scale (k : Int) : Num → Num
  | .fin s m e => .fin s m (e + k)
  | x => x

/-! Rounding (04 R78 to R83). -/

/-- A rounding mode with the 32 bits drawn for the element. -/
structure Rounding where
  mode : Rnd
  u    : Nat
  sat  : Bool

def rne : Rounding := ⟨.rne, 0, false⟩

/-- Between two neighbours of a magnitude: r/d is how far it lies above the lower one, whose code is odd or even. True takes the
upper. `tiny`: the lower one is zero, so 04 R83 governs. -/
def Rounding.up (m : Rounding) (neg odd tiny : Bool) (r d : Nat) : Bool :=
  if r = 0 then false else
  match m.mode with
  | .rne => d < 2 * r || (2 * r == d && odd)
  | .rtz => false
  | .rdn => neg
  | .rup => !neg
  | .rna => d ≤ 2 * r
  | .sr => if tiny || !neg then m.u < 2 ^ 32 * r / d else !(m.u < 2 ^ 32 * (d - r) / d : Bool)

/-- m × 2^e in whole units of 2^q, with the rest as a fraction of a unit. -/
def units (m : Nat) (e q : Int) : Nat × Nat × Nat :=
  if q ≤ e then (m * 2 ^ (e - q).toNat, 0, 1)
  else
    let d := 2 ^ (q - e).toNat
    (m / d, m % d, d)

/-- The code of a number in a binary format (04 R78, R79, R81 to R83). -/
def Bin.round (b : Bin) (rm : Rounding) : Num → Nat
  | .nan => b.nanCode
  | .inf s => b.signBit s + b.infCode
  | .fin s m e =>
    if m = 0 then b.signBit s else
    let q := max b.qmin ((Nat.log2 m : Int) + e - b.fbits)
    let (n, r, d) := units m e q
    let c := (q - b.qmin).toNat * 2 ^ b.fbits + n
    let c :=
      if b.infCode ≤ c then
        (match rm.mode with
         | .rtz => b.infCode - 1
         | .rup => if s then b.infCode - 1 else b.infCode
         | .rdn => if s then b.infCode else b.infCode - 1
         | _ => b.infCode)
      else c + b2n (rm.up s (n % 2 == 1) (c == 0) r d)
    b.signBit s + (if c = b.infCode && rm.sat then b.infCode - 1 else c)

/-- The greatest payload whose value is at most num/den in units of 2^-26. -/
def t8Floor (num den : Nat) : Nat :=
  [64, 32, 16, 8, 4, 2, 1].foldl (fun p b => if p + b ≤ 126 && t8Mag (p + b) * den ≤ num then p + b else p) 0

/-- The T8 code of a number: finite overflow saturates, infinities are NaN (04 R79, R80). -/
def t8Round (rm : Rounding) : Num → Nat
  | .nan => 127
  | .inf _ => 127
  | .fin s m e =>
    let num := m * 2 ^ (e + 26).toNat
    let den := 2 ^ (-(e + 26)).toNat
    let p := t8Floor num den
    let p := if p = 126 then p else
      p + b2n (rm.up s (p % 2 == 1) (p == 0) (num - t8Mag p * den) ((t8Mag (p + 1) - t8Mag p) * den))
    128 * b2n s + p

/-- The integer a number rounds to; none for NaN and the infinities. Under SR the neighbours are those of 04 R82
(notes/assumptions/7.md). -/
def roundInt (rm : Rounding) : Num → Option Int
  | .fin s m e =>
    let (n, r, d) := units m e 0
    let n : Int := n + b2n (rm.up s (n % 2 == 1) false r d)
    some (if s then -n else n)
  | _ => none

/-- A number as an integer between two limits; NaN gives 0 (04 R70, R79). -/
def clampInt (lo hi : Int) (rm : Rounding) (x : Num) : Int :=
  match x with
  | .nan => 0
  | .inf s => if s then lo else hi
  | x => max lo (min hi ((roundInt rm x).getD 0))

/-! Quantisation: rounding in the unbounded continuation of a format, then its finite range (08 R174). -/

/-- A magnitude in units of 2^q as the code of the range end, and whether it saturated; `top` is the largest finite
magnitude in the same units. -/
def quantBin (b : Bin) (top : Int) (rm : Rounding) : Num → Nat × Bool
  | .fin s m e =>
    if m = 0 then (b.signBit s, false) else
    let q := min top (max b.qmin ((Nat.log2 m : Int) + e - b.fbits))
    let (n, r, d) := units m e q
    let c := (q - b.qmin).toNat * 2 ^ b.fbits + n
    let c := c + b2n (rm.up s (n % 2 == 1) (c == 0) r d)
    if b.infCode ≤ c then (b.signBit s + b.infCode - 1, true) else (b.signBit s + c, false)
  | x => (b.round rne x, false)

def quantT8 (rm : Rounding) : Num → Nat × Bool
  | .fin s m e =>
    let (n, r, d) := units m e (-3)
    if 30 ≤ n then
      let n := n + b2n (rm.up s (n % 2 == 1) false r d)
      (128 * b2n s + 126, 30 < n)
    else (t8Round rm (.fin s m e), false)
  | x => (t8Round rne x, false)

def quantInt (lo hi : Int) (rm : Rounding) (x : Num) : Int × Bool :=
  match roundInt rm x with
  | some n => (max lo (min hi n), n < lo || hi < n)
  | none => (clampInt lo hi rm x, false)

/-! Order (04 R89). -/

/-- Codes of a binary format that is not NaN as integers in ascending order: -0 below +0. -/
def Bin.key (b : Bin) (c : Nat) : Int :=
  let m := c % 2 ^ (b.ebits + b.fbits)
  if bitOf c (b.ebits + b.fbits) then -(m : Int) - 1 else m
def Bin.isNan (b : Bin) (c : Nat) : Bool := b.infCode < c % 2 ^ (b.ebits + b.fbits)

/-! The random generator (00 R9, 04 R85). -/

def fmix (x : Nat) : Nat :=
  let x := (x ^^^ (x / 2 ^ 16)) * 0x85EBCA6B % 2 ^ 32
  let x := (x ^^^ (x / 2 ^ 13)) * 0xC2B2AE35 % 2 ^ 32
  x ^^^ (x / 2 ^ 16)
def draw (seed stream ctr : Nat) : Nat :=
  fmix (seed % 2 ^ 32 ^^^ stream * 0x85EBCA77 % 2 ^ 32 ^^^ ctr % 2 ^ 32 * 0x9E3779B1 % 2 ^ 32)
/-- The bits of element i of a word that rounds under SR (04 R84). -/
def srBits (seed ctr i : Nat) : Nat := draw seed 0xFFFFFFFF (ctr + i)

/-! CRC-64/ECMA-182 (08 R184). -/

def crc64Byte (c b : Nat) : Nat :=
  (List.range 8).foldl (fun c _ => if 2 ^ 63 ≤ c then (2 * c) % 2 ^ 64 ^^^ 0x42F0E1EBA9EA3693 else 2 * c) (c ^^^ b * 2 ^ 56)
def crc64 (c : Nat) (bs : List Nat) : Nat := bs.foldl crc64Byte c

/-! Special functions, rounded to nearest even (04 R90, 08 R178; notes/assumptions/8.md). Fixed point with 320 fraction bits. -/

def fixBits : Nat := 320
def fixOne : Nat := 2 ^ fixBits
/-- 2 artanh(n/d) for n/d at most 1/3. -/
def artanh2 (n d : Nat) : Nat :=
  let z := n * fixOne / d
  let z2 := z * z / fixOne
  2 * ((List.range 110).foldl (fun (a : Nat × Nat) k => (a.1 + a.2 / (2 * k + 1), a.2 * z2 / fixOne)) (0, z)).1
/-- The natural logarithm of 2. -/
def ln2 : Nat := artanh2 1 3
/-- e^x for a fixed-point x below 1. -/
def expFix (x : Nat) : Nat :=
  ((List.range 80).foldl (fun (a : Nat × Nat) k => (a.1 + a.2, a.2 * x / fixOne / (k + 1))) (0, fixOne)).1
/-- Something strictly between n/2^k and (n+1)/2^k: an irrational value is no midpoint. -/
def between (neg : Bool) (n : Nat) (e : Int) : Num := .fin neg (2 * n + 1) (e - 1)

/-- 2^(z + f) for a fixed-point fraction f. -/
def exp2Num : Num → Num
  | .nan => .nan
  | .inf s => if s then .fin false 0 0 else .inf false
  | .fin s m e =>
    let big := m * 2 ^ (e + 9).toNat / 2 ^ (-(e + 9)).toNat  -- |a| in units of 2^-9
    if 2 ^ 18 ≤ big then (if s then .fin false 1 (-2000) else .fin false 1 2000)
    else
      let (n, r, _) := units m e (-(fixBits : Int))
      let exact := r = 0
      let x : Int := if s then -(n : Int) else n
      let z := x / fixOne
      let f := (x % fixOne).toNat
      if f = 0 && exact then .fin false 1 z
      else between false (expFix (f * ln2 / fixOne)) (z - fixBits)

def log2Num : Num → Num
  | .nan => .nan
  | .inf s => if s then .nan else .inf false
  | .fin s m e =>
    if m = 0 then .inf true
    else if s then .nan
    else
      let l := Nat.log2 m
      let z : Int := l + e
      if m = 2 ^ l then Num.ofInt z
      else
        -- ln(m / 2^l) = 2 artanh((m - 2^l) / (m + 2^l))
        let g := artanh2 (m - 2 ^ l) (m + 2 ^ l) * fixOne / ln2
        let x : Int := z * fixOne + g
        if x < 0 then between true (x.natAbs - 1) (-(fixBits : Int)) else between false x.toNat (-(fixBits : Int))

def rcpNum : Num → Num
  | .nan => .nan
  | .inf s => .fin s 0 0
  | .fin s m e =>
    if m = 0 then .inf s else
    let n := fixOne / m
    if fixOne % m = 0 then .fin s n (-(fixBits : Int) - e) else between s n (-(fixBits : Int) - e)

def rsqrtNum : Num → Num
  | .nan => .nan
  | .inf s => if s then .nan else .fin false 0 0
  | .fin s m e =>
    if m = 0 then .inf s
    else if s then .nan
    else
      let (m, e) := if e % 2 = 0 then (m, e) else (2 * m, e - 1)
      let t := 2 ^ (2 * fixBits)
      let n := Nat.sqrt (t / m)
      if n * n * m = t then .fin false n (-(fixBits : Int) - e / 2) else between false n (-(fixBits : Int) - e / 2)

def tanhNum : Num → Num
  | .nan => .nan
  | .inf s => .fin s 1 0
  | .fin s m e =>
    if m = 0 then .fin s 0 0 else
    let big := m * 2 ^ e.toNat / 2 ^ (-e).toNat
    if 64 ≤ big then between s (fixOne - 2) (-(fixBits : Int))
    else
      -- (y - 1) / (y + 1) with y = e^(2a) = 2^k × e^f
      let (x, _, _) := units (2 * m) e (-(fixBits : Int))
      let k := x / ln2
      let y := expFix (x - k * ln2) * 2 ^ k
      let n := (y - fixOne) * fixOne / (y + fixOne)
      -- tanh a lies just below a; an a beyond the fixed point is its own nearest code
      if e < -(fixBits : Int) / 2 then .fin s m e else between s n (-(fixBits : Int))

end Sys2Proof.Machine
end

