-- ==== Sys2Proof/Machine/Vector.lean ====
section
/-! DEFINITION. What the X words compute on lanes: element formats, arithmetic, compares, conversions, reductions, sorts
(08 R158 to R183; 15 R320, R323). -/

namespace Sys2Proof.Machine

/-- Lanes of a word of width w (08 R158). -/
def laneCount (w : Nat) : Nat := 2048 / w
def lanesOf (v : Vec) (w : Nat) : List Nat := (List.range (laneCount w)).map (lane v w)

/-- The binary format of a floating element format. -/
def fmtBin : Fmt → Option Bin
  | .f32 => some fp32 | .f16 => some fp16 | .bf16 => some bf16 | _ => none
/-- A lane read as a number; integers are signed (08 R164, R166). -/
def laneNum (f : Fmt) (c : Nat) : Num :=
  match fmtBin f with
  | some b => b.decode c
  | none => .ofInt (signedOf (fmtWidth f) c)
/-- A number rounded into a lane of a floating format. -/
def roundLane (f : Fmt) (rm : Rounding) (x : Num) : Nat :=
  match fmtBin f with
  | some b => b.round rm x
  | none => wrapTo (fmtWidth f) (clampInt (-(2 ^ (fmtWidth f - 1) : Int)) (2 ^ (fmtWidth f - 1) - 1) rm x)

/-! Floating lanes (08 R164, R165). A sum under RDN that is exactly zero is -0. -/

def faddLane (f : Fmt) (rm : Rounding) (a b : Nat) : Nat :=
  roundLane f rm (Num.add (rm.mode == .rdn) (laneNum f a) (laneNum f b))
def fsubLane (f : Fmt) (rm : Rounding) (a b : Nat) : Nat :=
  roundLane f rm (Num.add (rm.mode == .rdn) (laneNum f a) (laneNum f b).neg)
def fmulLane (f : Fmt) (rm : Rounding) (a b : Nat) : Nat := roundLane f rm (Num.mul (laneNum f a) (laneNum f b))
/-- ± product ± addend with one rounding. With no addend the lane adds -0: under RDN an exact +0 product then gives -0, where the
formula of 08 R165 and its comment part (notes/assumptions/60.md, DESIGN CHOICE, unsafe). -/
def ffmaLane (f : Fmt) (rm : Rounding) (negP negC : Bool) (a b : Nat) (c : Num) : Nat :=
  let p := Num.mul (laneNum f a) (laneNum f b)
  roundLane f rm (Num.add (rm.mode == .rdn) (if negP then p.neg else p) (if negC then c.neg else c))

/-- The order of a lane as an integer: 04 R89 for floating formats, signed for integers. -/
def laneKey (f : Fmt) (c : Nat) : Int :=
  match fmtBin f with
  | some b => b.key c
  | none => signedOf (fmtWidth f) c
def laneNan (f : Fmt) (c : Nat) : Bool := match fmtBin f with | some b => b.isNan c | none => false
/-- The canonical NaN of the format. -/
def nanOf (f : Fmt) : Nat := match fmtBin f with | some b => b.nanCode | none => 0
/-- The lesser or greater lane under 04 R89. -/
def extremeLane (f : Fmt) (great : Bool) (a b : Nat) : Nat :=
  if laneNan f a || laneNan f b then nanOf f
  else if (if great then laneKey f a < laneKey f b else laneKey f b < laneKey f a) then b else a
def signMask (f : Fmt) : Nat := 2 ^ (fmtWidth f - 1)
/-- VABS and VNEG change the sign bit; a NaN gives the canonical NaN. -/
def fabsLane (f : Fmt) (a : Nat) : Nat := if laneNan f a then nanOf f else a % signMask f
def fnegLane (f : Fmt) (a : Nat) : Nat :=
  if laneNan f a then nanOf f else if signMask f ≤ a then a - signMask f else a + signMask f

/-! Integer lanes (08 R166, R167). -/

def intLane (w : Nat) (sat : Bool) (z : Int) : Nat := if sat then wrapTo w (satTo w z) else wrapTo w z
def sgn (w a : Nat) : Int := signedOf w a
def imulhLane (w a b : Nat) : Nat := wrapTo w (sgn w a * sgn w b / 2 ^ w)
def iabsLane (w : Nat) (sat : Bool) (a : Nat) : Nat := intLane w sat (sgn w a).natAbs
/-- The shift count of a lane: its low log2(w) bits. -/
def shiftOf (w b : Nat) : Nat := b % w
def shlLane (w a b : Nat) : Nat := a * 2 ^ shiftOf w b % 2 ^ w
def shrLane (w a b : Nat) : Nat := a / 2 ^ shiftOf w b
def sraLane (w a b : Nat) : Nat := wrapTo w (sgn w a / 2 ^ shiftOf w b)

/-- A condition on two lanes (08 R168). -/
def laneCond (f : Fmt) (cc : Cond) (a b : Nat) : Bool :=
  if laneNan f a || laneNan f b then (match cc with | .ne => true | .ltu => true | .geu => true | _ => false)
  else
    let ka := laneKey f a
    let kb := laneKey f b
    let fl := (fmtBin f).isSome
    match cc with
    | .eq => ka == kb
    | .ne => ka != kb
    | .lt => ka < kb
    | .ge => kb ≤ ka
    | .ltu => if fl then ka < kb else a < b
    | .geu => if fl then kb ≤ ka else b ≤ a

/-! Conversions (08 R173, R174; 15 R323). -/

def cfmtWidth : CFmt → Nat | .f32 => 32 | .i32 => 32 | .f16 => 16 | .bf16 => 16 | .i16 => 16 | _ => 8
def cfmtInt : CFmt → Bool | .i32 => true | .i16 => true | .i8 => true | _ => false
def cfmtNum (f : CFmt) (c : Nat) : Num :=
  match f with
  | .f32 => fp32.decode c | .f16 => fp16.decode c | .bf16 => bf16.decode c | .e5m2 => e5m2.decode c | .t8 => t8Decode c
  | f => .ofInt (signedOf (cfmtWidth f) c)
/-- A conversion to a format (04 R79 to R81). T8 ±2^-26 to FP16 is below FP16's smallest number, so it rounds in the word's mode as
any value does (04 R78), although R81 calls T8 to FP16 exact (notes/assumptions/45.md, DESIGN CHOICE, unsafe). -/
def cfmtRound (f : CFmt) (rm : Rounding) (x : Num) : Nat :=
  match f with
  | .f32 => fp32.round rm x | .f16 => fp16.round rm x | .bf16 => bf16.round rm x | .e5m2 => e5m2.round rm x
  | .t8 => t8Round rm x
  | f =>
    let w := cfmtWidth f
    wrapTo w (clampInt (-(2 ^ (w - 1) : Int)) (2 ^ (w - 1) - 1) rm x)

/-- One VQNT lane: the code and whether the lane saturated (08 R174). -/
def quantLane (qf : QFmt) (sc : Nat) (rm : Rounding) (v : Nat) : Nat × Bool :=
  let q := if sc = 255 then .nan else (fp32.decode v).scale (127 - sc)
  match qf with
  | .t8 => quantT8 rm q
  | .e5m2 => quantBin e5m2 13 rm q
  | .i8 => let (z, s) := quantInt (-128) 127 rm q; (wrapTo 8 z, s)
  | .u8 => let (z, s) := quantInt 0 255 rm q; (wrapTo 8 z, s)
/-- One VDQNT lane. -/
def dequantLane (qf : QFmt) (sc : Nat) (rm : Rounding) (c : Nat) : Nat :=
  let e := match qf with
    | .t8 => t8Decode c | .e5m2 => e5m2.decode c | .i8 => .ofInt (signedOf 8 c) | .u8 => .ofInt c
  fp32.round rm (if sc = 255 then .nan else e.scale (sc - 127))

def qfltLane (qfrac c : Nat) : Nat := fp32.round rne ((Num.ofInt (signedOf 32 c)).scale (-(qfrac : Int)))
def qfixLane (qfrac c : Nat) : Nat :=
  wrapTo 32 (clampInt (-(2 ^ 31 : Int)) (2 ^ 31 - 1) rne ((fp32.decode c).scale qfrac))

/-! Reductions and scan (04 R87, R88; 08 R180, R181). Inactive lanes are absent. -/

/-- One level of the pairwise tree. -/
def pairwise (f : Nat → Nat → Nat) (t : List Nat) : List Nat :=
  let h := t.length / 2
  List.zipWith f (t.take h) (t.drop h)
/-- The tree over 2^k lanes. -/
def treeSum (f : Nat → Nat → Nat) : Nat → List Nat → Nat
  | 0, t => t.headD 0
  | k + 1, t => treeSum f k (pairwise f t)
def negZero32 : Nat := 2 ^ 31
/-- Exact widening to FP32. -/
def widen32 (f : Fmt) (c : Nat) : Nat := fp32.round rne (laneNum f c)
def redSum (f : Fmt) (sat : Bool) (vs : List (Option Nat)) : Nat :=
  let rm : Rounding := ⟨.rne, 0, sat⟩
  if (fmtBin f).isSome then
    treeSum (faddLane .f32 rm) (Nat.log2 vs.length) (vs.map (fun v => (v.map (widen32 f)).getD negZero32))
  else intLane 32 sat (vs.map (fun v => (v.map (sgn (fmtWidth f))).getD 0)).sum
/-- The extreme of no lanes: an infinity, or the end of the integer range. -/
def extremeEmpty (f : Fmt) (great : Bool) : Nat :=
  match fmtBin f with
  | some b => b.signBit great + b.infCode
  | none => if great then signMask f else signMask f - 1
def redExtreme (f : Fmt) (great : Bool) (vs : List (Option Nat)) : Nat :=
  let xs := vs.filterMap id
  match xs with
  | [] => extremeEmpty f great
  | [x] => if laneNan f x then nanOf f else x
  | x :: t => t.foldl (extremeLane f great) x
def redArg (f : Fmt) (mn : Bool) (vs : List (Option Nat)) : Nat :=
  match vs.findIdx? (fun v => (v.map (laneNan f)).getD false) with
  | some i => i
  | none =>
    let e := redExtreme f (!mn) vs
    (vs.findIdx? (fun v => v == some e)).getD 0xFFFFFFFF

/-- Partials of the floating scan. -/
def scanFloat (rm : Rounding) : Option Nat → List (Option Nat) → List (Option Nat)
  | _, [] => []
  | none, v :: t =>
    let p := (v.map (fun c => if fp32.isNan c then fp32.nanCode else c)).getD negZero32
    (v.map (fun _ => p)) :: scanFloat rm (some p) t
  | some p, v :: t =>
    let p := faddLane .f32 rm p (v.getD negZero32)
    (v.map (fun _ => p)) :: scanFloat rm (some p) t
/-- Partials of the integer scan. -/
def scanInt (sat : Bool) : Int → List (Option Nat) → List (Option Nat)
  | _, [] => []
  | p, v :: t =>
    let p := p + (v.map (sgn 32)).getD 0
    let p := if sat then satTo 32 p else p
    (v.map (fun _ => wrapTo 32 p)) :: scanInt sat p t

/-! Sort (08 R182). -/

/-- The place of a key in the order: every NaN above all others. -/
def sortKey (f : Fmt) (c : Nat) : Int := if laneNan f c then 2 ^ 40 else laneKey f c
/-- Put a lane after those that are not less. -/
def sortPut (k : Nat → Int) (x : Nat × Nat) : List (Nat × Nat) → List (Nat × Nat)
  | [] => [x]
  | y :: t => if k y.1 < k x.1 then x :: y :: t else y :: sortPut k x t
/-- Keys with payloads in descending order, equal keys in lane order. -/
def sortDesc (f : Fmt) (xs : List (Nat × Nat)) : List (Nat × Nat) := xs.foldl (fun acc x => sortPut (sortKey f) x acc) []

end Sys2Proof.Machine
end

