-- ==== Sys2Proof/Machine/XIssue.lean ====
section
/-! DEFINITION. Issue of the X words: waits, operands, the shadow scoreboard, and the landing of results (05 R115 to R118;
07 R138 to R141; 08 R159 to R163, R185). -/

namespace Sys2Proof.Machine

/-- What the scoreboard watches (05 R116, 15 R321). -/
inductive Item
  | v (physical : Nat)
  | x (n : Nat)
  | m (n : Nat)
  | p (n : Nat)
  | sealAcc
  deriving DecidableEq, Repr

/-- The register that an item is, of those that ECC covers. -/
def Item.reg : Item → Option RegId
  | .v n => some (.v n)
  | .x n => some (.x n)
  | .m n => some (.m n)
  | _ => Option.none

/-- The units that may serve a word (08 R163). -/
inductive XUnit
  | none
  | one (u : N8)
  /-- VFMA0 when it can accept the word, else VFMA1 -/
  | fma
  deriving DecidableEq, Repr

/-- What an X word needs to issue. -/
structure XIn where
  dly    : Nat := 0
  guard  : Guard := ⟨false, 0⟩
  /-- vector operands with the lane width of their role -/
  srcs   : List (Src × Nat) := []
  reads  : List Item := []
  writes : List Item := []
  /-- store queue it pushes into -/
  qd     : Option N8 := Option.none
  /-- a branch queue it waits for -/
  qwait  : Bool := false
  /-- it touches cells of an unretired batch (09 R213) -/
  cells  : Bool := false
  /-- a trap that comes before the check of `cells` -/
  bad    : Option Cause := Option.none
  unit   : XUnit := XUnit.none
  lat    : Nat := 1

def FDst.item : FDst → Option Item
  | .v n _ => some (.v n)
  | .m n _ => some (.m n)
  | .x n _ => some (.x n)
  | .p n _ => some (.p n)
  | _ => Option.none

/-- A flight writes an item. -/
def Flight.hits (f : Flight) (i : Item) : Bool :=
  match i with
  | .sealAcc => f.sealOp != .none
  | .x 0 => false
  | .p 0 => false
  | i => f.dst.item == some i

/-! Prefix of the word being issued (05 R118). -/

def Core.xGuard (c : Core) (g : Guard) : Guard :=
  match c.xo.pos.pfx with
  | some p => p.guard.getD g
  | none => g
def Core.xRnd (c : Core) : Rnd := ((c.xo.pos.pfx.map (fun p => p.rnd.val)).bind Rnd.ofCode).getD .rne
def Core.xSat (c : Core) : Bool := (c.xo.pos.pfx.map (fun p => p.sat)).getD false
/-- The mask a word with mask enable 1 uses (08 R160). -/
def Core.xMaskNo (c : Core) : N8 := (c.xo.pos.pfx.map (fun p => p.msel)).getD 0
def Core.xMask (c : Core) : Mask := c.xr.m[c.xMaskNo]

/-- Lane i of width w is active (08 R160). -/
def Core.active (c : Core) (me : Bool) (w i : Nat) : Bool := !me || c.xMask.getLsbD (w / 8 * i)

/-- The rounding of element i of the word (04 R84). -/
def Core.rounding (c : Core) (i : Nat) : Rounding :=
  let m := c.xRnd
  ⟨m, if m = .sr then srBits (c.sysReg 0x52).toNat (c.sysReg 0x53).toNat i else 0, c.xSat⟩
/-- SRCTR after a word that rounds n elements (04 R84). -/
def Core.takeSr (c : Core) (n : Nat) : Core :=
  if c.xRnd = .sr then c.setSys 0x53 (c.sysReg 0x53 + BitVec.ofNat 64 n) else c

/-! Operands. -/

/-- The load queues that the operands pop, in operand order (02 R28). -/
def poppedQueues (srcs : List (Src × Nat)) : List Nat :=
  srcs.filterMap (fun o => match o.1 with | .q n => some n.val | _ => Option.none)
/-- Every entry that the operands pop is ready (07 R139, R140). -/
def Core.heads (c : Core) (now : Nat) (srcs : List (Src × Nat)) : Bool :=
  let qs := poppedQueues srcs
  qs.all (fun n =>
    let l := c.q.ld.getD n []
    let k := qs.count n
    k ≤ l.length && (l.take k).all (fun e => match e.ready with | some t => t ≤ now | Option.none => false))

/-- Operand values; `seen` are the queues popped by the operands before (08 R159). -/
def Core.srcVals (c : Core) : List (Src × Nat) → List Nat → List Vec
  | [], _ => []
  | (o, w) :: t, seen =>
    match o with
    | .v n => c.getV n :: c.srcVals t seen
    | .l n => c.xr.l[n] :: c.srcVals t seen
    | .x n => broadcast w (c.getX (Fin.ofNat 16 n.val)).toNat :: c.srcVals t seen
    | .q n => (((c.q.ld.getD n.val []).drop (seen.count n.val)).head?.map (fun e => e.data)).getD 0 :: c.srcVals t (n.val :: seen)

/-- The entries are popped as the word issues; a QSCALE that may still be refused keeps them (13 R296). -/
def Core.popSrcs (c : Core) (srcs : List (Src × Nat)) : Core :=
  (poppedQueues srcs).foldl (fun c n =>
    let e := ((c.q.ld.getD n []).take 1).map (fun e => (n, e))
    { c with q := { c.q with ld := c.q.ld.setIfInBounds n ((c.q.ld.getD n []).drop 1) },
             scales := c.scales.map (fun v => { v with popped := v.popped ++ e }) }) c

/-! Words younger than a QSCALE that may still be refused (05 R103, 13 R296; notes/assumptions/10.md, DESIGN CHOICE, unsafe). -/

/-- No QSCALE older than a word of that number waits for its home. -/
def Core.settled (c : Core) (id : Nat) : Bool := c.scales.all (fun v => id < v.id)
/-- Entries at the end of a branch queue that such words have put there: no stream reads them yet. -/
def Core.bqOpen (c : Core) (q : Fin 4) : Nat := ((c.scales.head?.map (fun v => v.bqPut)).getD []).count q
/-- A message of a core leaves: a merge in its cycle, or as soon after as it can; a request to a record's home now. -/
def State.sendMessage (core : Nat) (s : State) (o : Nat × Event) : State :=
  match o.2 with
  | .homeRequest tile (.rescale n) => s.sendAsk tile (n / 256) (recOff n) core .rescale o.2
  | e => s.at_ (max s.now o.1) e
/-- A message of an X word: it stays with the newest QSCALE that may still be refused. -/
def State.message (s : State) (cycle : Nat) (e : Event) : State :=
  let c := s.me
  match c.scales.getLast? with
  | none => State.sendMessage s.who.core s (cycle, e)
  | some v => s.setMe { c with scales := c.scales.dropLast ++ [{ v with owed := v.owed ++ [(cycle, e)] }] }

/-! The scoreboard (05 R116). -/

/-- Items and latches that the operands read. -/
def Core.srcItems (c : Core) (srcs : List (Src × Nat)) : List Item :=
  srcs.filterMap (fun o => match o.1 with
    | .v n => some (.v (physV c.xo.rrb n))
    | .x n => some (.x n.val)
    | _ => Option.none)
/-- A word of the unit later than the one whose result its latch holds is in flight. -/
def Core.latchLate (c : Core) (u : N8) : Bool :=
  c.xr.flights.any (fun f => match f.unit with | some (w, _) => w == u && c.xr.lid[u] < f.id | Option.none => false)

/-- A unit accepts a word (05 R115). -/
def Core.accepts (c : Core) (now : Nat) : XUnit → Bool
  | .fma => c.xr.fma0 ≤ now || c.xr.fma1 ≤ now
  | .one u => u != 6 || c.xr.vred ≤ now
  | .none => true

/-- A violation that the scoreboard finds. A QSCALE's result not yet landed is no violation of a read (08 R176). -/
def Core.violation (c : Core) (now : Nat) (w : XIn) (reads : List Item) : Bool :=
  c.xr.flights.any (fun f => reads.any f.hits && !f.scale)
  || w.srcs.any (fun o => match o.1 with | .l u => c.latchLate u | _ => false)
  || c.xr.flights.any (fun f => w.writes.any f.hits && (match f.land with
    | some t => now + w.lat ≤ t | Option.none => true))
  || !c.accepts now w.unit
def Core.awaitsScale (c : Core) (reads : List Item) : Bool :=
  c.xr.flights.any (fun f => reads.any f.hits && f.scale)

/-- The word no longer waits on the scoreboard (14 R315). -/
def State.endWait (s : State) (core : Nat) : State :=
  let c := s.core core
  if c.xr.sbWait then (s.setCore core { c with xr := { c.xr with sbWait := false } }).lower core else s

/-- The core holds an unretired matrix command that takes scales from q5 (09 R202). -/
def State.scaleReader (s : State) (core : Nat) : Bool :=
  (s.tile (tileOf core)).mx.cmds.any (fun m => m.core == core && m.sq && m.ret.isNone)

/-- The word waits for a head of a source queue, for a branch queue or for room in its destination queue (07 R139). -/
def Core.queueWaits (c : Core) (now : Nat) (w : XIn) : Bool :=
  w.qwait || !c.heads now w.srcs || (match w.qd with | some n => 16 ≤ (c.q.st.getD (n.val - 6) []).length | Option.none => false)

/-- The issue of an X word: the compiler's wait; the direction of q5, which is checked whatever the guard (03 R65, 09 R202); the issue
qualifier; the guard, the queues and the scoreboard; then its meaning with the operand values. A word that waits on a queue waits on
it alone (05 R99, R116; 07 R139). -/
def xWord (s : State) (w : XIn) (k : State → List Vec → Res) : Res :=
  let c := s.me
  let g := c.xGuard w.guard
  let gItem : List Item := if g.p = 0 then [] else [.p g.p.val]
  let viol (s : State) (cause : Cause) : Res :=
    if bitOf (c.sysReg 0x50).toNat 0 then (s.endWait s.who.core).trap cause
    else
      let s := s.setMe (s.me.setSys 0x51 (s.me.sysReg 0x51 + 1))
      if s.me.aligned && !s.me.xr.sbWait then
        let c := s.me
        .next ((s.setMe { c with xr := { c.xr with sbWait := true } }).raise s.who.core)
      else .next s
  if s.now < s.pos.last + 1 + w.dly then .next s
  else if (poppedQueues w.srcs).contains 5 && s.scaleReader s.who.core then (s.endWait s.who.core).encTrap .queueDirection
  else if iqHolds c.xo = false then .next (s.endWait s.who.core).retire
  else if c.violation s.now {} gItem then
    if c.queueWaits s.now w then .next (s.endWait s.who.core) else viol s .scoreboardLate
  else if c.guard .x g = false then .next (s.endWait s.who.core).retire
  else if c.queueWaits s.now w then .next (s.endWait s.who.core)
  else
    let reads := c.srcItems w.srcs ++ w.reads
    if c.violation s.now w reads then viol s .scoreboardLate
    else if c.awaitsScale reads then .next (s.endWait s.who.core)
    else if c.bad (reads.filterMap Item.reg) then (s.endWait s.who.core).trap .eccReg
    else match w.bad with
    | some cause => (s.endWait s.who.core).trap cause
    | Option.none =>
    if w.cells then viol s .accInflight
    else
      let s := s.endWait s.who.core
      k s (s.me.srcVals w.srcs [])

/-! Results. -/

/-- The unit that serves the word, and when the units accept the next (05 R115). -/
def XRegs.serve (r : XRegs) (now busy : Nat) : XUnit → Option N8 × XRegs
  | .none => (Option.none, r)
  | .one u => (some u, if u = 6 then { r with vred := now + busy } else r)
  | .fma => if r.fma0 ≤ now then (some 3, { r with fma0 := now + 2 }) else (some 4, { r with fma1 := now + 2 })

/-- The word issues: its queue entries are popped, its result is in flight, a store-queue slot is taken (07 R139, 05 R115).
`latch` is what its unit's latch receives; `busy` when VRED accepts the next word. -/
def State.xResult (s : State) (w : XIn) (dst : FDst) (latch : Vec) (sealOp : SealOp := .none) (busy : Nat := 1) : State :=
  let c := s.me.popSrcs w.srcs
  let (u, r) := c.xr.serve s.now busy w.unit
  let id := r.nextId
  let f : Flight := { id := id, land := some (s.now + w.lat), unit := u.map (fun u => (u, latch)), dst := dst, sealOp := sealOp }
  let q := match dst with
    | .q n v en => { c.q with st := c.q.st.setIfInBounds (n - 6) ((c.q.st.getD (n - 6) []) ++ [⟨id, v, en, Option.none⟩]) }
    | _ => c.q
  let s := s.setMe { c with q := q, xr := { r with flights := r.flights ++ [f], nextId := id + 1 } }
  (s.after w.lat (.xResultLand s.who.core id)).retire

/-- A vector from lanes of width w over an old value: a lane that is absent keeps the old lane. -/
def overlayLanes (w : Nat) (vals : List (Option Nat)) (old : Vec) : Vec :=
  ofLanes w (vals.zipIdx.map (fun (v, i) => v.getD (lane old w i)))
/-- Byte enables: the bytes of the lanes present (07 R141). -/
def lanesEnable (w : Nat) (vals : List (Option Nat)) : Mask :=
  BitVec.ofNat 256 (vals.foldr (fun v r => r * 2 ^ (w / 8) + (if v.isSome then 2 ^ (w / 8) - 1 else 0)) 0)

/-- The scoreboard items and the store queue of a destination. -/
def Core.dstItems (c : Core) : Dst → List Item
  | .v n => [.v (physV c.xo.rrb n)]
  | _ => []
def dstQueue : Dst → Option N8
  | .q n => some n
  | _ => Option.none

/-- A vector result in lanes of width w, none for an inactive lane: destination and latch (08 R161, R162). -/
def State.xVector (s : State) (w : XIn) (d : Dst) (wd : Nat) (vals : List (Option Nat)) (sealOp : SealOp := .none)
    (busy : Nat := 1) : Res :=
  let c := s.me
  match d with
  | .v n =>
    let p := physV c.xo.rrb n
    let v := overlayLanes wd vals (c.xr.v.getD p 0)
    .next (s.xResult w (.v p v) v sealOp busy)
  | .q n =>
    let v := overlayLanes wd vals 0
    .next (s.xResult w (.q n.val v (lanesEnable wd vals)) v sealOp busy)
  | .none => .next (s.xResult w .none (overlayLanes wd vals 0) sealOp busy)

/-- What a word with a vector destination needs: a masked word reads its mask and its destination too (08 R161). -/
def Core.vecIn (c : Core) (dly : N8) (d : Dst) (me : Bool) (srcs : List (Src × Nat)) (unit : XUnit) (lat : Nat) : XIn :=
  { dly := dly.val, srcs := srcs, reads := if me then .m c.xMaskNo.val :: c.dstItems d else [], writes := c.dstItems d,
    qd := dstQueue d, unit := unit, lat := lat }

/-- A word that computes every active lane of width w from the same lane of its operands (08 R160, R161); `f` takes the lane
number, for its rounding, and the operand lanes. `rounds`: it draws a counter value for each lane under SR. -/
def xLanes (s : State) (dly : N8) (d : Dst) (me : Bool) (srcs : List Src) (w : Nat) (unit : XUnit) (lat : Nat)
    (rounds : Bool) (f : Core → Nat → List Nat → Nat) : Res :=
  let inp := s.me.vecIn dly d me (srcs.map (fun o => (o, w))) unit lat
  xWord s inp (fun s vs =>
    let c := s.me
    let vals := (List.range (laneCount w)).map (fun i => if c.active me w i then some (f c i (vs.map (fun v => lane v w i)) % 2 ^ w) else Option.none)
    (if rounds then s.setMe (c.takeSr (laneCount w)) else s).xVector inp d w vals)

/-! Landing. -/

/-- A result lands: its destination, the seal, and its latch unless a later word of the unit has landed (05 R115, 08 R185). -/
def landOn (c : Core) (now : Nat) (f : Flight) : Core :=
  -- an earlier word's result that was made late lands in no register that this one has written (05 R120)
  let late (g : Flight) : Flight := if g.id < f.id && f.dst.item.isSome && g.dst.item == f.dst.item then { g with dst := .none } else g
  let r := { c.xr with flights := (c.xr.flights.filter (fun g => g.id != f.id)).map late }
  let r := match f.sealOp with
    | .none => r
    | .clear => { r with sealAcc := 0 }
    | .add bs => { r with sealAcc := BitVec.ofNat 64 (crc64 r.sealAcc.toNat bs) }
  let r := match f.unit with
    | some (u, v) => if r.lid[u] < f.id then { r with l := r.l.set u v, lid := r.lid.set u f.id } else r
    | Option.none => r
  let c := { c with xr := r }
  match f.dst with
  | .v n v => { c.mend (.v n) with xr := { c.xr with v := c.xr.v.setIfInBounds n v } }
  | .m n v => { c.mend (.m n) with xr := { c.xr with m := c.xr.m.setIfInBounds n v } }
  | .x n v => c.setX (Fin.ofNat 16 n) v
  | .p n b => c.setPred .x (Fin.ofNat 8 n) b
  | .q n _ _ =>
    let l := (c.q.st.getD (n - 6) []).map (fun e => if e.id = f.id then { e with ready := some (now + 1) } else e)
    { c with q := { c.q with st := c.q.st.setIfInBounds (n - 6) l } }
  | .none => c

/-- A result lands, and where a younger QSCALE may still be refused, in what it keeps of the X stream as well (13 R296). -/
def landFlight (c : Core) (now : Nat) (f : Flight) : Core :=
  { landOn c now f with scales := c.scales.map (fun v =>
      if f.id < v.id then
        let d := landOn { c with xr := v.xr, xo := v.xo } now f
        { v with xr := d.xr, xo := d.xo }
      else v) }

/-- X_RESULT_LAND (05 R115). -/
def execXResultLand (s : State) : Res :=
  match s.ev with
  | .xResultLand core id =>
    let c := s.core core
    match c.xr.flights.find? (fun f => f.id == id) with
    | some f => .next (s.setCore core (landFlight c s.now f))
    | Option.none => .next s
  | _ => .next s

end Sys2Proof.Machine
end

