-- ==== Sys2Proof/Machine/Execute.lean ====
section
/-! DEFINITION. The words of the execute processor on lanes, masks and x scalars (08 R164 to R184; 15 R319 to R324). -/

namespace Sys2Proof.Machine

def valu0 : XUnit := .one 0
def valu1 : XUnit := .one 1
def vmulU : XUnit := .one 2
def vsfu : XUnit := .one 5
def vred : XUnit := .one 6
def vcvtU : XUnit := .one 7

/-! Floating lanes (08 R164, R165). -/

/-- A floating word of two operands that rounds. -/
def xFloat2 (s : State) (f : Fmt) (dly : N8) (d : Dst) (a b : Src) (me : Bool) (unit : XUnit) (lat : Nat)
    (op : Fmt → Rounding → Nat → Nat → Nat) : Res :=
  xLanes s dly d me [a, b] (fmtWidth f) unit lat true
    (fun c i vs => op f (c.rounding i) (vs.getD 0 0) (vs.getD 1 0))
/-- A lane word of two operands without rounding. -/
def xPlain2 (s : State) (w : Nat) (dly : N8) (d : Dst) (a b : Src) (me : Bool) (unit : XUnit) (lat : Nat)
    (op : Nat → Nat → Nat) : Res :=
  xLanes s dly d me [a, b] w unit lat false (fun _ _ vs => op (vs.getD 0 0) (vs.getD 1 0))
/-- A lane word of one operand without rounding. -/
def xPlain1 (s : State) (w : Nat) (dly : N8) (d : Dst) (a : Src) (me : Bool) (unit : XUnit) (lat : Nat)
    (op : Core → Nat → Nat) : Res :=
  xLanes s dly d me [a] w unit lat false (fun c _ vs => op c (vs.getD 0 0))

def execVadd (f : Fmt) (dly : N8) (d : Dst) (a b : Src) (me : Bool) (s : State) : Res := xFloat2 s f dly d a b me valu0 2 faddLane
def execVsub (f : Fmt) (dly : N8) (d : Dst) (a b : Src) (me : Bool) (s : State) : Res := xFloat2 s f dly d a b me valu0 2 fsubLane
def execVmul (f : Fmt) (dly : N8) (d : Dst) (a b : Src) (me : Bool) (s : State) : Res := xFloat2 s f dly d a b me vmulU 3 fmulLane
def execVmin (f : Fmt) (dly : N8) (d : Dst) (a b : Src) (me : Bool) (s : State) : Res :=
  xPlain2 s (fmtWidth f) dly d a b me valu0 2 (extremeLane f false)
def execVmax (f : Fmt) (dly : N8) (d : Dst) (a b : Src) (me : Bool) (s : State) : Res :=
  xPlain2 s (fmtWidth f) dly d a b me valu0 2 (extremeLane f true)
def execVabs (f : Fmt) (dly : N8) (d : Dst) (a : Src) (me : Bool) (s : State) : Res :=
  xPlain1 s (fmtWidth f) dly d a me valu0 2 (fun _ => fabsLane f)
def execVneg (f : Fmt) (dly : N8) (d : Dst) (a : Src) (me : Bool) (s : State) : Res :=
  xPlain1 s (fmtWidth f) dly d a me valu0 2 (fun _ => fnegLane f)

/-- Fused multiply-add: the addend is the old destination, or a zero of the sign that leaves the product as it is (08 R165). -/
def xFma (s : State) (f : Fmt) (dly : N8) (d : Dst) (a b : Src) (me negP negC : Bool) : Res :=
  let w := fmtWidth f
  let inp := { s.me.vecIn dly d me [(a, w), (b, w)] .fma 4 with
    reads := (if me then [.m s.me.xMaskNo.val] else []) ++ s.me.dstItems d }
  xWord s inp (fun s vs =>
    let c := s.me
    let addend (i : Nat) : Num := match d with
      | .v n => laneNum f (lane (c.getV n) w i)
      | _ => .fin (!negC) 0 0
    let vals := (List.range (laneCount w)).map (fun i =>
      if c.active me w i then
        some (ffmaLane f (c.rounding i) negP negC (lane (vs.getD 0 0) w i) (lane (vs.getD 1 0) w i) (addend i))
      else Option.none)
    (s.setMe (c.takeSr (laneCount w))).xVector inp d w vals)

def execVfma (f : Fmt) (dly : N8) (d : Dst) (a b : Src) (me : Bool) (s : State) : Res := xFma s f dly d a b me false false
def execVfms (f : Fmt) (dly : N8) (d : Dst) (a b : Src) (me : Bool) (s : State) : Res := xFma s f dly d a b me false true
def execVfnma (f : Fmt) (dly : N8) (d : Dst) (a b : Src) (me : Bool) (s : State) : Res := xFma s f dly d a b me true false

/-! Integer and bitwise lanes (08 R166, R167). -/

/-- An integer word whose exact result wraps, or saturates with SAT. -/
def xInt2 (s : State) (f : Fmt) (dly : N8) (d : Dst) (a b : Src) (me : Bool) (unit : XUnit) (lat : Nat) (op : Int → Int → Int) : Res :=
  let w := fmtWidth f
  xLanes s dly d me [a, b] w unit lat false (fun c _ vs => intLane w c.xSat (op (sgn w (vs.getD 0 0)) (sgn w (vs.getD 1 0))))

def execViadd (f : Fmt) (dly : N8) (d : Dst) (a b : Src) (me : Bool) (s : State) : Res := xInt2 s f dly d a b me valu0 2 (· + ·)
def execVisub (f : Fmt) (dly : N8) (d : Dst) (a b : Src) (me : Bool) (s : State) : Res := xInt2 s f dly d a b me valu0 2 (· - ·)
def execVimul (f : Fmt) (dly : N8) (d : Dst) (a b : Src) (me : Bool) (s : State) : Res := xInt2 s f dly d a b me vmulU 3 (· * ·)
def execVimulh (f : Fmt) (dly : N8) (d : Dst) (a b : Src) (me : Bool) (s : State) : Res :=
  xPlain2 s (fmtWidth f) dly d a b me vmulU 3 (imulhLane (fmtWidth f))
def execVimin (f : Fmt) (dly : N8) (d : Dst) (a b : Src) (me : Bool) (s : State) : Res :=
  xPlain2 s (fmtWidth f) dly d a b me valu0 2 (extremeLane f false)
def execVimax (f : Fmt) (dly : N8) (d : Dst) (a b : Src) (me : Bool) (s : State) : Res :=
  xPlain2 s (fmtWidth f) dly d a b me valu0 2 (extremeLane f true)
def execViabs (f : Fmt) (dly : N8) (d : Dst) (a : Src) (me : Bool) (s : State) : Res :=
  xPlain1 s (fmtWidth f) dly d a me valu0 2 (fun c => iabsLane (fmtWidth f) c.xSat)
def execVshl (f : Fmt) (dly : N8) (d : Dst) (a b : Src) (me : Bool) (s : State) : Res :=
  xPlain2 s (fmtWidth f) dly d a b me valu1 2 (shlLane (fmtWidth f))
def execVshr (f : Fmt) (dly : N8) (d : Dst) (a b : Src) (me : Bool) (s : State) : Res :=
  xPlain2 s (fmtWidth f) dly d a b me valu1 2 (shrLane (fmtWidth f))
def execVsra (f : Fmt) (dly : N8) (d : Dst) (a b : Src) (me : Bool) (s : State) : Res :=
  xPlain2 s (fmtWidth f) dly d a b me valu1 2 (sraLane (fmtWidth f))
def execVand (dly : N8) (d : Dst) (a b : Src) (me : Bool) (s : State) : Res := xPlain2 s 8 dly d a b me valu1 2 (· &&& ·)
def execVor (dly : N8) (d : Dst) (a b : Src) (me : Bool) (s : State) : Res := xPlain2 s 8 dly d a b me valu1 2 (· ||| ·)
def execVxor (dly : N8) (d : Dst) (a b : Src) (me : Bool) (s : State) : Res := xPlain2 s 8 dly d a b me valu1 2 (· ^^^ ·)
def execVnot (dly : N8) (d : Dst) (a : Src) (me : Bool) (s : State) : Res := xPlain1 s 8 dly d a me valu1 2 (fun _ v => 255 - v)

/-! Compare, select, masks (08 R168 to R170). -/

/-- All w/8 bits of the lanes that hold. -/
def laneMask (w : Nat) (ts : List Bool) : Mask := lanesEnable w (ts.map (fun t => if t then some 0 else none))

def execVcmp (f : Fmt) (dly : N8) (cc : Cond) (md : N8) (a b : Src) (me : Bool) (s : State) : Res :=
  let w := fmtWidth f
  let inp : XIn := { dly := dly.val, srcs := [(a, w), (b, w)], reads := if me then [.m s.me.xMaskNo.val] else [],
                     writes := [.m md.val], unit := valu0, lat := 2 }
  xWord s inp (fun s vs =>
    let c := s.me
    let ts := (List.range (laneCount w)).map (fun i =>
      c.active me w i && laneCond f cc (lane (vs.getD 0 0) w i) (lane (vs.getD 1 0) w i))
    .next (s.xResult inp (.m md.val (laneMask w ts)) (ofLanes w (ts.map (fun t => if t then 2 ^ w - 1 else 0)))))

/-- VSEL writes every lane: the mask selects and does not merge (08 R169). -/
def execVsel (f : Fmt) (dly : N8) (d : Dst) (a b : Src) (s : State) : Res :=
  let w := fmtWidth f
  let inp : XIn := { dly := dly.val, srcs := [(a, w), (b, w)], reads := [.m s.me.xMaskNo.val], writes := s.me.dstItems d,
                     qd := dstQueue d, unit := valu0, lat := 2 }
  xWord s inp (fun s vs =>
    s.xVector inp d w ((List.range (laneCount w)).map (fun i =>
      some (lane (vs.getD (if s.me.active true w i then 0 else 1) 0) w i))))

/-- A mask word that writes a mask. -/
def xMaskWord (s : State) (dly md : N8) (reads : List Item) (f : Core → Mask) : Res :=
  let inp : XIn := { dly := dly.val, reads := reads, writes := [.m md.val] }
  xWord s inp (fun s _ => .next (s.xResult inp (.m md.val (f s.me)) 0))
/-- A word that writes an x scalar. -/
def xScalarWord (s : State) (dly : Nat) (x : N16) (reads : List Item) (f : Core → Word) : Res :=
  let inp : XIn := { dly := dly, reads := reads, writes := [.x x.val] }
  xWord s inp (fun s _ => .next (s.xResult inp (.x x.val (f s.me)) 0))

def execMand (dly md ma mb : N8) (s : State) : Res :=
  xMaskWord s dly md [.m ma.val, .m mb.val] (fun c => c.xr.m[ma] &&& c.xr.m[mb])
def execMor (dly md ma mb : N8) (s : State) : Res :=
  xMaskWord s dly md [.m ma.val, .m mb.val] (fun c => c.xr.m[ma] ||| c.xr.m[mb])
def execMxor (dly md ma mb : N8) (s : State) : Res :=
  xMaskWord s dly md [.m ma.val, .m mb.val] (fun c => c.xr.m[ma] ^^^ c.xr.m[mb])
def execMnot (dly md ma : N8) (s : State) : Res := xMaskWord s dly md [.m ma.val] (fun c => ~~~(c.xr.m[ma]))
def maskCount (m : Mask) : Nat := (List.range 256).countP (fun k => m.getLsbD k)
def maskFirst (m : Mask) : Nat := ((List.range 256).find? (fun k => m.getLsbD k)).getD 256
def execMpop (dly : N8) (x : N16) (ma : N8) (s : State) : Res :=
  xScalarWord s dly.val x [.m ma.val] (fun c => BitVec.ofNat 64 (maskCount c.xr.m[ma]))
def execMff (dly : N8) (x : N16) (ma : N8) (s : State) : Res :=
  xScalarWord s dly.val x [.m ma.val] (fun c => BitVec.ofNat 64 (maskFirst c.xr.m[ma]))
def execMset (dly md : N8) (x : N16) (s : State) : Res :=
  xMaskWord s dly md [.x x.val] (fun c => BitVec.ofNat 256 (2 ^ min (c.getX x).toNat 256 - 1))

/-! Moves and permutes (08 R171, R172). -/

def execVmov (f : Fmt) (dly : N8) (d : Dst) (a : Src) (me : Bool) (s : State) : Res :=
  xPlain1 s (fmtWidth f) dly d a me valu1 2 (fun _ v => v)
/-- The short form of VMOV: FP32 lanes without a mask (03 R56). -/
def execVmovShort (d a : Reg) (s : State) : Res := xPlain1 s 32 0 (.v d) (.v a) false valu1 2 (fun _ v => v)
def execVmovl (f : Fmt) (dly : N8) (d : Dst) (l : N8) (me : Bool) (s : State) : Res :=
  xPlain1 s (fmtWidth f) dly d (.l l) me valu1 2 (fun _ v => v)

/-- A word without vector operands that gives every active lane a value. -/
def xFill (s : State) (w : Nat) (dly : N8) (d : Dst) (me : Bool) (unit : XUnit) (lat : Nat) (reads : List Item) (f : Core → Nat → Nat) : Res :=
  let inp := s.me.vecIn dly d me [] unit lat
  let inp := { inp with reads := inp.reads ++ reads }
  xWord s inp (fun s _ =>
    s.xVector inp d w ((List.range (laneCount w)).map (fun i => if s.me.active me w i then some (f s.me i % 2 ^ w) else none)))

def execVbcast (f : Fmt) (dly : N8) (d : Dst) (x : N16) (me : Bool) (s : State) : Res :=
  xFill s (fmtWidth f) dly d me valu1 2 [.x x.val] (fun c _ => (c.getX x).toNat)
def vliValue (f : Fmt) (imm : BitVec 12) : Nat :=
  let w := fmtWidth f
  if (fmtBin f).isSome then imm.toNat * 2 ^ (w - 12) else wrapTo w imm.toInt
def execVli (f : Fmt) (dly : N8) (d : Dst) (imm : BitVec 12) (me : Bool) (s : State) : Res :=
  xFill s (fmtWidth f) dly d me valu1 2 [] (fun _ _ => vliValue f imm)

def execVperm (f : Fmt) (dly : N8) (d : Dst) (a b : Src) (me : Bool) (s : State) : Res :=
  let w := fmtWidth f
  let inp := s.me.vecIn dly d me [(a, w), (b, w)] valu1 2
  xWord s inp (fun s vs =>
    s.xVector inp d w ((List.range (laneCount w)).map (fun i =>
      if s.me.active me w i then
        let k := lane (vs.getD 1 0) w i
        some (if k < laneCount w then lane (vs.getD 0 0) w k else 0)
      else none)))
/-- VSLIDE: the amount is bits [31:0] of the register or of the x scalar (08 R172). -/
def execVslide (f : Fmt) (dly : N8) (d : Dst) (a b : Src) (me : Bool) (s : State) : Res :=
  let w := fmtWidth f
  let inp := s.me.vecIn dly d me [(a, w), (b, 32)] valu1 2
  xWord s inp (fun s vs =>
    let n := signedOf 32 (lane (vs.getD 1 0) 32 0)
    s.xVector inp d w ((List.range (laneCount w)).map (fun i =>
      if s.me.active me w i then
        let k : Int := i + n
        some (if 0 ≤ k ∧ k < laneCount w then lane (vs.getD 0 0) w k.toNat else 0)
      else none)))

/-! Conversion and quantisation (08 R173 to R175; 15 R323). -/

/-- Words that convert n elements of source width ws to result width wd, zero above them (08 R162). -/
def convVals (c : Core) (me : Bool) (ws wd n : Nat) (src : Vec) (f : Nat → Nat → Nat) : List (Option Nat) :=
  (List.range (laneCount wd)).map (fun j =>
    if n ≤ j then some 0 else if c.active me ws j then some (f j (lane src ws j) % 2 ^ wd) else none)

def execVcvt (dly : N8) (d : Dst) (a : Src) (sf df : CFmt) (me : Bool) (s : State) : Res :=
  let ws := cfmtWidth sf
  let wd := cfmtWidth df
  let n := 2048 / max ws wd
  let inp := s.me.vecIn dly d me [(a, ws)] vcvtU 3
  xWord s inp (fun s vs =>
    let c := s.me
    (s.setMe (c.takeSr n)).xVector inp d wd
      (convVals c me ws wd n (vs.getD 0 0) (fun j v => cfmtRound df (c.rounding j) (cfmtNum sf v))))

/-- A context may use a record: granted, or SUPERVISOR (13 R292). -/
def Core.albOk (c : Core) (n : Nat) : Bool :=
  let g := (c.sysReg 0x62).toNat
  c.sup || (field g 0 16 ≤ n && n < field g 0 16 + field g 16 17)

/-- VQNT; under QNTBIND it reports saturation to a record (08 R174, R175). -/
def execVqnt (dly : N8) (d : Dst) (a : Src) (qf : QFmt) (xs : N16) (me : Bool) (s : State) : Res :=
  let inp := s.me.vecIn dly d me [(a, 32)] vcvtU 3
  let inp := { inp with reads := inp.reads ++ [.x xs.val] }
  xWord s inp (fun s vs =>
    let c := s.me
    let qb := (c.sysReg 0x55).toNat
    let sh := c.sh.getD (field qb 0 4) 0
    let recno := field sh.toNat 360 16
    let upd := bitOf qb 4 && bitOf sh.toNat 376
    let trapf := bitOf qb 4 && bitOf sh.toNat 377
    if upd && !c.albOk recno then s.trap .privilege else
    let sc := (c.getX xs).toNat % 256
    let res := (List.range 64).map (fun j =>
      if c.active me 32 j then some (quantLane qf sc (c.rounding j) (lane (vs.getD 0 0) 32 j)) else none)
    let sats := res.countP (fun r => (r.map (fun x => x.2)).getD false)
    if 0 < sats && trapf then
      match s.trap .rescale with
      | .next s => .next (s.message s.now (.homeRequest s.myTile (.rescale recno)))
      | r => r
    else
      let s := if 0 < sats && upd then s.message (s.now + 3) (.albedoMergeIssue s.who.core .vqnt ⟨recno, 0, 0, 0, 0, sats, []⟩) else s
      (s.setMe (c.takeSr 64)).xVector inp d 8 (res.map (fun r => r.map (fun x => x.1)) ++ List.replicate 192 (some 0)))

def execVdqnt (dly : N8) (d : Dst) (a : Src) (qf : QFmt) (xs : N16) (me : Bool) (s : State) : Res :=
  let inp := s.me.vecIn dly d me [(a, 8)] vcvtU 3
  let inp := { inp with reads := inp.reads ++ [.x xs.val] }
  xWord s inp (fun s vs =>
    let c := s.me
    (s.setMe (c.takeSr 64)).xVector inp d 32
      (convVals c me 8 32 64 (vs.getD 0 0) (fun j v => dequantLane qf ((c.getX xs).toNat % 256) (c.rounding j) v)))

/-- QFIX and QFLT check two rows of 06 R134, then convert (15 R323). -/
def xQ32 (s : State) (dly : N8) (d : Dst) (a : Src) (sh : N16) (me : Bool) (f : Nat → Nat → Nat) : Res :=
  let inp := s.me.vecIn dly d me [(a, 32)] vcvtU 3
  xWord s inp (fun s vs =>
    let c := s.me
    let v := c.sh[sh].toNat
    if field v 421 91 ≠ 0 ∨ field v 378 2 ≠ 0 ∨ field v 352 8 ≠ 0 then s.trap .reservedField
    else if field v 416 5 = 31 then s.trap .shapeInvalid
    else s.xVector inp d 32 (convVals c me 32 32 64 (vs.getD 0 0) (fun _ x => f (field v 416 5) x)))
def execQfix (dly : N8) (d : Dst) (a : Src) (sh : N16) (me : Bool) (s : State) : Res := xQ32 s dly d a sh me qfixLane
def execQflt (dly : N8) (d : Dst) (a : Src) (sh : N16) (me : Bool) (s : State) : Res := xQ32 s dly d a sh me qfltLane

/-! The paired stream (15 R320, R324). -/

/-- REVADD and REVSUB: wrap on the active lanes, and the branch's bits into the seal. -/
def xRev (s : State) (dly : N8) (d : Dst) (a b : Src) (me : Bool) (op : Int → Int → Int) : Res :=
  let inp := s.me.vecIn dly d me [(a, 32), (b, 32)] vcvtU 3
  let inp := { inp with writes := .sealAcc :: inp.writes }
  xWord s inp (fun s vs =>
    let c := s.me
    let act := (List.range 64).filter (fun i => c.active me 32 i)
    let bs := act.flatMap (fun i => (leBytes 4 (lane (vs.getD 1 0) 32 i)).map (fun b => b.toNat))
    s.xVector inp d 32 ((List.range 64).map (fun i =>
      if c.active me 32 i then some (wrapTo 32 (op (lane (vs.getD 0 0) 32 i) (lane (vs.getD 1 0) 32 i))) else none)) (.add bs))
def execRevadd (dly : N8) (d : Dst) (a b : Src) (me : Bool) (s : State) : Res := xRev s dly d a b me (· + ·)
def execRevsub (dly : N8) (d : Dst) (a b : Src) (me : Bool) (s : State) : Res := xRev s dly d a b me (· - ·)
def execSealclr (dly : N8) (s : State) : Res :=
  let inp : XIn := { dly := dly.val, writes := [.sealAcc] }
  xWord s inp (fun s _ => .next (s.xResult inp .none 0 .clear))
def execSealget (dly : N8) (xd : N16) (s : State) : Res := xScalarWord s dly.val xd [.sealAcc] (fun c => c.xr.sealAcc)

/-! Special functions and random lanes (08 R178, R179). -/

def xSpecial (s : State) (f : Fmt) (dly : N8) (d : Dst) (a : Src) (me : Bool) (g : Num → Num) : Res :=
  xPlain1 s (fmtWidth f) dly d a me vsfu 8 (fun c v => roundLane f ⟨.rne, 0, c.xSat⟩ (g (laneNum f v)))
def execVexp2 (f : Fmt) (dly : N8) (d : Dst) (a : Src) (me : Bool) (s : State) : Res := xSpecial s f dly d a me exp2Num
def execVlog2 (f : Fmt) (dly : N8) (d : Dst) (a : Src) (me : Bool) (s : State) : Res := xSpecial s f dly d a me log2Num
def execVrcp (f : Fmt) (dly : N8) (d : Dst) (a : Src) (me : Bool) (s : State) : Res := xSpecial s f dly d a me rcpNum
def execVrsqrt (f : Fmt) (dly : N8) (d : Dst) (a : Src) (me : Bool) (s : State) : Res := xSpecial s f dly d a me rsqrtNum
def execVtanh (f : Fmt) (dly : N8) (d : Dst) (a : Src) (me : Bool) (s : State) : Res := xSpecial s f dly d a me tanhNum

def execVrnd (raw : Bool) (dly : N8) (d : Dst) (xs xb : N16) (me : Bool) (s : State) : Res :=
  xFill s 32 dly d me vsfu 8 [.x xs.val, .x xb.val] (fun c i =>
    let k := (c.getX xs).toNat
    let r := draw (field k 0 32) (field k 32 32) ((c.getX xb).toNat + i)
    if raw then r else fp32.round rne (.fin false (r / 256) (-24)))

/-! Reductions, scan, sort (08 R180 to R182). -/

/-- The active lanes of a vector, none where inactive. -/
def activeLanes (c : Core) (me : Bool) (w : Nat) (v : Vec) : List (Option Nat) :=
  (List.range (laneCount w)).map (fun i => if c.active me w i then some (lane v w i) else none)
/-- A reduction writes lane 0 of width wd and zero above it; the mask selects inputs only. -/
def xReduce (s : State) (f : Fmt) (wd : Nat) (dly : N8) (d : Dst) (a : Src) (me : Bool) (g : Core → List (Option Nat) → Nat) : Res :=
  let w := fmtWidth f
  let inp : XIn := { dly := dly.val, srcs := [(a, w)], reads := if me then [.m s.me.xMaskNo.val] else [],
                     writes := s.me.dstItems d, qd := dstQueue d, unit := vred, lat := 6 }
  xWord s inp (fun s vs =>
    let c := s.me
    s.xVector inp d wd ((List.range (laneCount wd)).map (fun j =>
      some (if j = 0 then g c (activeLanes c me w (vs.getD 0 0)) % 2 ^ wd else 0))))
def execVredsum (f : Fmt) (dly : N8) (d : Dst) (a : Src) (me : Bool) (s : State) : Res :=
  xReduce s f 32 dly d a me (fun c => redSum f c.xSat)
def execVredmax (f : Fmt) (dly : N8) (d : Dst) (a : Src) (me : Bool) (s : State) : Res :=
  xReduce s f (fmtWidth f) dly d a me (fun _ => redExtreme f true)
def execVredmin (f : Fmt) (dly : N8) (d : Dst) (a : Src) (me : Bool) (s : State) : Res :=
  xReduce s f (fmtWidth f) dly d a me (fun _ => redExtreme f false)
def execVredarg (f : Fmt) (dly : N8) (d : Dst) (a : Src) (mn me : Bool) (s : State) : Res :=
  xReduce s f 32 dly d a me (fun _ => redArg f mn)

def execVscan (f : Fmt) (dly : N8) (d : Dst) (a : Src) (me : Bool) (s : State) : Res :=
  let inp := s.me.vecIn dly d me [(a, 32)] vred 8
  xWord s inp (fun s vs =>
    let c := s.me
    let xs := activeLanes c me 32 (vs.getD 0 0)
    s.xVector inp d 32 (if f = .f32 then scanFloat ⟨.rne, 0, c.xSat⟩ none xs else scanInt c.xSat 0 xs) .none 2)

/-- VSORTK writes all lanes; its latch receives the payloads. -/
def execVsortk (f : Fmt) (dly : N8) (d : Dst) (a b : Src) (me : Bool) (s : State) : Res :=
  let inp : XIn := { dly := dly.val, srcs := [(a, 32), (b, 32)], reads := if me then [.m s.me.xMaskNo.val] else [],
                     writes := s.me.dstItems d, qd := dstQueue d, unit := vred, lat := 12 }
  xWord s inp (fun s vs =>
    let c := s.me
    let all := (List.range 64).map (fun i => (i, lane (vs.getD 0 0) 32 i, lane (vs.getD 1 0) 32 i))
    let act := all.filter (fun e => c.active me 32 e.1)
    let ina := all.filter (fun e => !c.active me 32 e.1)
    let order := sortDesc f (act.map (fun e => e.2)) ++ ina.map (fun e => e.2)
    let keys := ofLanes 32 (order.map (fun e => if laneNan f e.1 then nanOf f else e.1))
    let pays := ofLanes 32 (order.map (fun e => e.2))
    let dst : FDst := match d with
      | .v n => .v (physV c.xo.rrb n) keys
      | .q n => .q n.val keys (BitVec.allOnes 256)
      | .none => .none
    .next (s.xResult inp dst pays .none 4))

/-! X scalars and known answers (08 R183, R184). -/

def execXli (x : N16) (imm : BitVec 19) (s : State) : Res := xScalarWord s 0 x [] (fun _ => imm.signExtend 64)
def execXaddi (x a : N16) (imm : BitVec 15) (s : State) : Res :=
  xScalarWord s 0 x [.x a.val] (fun c => c.getX a + imm.signExtend 64)
/-- The short form of XADDI (03 R56). -/
def execXaddiShort (x : N16) (imm : BitVec 7) (s : State) : Res :=
  xScalarWord s 0 x [.x x.val] (fun c => c.getX x + imm.signExtend 64)
def laneBits : LaneW → Nat | .b => 8 | .h => 16 | .w => 32 | .d => 64
def execXlane (x : N16) (v : Src) (wd : LaneW) (ln : Fin 256) (s : State) : Res :=
  let inp : XIn := { srcs := [(v, laneBits wd)], writes := [.x x.val], lat := 2 }
  xWord s inp (fun s vs => .next (s.xResult inp (.x x.val (BitVec.ofNat 64 (lane (vs.getD 0 0) (laneBits wd) ln.val))) 0))

def execKatchk (dly : N8) (v : Src) (k : Word) (s : State) : Res :=
  let inp : XIn := { dly := dly.val, srcs := [(v, 8)] }
  xWord s inp (fun s vs =>
    let c := crc64 0 (lanesOf (vs.getD 0 0) 8)
    if c = k.toNat then .next (s.setMe (s.me.popSrcs inp.srcs)).retire
    else s.trap .katMismatch 0 c)

/-! Exits and branch queues of the X stream (05 R104; 07 R152). -/

def xExit (s : State) (g : Guard) {n : Nat} (off : BitVec n) : Res :=
  xWord s { guard := g } (fun s _ => s.takeExit (exitTo s.pos.pc off))
def execExitX (g : Guard) (off : BitVec 18) (s : State) : Res := xExit s g off
def execExitXShort (g : Guard) (off : BitVec 7) (s : State) : Res := xExit s g off

/-- A branch queue has no room (07 R139); a head is ready to be read. -/
def Core.bqFull (c : Core) (q : Fin 4) : Bool := 32 ≤ c.q.bq[q].length
def Core.bqReady (c : Core) (now : Nat) (q : Fin 4) : Bool := match c.q.bq[q] with | e :: _ => e.2 ≤ now && c.bqOpen q < c.q.bq[q].length | [] => false
def Core.bqPush (c : Core) (q : Fin 4) (v : Byte) (now : Nat) : Core :=
  { c with q := { c.q with bq := c.q.bq.set q (c.q.bq[q] ++ [(v, now + 1)]) } }
def Core.bqHead (c : Core) (q : Fin 4) : Byte := (c.q.bq[q].head?.map (fun e => e.1)).getD 0
def Core.bqPop (c : Core) (q : Fin 4) : Core := { c with q := { c.q with bq := c.q.bq.set q (c.q.bq[q].drop 1) } }
def predByte (b : Bool) : Byte := if b then 1 else 0

def execBqputX (g : Guard) (op : BqX) (q : Fin 4) (s : State) : Res :=
  let inp : XIn := { guard := g, qwait := s.me.bqFull q,
                     reads := match op with | .pred p => if p = 0 then [] else [.p p.val] | .x r => [.x r.val] }
  xWord s inp (fun s _ =>
    let c := s.me
    let v := match op with | .pred p => predByte (c.pred .x p) | .x r => (c.getX r).setWidth 8
    .next (s.setMe { c.bqPush q v s.now with scales := c.scales.map (fun v => { v with bqPut := v.bqPut ++ [q] }) }).retire)

def execBqgetX (g : Guard) (op : BqX) (q : Fin 4) (s : State) : Res :=
  let inp : XIn := { guard := g, qwait := !s.me.bqReady s.now q,
                     writes := match op with | .pred p => [.p p.val] | .x r => [.x r.val] }
  xWord s inp (fun s _ =>
    let c := s.me
    let v := c.bqHead q
    let dst : FDst := match op with | .pred p => .p p.val (v != 0) | .x r => .x r.val (v.setWidth 64)
    let scales := c.scales.map (fun v => { v with bqTaken := v.bqTaken ++ (c.q.bq[q].take 1).map (fun e => (q, e)) })
    .next ((s.setMe { c.bqPop q with scales := scales }).xResult inp dst 0))

end Sys2Proof.Machine
end

