-- ==== Sys2Proof/Machine/ScalarMem.lean ====
section
/-! DEFINITION. The C stream's loads and stores of scalars and shapes, and the words that read and write shape fields
(06 R128 to R137). -/

namespace Sys2Proof.Machine

/-- LD reads at issue, under the run's held stores, and delivers after the time of the memory reached (06 R129). -/
def execLd (g : Guard) (wd : MemW) (r b : Reg) (disp : BitVec 8) (s : State) : Res :=
  cWord s g [b] (fun c => s.cRead (scalarEa (c.getS b) disp (memSize wd)) (memSize wd)
    (fun s bs time => .next ((s.cWrite r (memExtend wd (leNat bs)) time).retire.after time (.dramReadReturn s.who.core 0))))

/-- ST is held with its address and value (06 R129). -/
def execSt (g : Guard) (wd : MemW) (r b : Reg) (disp : BitVec 8) (s : State) : Res :=
  cHold s g [r, b] (fun c =>
    .st (scalarEa (c.getS b) disp (memSize wd)) (memSize wd) ((c.getS r).toNat % 256 ^ memSize wd) false)

/-- LDS is held whole: it reads in phase 2 of commit (06 R130). -/
def execLds (g : Guard) (wd : MemW) (r b : Reg) (disp : BitVec 8) (s : State) : Res :=
  cHold s g [b] (fun c => .lds (scalarEa (c.getS b) disp (memSize wd)) wd r)

def execSts (g : Guard) (wd : MemW) (r b : Reg) (disp : BitVec 8) (s : State) : Res :=
  cHold s g [r, b] (fun c =>
    .st (scalarEa (c.getS b) disp (memSize wd)) (memSize wd) ((c.getS r).toNat % 256 ^ memSize wd) true)

/-! Shapes. A shape loaded by SHLD is delivered like a register; its key follows those of the s registers. -/

def shapeKey (sh : N16) : Nat := 32 + sh.val
/-- A C word that reads a shape waits for its SHLD (06 R122). SHSET, of which the rule does not speak, waits too, so that its field
lands in what SHLD delivers (notes/assumptions/58.md, DESIGN CHOICE, unsafe). -/
def cShape (s : State) (g : Guard) (srcs : List Reg) (sh : N16) (k : Core → Res) : Res :=
  cWord s g srcs (fun c => if c.c.ready.any (fun e => e.1 == shapeKey sh && s.now < e.2) then .next s else k c)

def execShld (g : Guard) (sh : N16) (b : Reg) (disp : BitVec 11) (s : State) : Res :=
  cWord s g [b] (fun c => s.cRead (scalarEa (c.getS b) disp 64) 64
    (fun s bs time =>
      let c := s.me.setShapeC sh (BitVec.allOnes 512) (BitVec.ofNat 512 (leNat bs))
      let ready := c.c.ready.filter (fun e => s.now < e.2 && e.1 != shapeKey sh) ++ [(shapeKey sh, s.now + time)]
      .next ((s.setMe { c with c := { c.c with ready := ready } }).retire.after time (.dramReadReturn s.who.core 0))))

def execShst (g : Guard) (sh : N16) (b : Reg) (disp : BitVec 11) (s : State) : Res :=
  cShape s g [b] sh (fun c => .next (s.hold (.shst (scalarEa (c.getS b) disp 64) (c.shapeC sh))).retire)

/-- Lowest bit and width of a shape field (06 R132). -/
def shFieldAt : ShField → Nat × Nat
  | .base => (0, 64) | .ext0 => (64, 32) | .ext1 => (96, 32) | .ext2 => (128, 32) | .ext3 => (160, 32)
  | .str1 => (192, 48) | .str2 => (240, 48) | .str3 => (288, 48) | .fmt => (336, 8) | .layout => (344, 16)
  | .albn => (360, 16) | .albf => (376, 4) | .gver => (380, 16) | .sync => (396, 20) | .qfrac => (416, 5)
def shFieldSigned (f : ShField) : Bool := f == .str1 || f == .str2 || f == .str3
/-- A field of a shape. -/
def shField (sh : Shape) (f : ShField) : Nat := field sh.toNat (shFieldAt f).1 (shFieldAt f).2
def setShField (sh : Shape) (f : ShField) (v : Nat) : Shape :=
  let (lo, w) := shFieldAt f
  BitVec.ofNat 512 (sh.toNat - field sh.toNat lo w * 2 ^ lo + v % 2 ^ w * 2 ^ lo)
/-- The value fits the field and sets no reserved bit of LAYOUT or ALBF (06 R136). -/
def shSetOk (f : ShField) (v : Word) : Bool :=
  if shFieldSigned f then v == sextTo 48 v
  else v.toNat < 2 ^ (shFieldAt f).2
    && (match f with | .layout => field v.toNat 8 8 == 0 | .albf => field v.toNat 2 2 == 0 | _ => true)

def execShset (g : Guard) (v : Reg) (sh : N16) (f : ShField) (s : State) : Res :=
  cShape s g [v] sh (fun c =>
    if shSetOk f (c.getS v) then .next (s.setMe (c.setShapeC sh (setShField 0 f (2 ^ 64 - 1)) (setShField 0 f (c.getS v).toNat))).retire
    else s.trap .reservedField)

def execShget (g : Guard) (v : Reg) (sh : N16) (f : ShField) (s : State) : Res :=
  cShape s g [] sh (fun c =>
    let x := shField (c.shapeC sh) f
    .next (s.cWrite v (if shFieldSigned f then sextTo 48 (BitVec.ofNat 64 x) else BitVec.ofNat 64 x) 1).retire)

end Sys2Proof.Machine
end

