-- ==== Sys2Proof/Machine/Shapes.lean ====
section
/-! DEFINITION. Shapes as descriptions of operands: their checks, element addresses and spans (06 R132 to R134; 09 R193, R195). -/

namespace Sys2Proof.Machine

/-- Bytes of an element by FMT code (04 R67). -/
def esize (fmt : Nat) : Nat :=
  match fmt with
  | 1 => 4 | 2 => 2 | 3 => 2 | 8 => 2 | 9 => 4 | 10 => 4 | _ => 1

def Shape.base (sh : Shape) : Nat := field sh.toNat 0 64
def Shape.ext (sh : Shape) (k : Nat) : Nat := field sh.toNat (64 + 32 * k) 32
/-- STR1 to STR3, for k 1 to 3. -/
def Shape.str (sh : Shape) (k : Nat) : Int := signedOf 48 (field sh.toNat (192 + 48 * (k - 1)) 48)
def Shape.fmt (sh : Shape) : Nat := field sh.toNat 336 8
def Shape.zord (sh : Shape) : Bool := bitOf sh.toNat 344
def Shape.swap (sh : Shape) : Bool := bitOf sh.toNat 345
def Shape.leaf (sh : Shape) : Nat := field sh.toNat 346 2
def Shape.tsz (sh : Shape) : Nat := field sh.toNat 348 4
def Shape.albn (sh : Shape) : Nat := field sh.toNat 360 16
def Shape.upd (sh : Shape) : Bool := bitOf sh.toNat 376
def Shape.gver (sh : Shape) : Nat := field sh.toNat 380 16
/-- Number of the bound sync object: tile, then slot (06 R132). -/
def Shape.sync (sh : Shape) : Nat := field sh.toNat 396 20
def Shape.qfrac (sh : Shape) : Nat := field sh.toNat 416 5
def Shape.esz (sh : Shape) : Nat := esize (Shape.fmt sh)
def Shape.count (sh : Shape) : Nat := Shape.ext sh 0 * Shape.ext sh 1 * Shape.ext sh 2 * Shape.ext sh 3

/-- The extent row of 06 R134. -/
def Shape.noExtent (sh : Shape) : Bool := [0, 1, 2, 3].any (fun k => Shape.ext sh k == 0)

/-- The checks of a shape-reading use in their order (06 R134, 13 R292). -/
def shapeCheck (c : Core) (sh : Shape) : Option Cause :=
  let n := sh.toNat
  if field n 421 91 ≠ 0 ∨ field n 378 2 ≠ 0 ∨ field n 352 8 ≠ 0 then some .reservedField
  else if Shape.upd sh && !c.albOk (Shape.albn sh) then some .privilege
  else if Shape.fmt sh = 10 ∧ Shape.qfrac sh = 31 then some .shapeInvalid
  else if Shape.fmt sh = 0 ∨ 11 < Shape.fmt sh then some .shapeInvalid
  else if Shape.noExtent sh then some .shapeInvalid
  else if Shape.leaf sh ≠ 0 ∨ (Shape.swap sh ∧ ¬ Shape.zord sh) ∨ (Shape.zord sh ∧ (Shape.tsz sh < 2 ∨ 7 < Shape.tsz sh)) then
    some .shapeInvalid
  else if Shape.base sh % Shape.esz sh ≠ 0 then some .align
  else none

/-- Interleave two numbers, the first in the even bits (09 R195). -/
def interleave (a b : Nat) : Nat :=
  (List.range 8).foldl (fun r k => r + b2n (bitOf a k) * 2 ^ (2 * k) + b2n (bitOf b k) * 2 ^ (2 * k + 1)) 0

/-- Address of element (i0, i1, i2, i3) before the wrap modulo 2^64 (06 R133, 09 R195). -/
def elemOffset (sh : Shape) (i0 i1 i2 i3 : Nat) : Int :=
  if Shape.zord sh then
    let (r, c) := if Shape.swap sh then (i0, i1) else (i1, i0)
    let z := Shape.tsz sh
    let t := 2 ^ z
    let leaf := r % 4 * 4 + c % 4
    let m := interleave (c % t / 4) (r % t / 4)
    ((c / t) * (t * t * Shape.esz sh) : Int) + (r / t : Int) * Shape.str sh 1 + ((16 * m + leaf) * Shape.esz sh : Int)
  else (i0 * Shape.esz sh : Int) + (i1 : Int) * Shape.str sh 1 + (i2 : Int) * Shape.str sh 2 + (i3 : Int) * Shape.str sh 3
def elemAddr (sh : Shape) (i0 i1 i2 i3 : Nat) : Nat := wrapTo 64 (Shape.base sh + elemOffset sh i0 i1 i2 i3)

/-- Lowest and highest byte offset of any element from BASE. -/
def shapeReach (sh : Shape) : Int × Int :=
  let lo1 (n : Nat) (st : Int) : Int := min 0 ((n - 1 : Int) * st)
  let hi1 (n : Nat) (st : Int) : Int := max 0 ((n - 1 : Int) * st)
  if Shape.zord sh then
    let t := 2 ^ Shape.tsz sh
    let (rows, cols) := if Shape.swap sh then (Shape.ext sh 0, Shape.ext sh 1) else (Shape.ext sh 1, Shape.ext sh 0)
    let tr := (rows + t - 1) / t
    let tc := (cols + t - 1) / t
    (lo1 tr (Shape.str sh 1), hi1 tr (Shape.str sh 1) + (tc * t * t * Shape.esz sh : Int) - 1)
  else
    (lo1 (Shape.ext sh 1) (Shape.str sh 1) + lo1 (Shape.ext sh 2) (Shape.str sh 2) + lo1 (Shape.ext sh 3) (Shape.str sh 3),
     hi1 (Shape.ext sh 1) (Shape.str sh 1) + hi1 (Shape.ext sh 2) (Shape.str sh 2) + hi1 (Shape.ext sh 3) (Shape.str sh 3)
       + (Shape.ext sh 0 * Shape.esz sh : Int) - 1)

/-- A span of virtual addresses as window offsets: where it lies (09 R193). -/
inductive SpanAt
  | scr (lo hi : Nat)
  | acc
  | straddle
  | dev (lo hi : Int)

/-- Both ends of a span in a window, one, or none. A span that covers the whole accumulator window with both its ends outside counts as
device memory: 09 R193 does not say whether it lies in the window (notes/assumptions/61.md, DESIGN CHOICE, unsafe). -/
def spanAt (lo hi : Int) : SpanAt :=
  let l := wrapTo 64 lo
  let h := wrapTo 64 hi
  if inAccWindow l || inAccWindow h then .acc
  else if inScratchWindow l && inScratchWindow h then .scr (minus l scrBase) (minus h scrBase)
  else if inScratchWindow l || inScratchWindow h then .straddle
  else if lo < (scrBase : Int) ∧ (scrBase : Int) + 0x80_0000 ≤ hi then .straddle
  else .dev lo hi

/-- Two spans of a tile share a byte. -/
def Span.meets (a b : Span) : Bool := a.scr == b.scr && a.lo ≤ b.hi && b.lo ≤ a.hi

end Sys2Proof.Machine
end

