-- ==== Sys2Proof/Machine/Sync.lean ====
section
/-! DEFINITION. Sync objects and their home, atomics (10 R217, R221 to R229). -/

namespace Sys2Proof.Machine

/-! Words of accumulator SRAM by their offset in the accumulator window (10 R217). -/

def accTile (off : Nat) : Nat := off / 0x40_0000
def accPlane (off : Nat) : Nat := off % 0x40_0000 / 0x1_0000
/-- Offset of a sync object (10 R215, R226). -/
def syncOff (obj : Nat) : Nat := obj / 4096 * 0x40_0000 + 0x3F_8000 + 8 * (obj % 4096)

/-- A sync object's fields (10 R226); its reserved bits read as zero (00 R8). -/
structure SyncWord where
  ver    : Nat
  target : Nat
  count  : Nat
  holder : Nat
  state  : Nat
  kind   : Nat
  deriving DecidableEq, Repr

def SyncWord.ofNat (w : Nat) : SyncWord :=
  ⟨field w 48 16, field w 32 16, field w 16 16, field w 6 10, field w 3 3, field w 0 1⟩
def SyncWord.toNat (w : SyncWord) : Nat :=
  w.ver % 2 ^ 16 * 2 ^ 48 + w.target % 2 ^ 16 * 2 ^ 32 + w.count % 2 ^ 16 * 2 ^ 16 + w.holder % 2 ^ 10 * 2 ^ 6
    + w.state % 8 * 8 + w.kind % 2

/-- What a home answers: done with the new word, a wait, or a trap. -/
inductive HomeAns
  | done (w : Nat)
  | wait
  | refuse (c : Cause)
  deriving DecidableEq, Repr

/-- An inconsistent image (10 R227). -/
def SyncWord.inconsistent (w : SyncWord) : Bool :=
  5 ≤ w.state || (w.kind == 1 && w.state ≤ 1) || (w.kind == 0 && (w.state == 2 || w.state == 3)) || (w.kind == 1 && w.target == 0)

/-- ACQ by a core (10 R228). -/
def SyncWord.acq (w : SyncWord) (core : Nat) : HomeAns :=
  if w.state = 4 then .refuse .syncPoisoned
  else if w.inconsistent then .refuse .syncMisuse
  else if w.kind = 0 then
    if w.state = 0 then .done { w with state := 1, holder := core }.toNat
    else if w.holder = core then .refuse .syncMisuse
    else .wait
  else if w.state = 3 then .done w.toNat
  else .wait

/-- REL by a core (10 R228). -/
def SyncWord.rel (w : SyncWord) (core : Nat) : HomeAns :=
  if w.state = 4 then .refuse .syncPoisoned
  else if w.inconsistent then .refuse .syncMisuse
  else if w.kind = 0 then
    if w.state = 1 ∧ w.holder = core then .done { w with state := 0, ver := w.ver + 1 }.toNat
    else .refuse .syncMisuse
  else
    let count := if w.state = 3 then 1 else w.count + 1
    if count = w.target then .done { w with count := count, holder := core, state := 3, ver := w.ver + 1 }.toNat
    else .done { w with count := count, holder := core, state := 2 }.toNat

/-- A LOCK held by a core is poisoned when the core is reset, its tile is eclipsed or its context ends (10 R228). -/
def SyncWord.poison (w : SyncWord) (core : Nat) : Nat :=
  if w.kind = 0 ∧ w.state = 1 ∧ w.holder = core then { w with state := 4 }.toNat else w.toNat

/-- A word at an offset of the accumulator window as it is read and written: the reserved bits of a sync object are zero (00 R8). -/
def maskObject (off w : Nat) : Nat := if accPlane off = 63 ∧ 0x8000 ≤ off % 0x1_0000 then (SyncWord.ofNat w).toNat else w

def State.accWord (s : State) (off n : Nat) : Nat := s.accum.num off n
/-- A word that is written whole holds no error any more (18 R375). -/
def State.setAccWord (s : State) (off n v : Nat) : State :=
  { s with accum := s.accum.setNum off n v, badAcc := mendWords s.badAcc off n }

/-- After a change of a word, its waiters are tried again in the next cycle. -/
def State.wake (s : State) (key : Nat) : State :=
  if s.waiters.any (fun w => w.key == key) then s.after 1 (.syncAccept key) else s

/-- The LOCKs that name a core as their holder: the doublewords of the tiles' sync objects that hold anything. One whose word is in
error cannot be told. -/
def State.locksHeld (s : State) (core : Nat) : List Nat :=
  ((s.accum.map (fun c => c.1 / 8 * 8)).eraseDups.filter (fun o => accPlane o == 63 && 0x8000 ≤ o % 0x1_0000)).filter (fun o =>
    let w := SyncWord.ofNat (s.accWord o 8)
    w.kind == 0 && w.state == 1 && w.holder == core && !s.badAcc.contains o)
/-- Those that the context on the core holds: a context that was pre-empted there keeps its own (10 R228). -/
def State.locksOf (s : State) (core : Nat) : List Nat :=
  let saved := (s.saves.filter (fun v => v.core == core)).flatMap (fun v => v.locks)
  (s.locksHeld core).filter (fun o => !saved.contains o)
/-- Poison LOCKs that a core holds: its context's where that ends; every one that names the core where the core is reset or its tile is
eclipsed (10 R228; notes/assumptions/50.md, DEDUCED, unsafe). -/
def State.poisonLocks (s : State) (core : Nat) (locks : List Nat) : State :=
  locks.foldl (fun s o => (s.setAccWord o 8 ((SyncWord.ofNat (s.accWord o 8)).poison core)).wake o) s

/-- The fence of a tile at router level makes its homes unreachable (10 R222, R228). -/
def State.routerFenced (s : State) (tile : Nat) : Bool := s.fencedR.contains tile

/-- A word reserved for another run (05 R101). -/
def State.reservedFrom (s : State) (key : Nat) (core : Option Nat) : Bool :=
  s.reserved.any (fun e => e.1 == key && core != some e.2)

/-- An acquire or release that an engine makes at the object at an offset, as one action (10 R235). -/
def State.engineSync (s : State) (core off : Nat) (rel : Bool) : HomeAns :=
  if s.routerFenced (accTile off) then .refuse .destEclipsed
  else if s.reservedFrom off none then .wait
  else if s.badAcc.contains off then .refuse .eccAcc
  else
    let w := SyncWord.ofNat (s.accWord off 8)
    if rel then w.rel core else w.acq core

/-! Requests to homes and the ports of the planes (10 R218, R228). -/

/-- The plane of an offset in the accumulator window, numbered over all tiles. -/
def planeNo (off : Nat) : Nat := off / 0x1_0000
/-- The port of a plane has served a request in this cycle. -/
def State.planeTaken (s : State) (plane : Nat) : Bool := Map.get 0 (s.tile (plane / 64)).served (plane % 64) == s.now + 1
def State.takePlane (s : State) (plane : Nat) : State :=
  s.modTile (plane / 64) (fun t => { t with served := Map.set t.served (plane % 64) (s.now + 1) })

/-! Atomics (10 R222). -/

/-- The new word of an atomic of `size` bytes; `old` as read. -/
def atomicNew (op : AtOp) (size old : Nat) (opnd cmp : Word) : Nat :=
  let m := 2 ^ (8 * size)
  let sg (x : Nat) : Int := signedOf (8 * size) x
  let b := opnd.toNat % m
  match op with
  | .add => (old + b) % m
  | .min => if sg b < sg old then b else old
  | .max => if sg old < sg b then b else old
  | .and => old &&& b
  | .or => old ||| b
  | .xor => old ^^^ b
  | .swp => b
  | .cas => if old = cmp.toNat % m then b else old

/-- The planes an atomic may reach (10 R217). -/
def atomicPlaneOk (sup dw : Bool) (op : AtOp) (off : Nat) : Bool :=
  let p := accPlane off
  p ≤ 61 || (p == 62 && sup) || (p == 63 && sup && dw && (op == .swp || op == .cas) && 0x8000 ≤ off % 0x1_0000)

/-- The checks of an atomic in phase 1 (10 R222). -/
def State.atomicCheck (s : State) (sup dw : Bool) (op : AtOp) (ea : Nat) : Option Cause :=
  let size := if dw then 8 else 4
  if ea % size ≠ 0 then some .align
  else if !inAccWindow ea then some .atomicTarget
  else if !atomicPlaneOk sup dw op (minus ea accBase) then some .accBounds
  else if s.routerFenced (accTile (minus ea accBase)) then some .destEclipsed
  else if s.badAcc.contains ((minus ea accBase) / 8 * 8) then some .eccAcc
  else none

/-! The words (held until commit). -/

def cAtomic (op : AtOp) (g : Guard) (dw : Bool) (d a b : Reg) (s : State) : Res :=
  let srcs := if op = .cas then [a, b, d] else [a, b]
  cHold s g srcs (fun c => .atomic op dw (c.getS a).toNat (c.getS b) (c.getS d) d)
def execAmadd (g : Guard) (dw : Bool) (d a b : Reg) (s : State) : Res := cAtomic .add g dw d a b s
def execAmmin (g : Guard) (dw : Bool) (d a b : Reg) (s : State) : Res := cAtomic .min g dw d a b s
def execAmmax (g : Guard) (dw : Bool) (d a b : Reg) (s : State) : Res := cAtomic .max g dw d a b s
def execAmand (g : Guard) (dw : Bool) (d a b : Reg) (s : State) : Res := cAtomic .and g dw d a b s
def execAmor (g : Guard) (dw : Bool) (d a b : Reg) (s : State) : Res := cAtomic .or g dw d a b s
def execAmxor (g : Guard) (dw : Bool) (d a b : Reg) (s : State) : Res := cAtomic .xor g dw d a b s
def execAmswp (g : Guard) (dw : Bool) (d a b : Reg) (s : State) : Res := cAtomic .swp g dw d a b s
def execAmcas (g : Guard) (dw : Bool) (d a b : Reg) (s : State) : Res := cAtomic .cas g dw d a b s

def execBind (g : Guard) (o b len : Reg) (s : State) : Res :=
  cHold s g [o, b, len] (fun c => .bind (c.getS o) (c.getS b) (c.getS len))
def execUnbind (g : Guard) (o : Reg) (s : State) : Res := cHold s g [o] (fun c => .unbind (c.getS o))
def execAcq (g : Guard) (o : Reg) (sc : Scope) (s : State) : Res := cHold s g [o] (fun c => .acq (c.getS o) sc)
def execRel (g : Guard) (o : Reg) (sc : Scope) (s : State) : Res := cHold s g [o] (fun c => .rel (c.getS o) sc)
def execFence (g : Guard) (sc : Scope) (s : State) : Res := cHold s g [] (fun _ => .fence sc)

end Sys2Proof.Machine
end

