-- ==== Sys2Proof/Machine/Albedo.lean ====
section
/-! DEFINITION. Albedo records: what writers fold into them, merges, QSCALE and the requests a record's home performs (13; 08 R176,
R177; 01 R408). -/

namespace Sys2Proof.Machine

def State.recNum (s : State) (n at_ len : Nat) : Nat := s.accum.num (recOff n + at_) len
def State.setRec (s : State) (n at_ len v : Nat) : State := { s with accum := s.accum.setNum (recOff n + at_) len v }
/-- CTRL at byte 24 (13 R284). -/
def State.recCtrl (s : State) (n : Nat) : Nat := s.recNum n 24 4
def State.recAlloc (s : State) (n : Nat) : Bool := bitOf (s.recCtrl n) 31
def State.recBad (s : State) (n : Nat) : Bool := bitOf (s.recCtrl n) 28
def setBit (v k : Nat) (b : Bool) : Nat := v - b2n (bitOf v k) * 2 ^ k + b2n b * 2 ^ k
/-- An uncorrectable error in one of the record's words. -/
def State.recEcc (s : State) (n : Nat) : Bool := s.badAcc.any (fun o => recOff n ≤ o && o < recOff n + 128)

/-! Folding (13 R285, R286). -/

/-- An element by FMT code as a number. -/
def fmtNum (fmt qfrac code : Nat) : Num :=
  match fmt with
  | 1 => fp32.decode code
  | 2 => fp16.decode code
  | 3 => bf16.decode code
  | 4 => e5m2.decode code
  | 5 => t8Decode code
  | 6 => .ofInt (signedOf 8 code)
  | 7 => .ofInt code
  | 8 => .ofInt (signedOf 16 code)
  | 9 => .ofInt (signedOf 32 code)
  | 10 => (Num.ofInt (signedOf 32 code)).scale (-(qfrac : Int))
  | _ => if code = 255 then .nan else .fin false 1 ((code : Int) - 127)

def Partial.empty (n : Nat) : Partial := ⟨n, 0, 0, 0, 0, 0, []⟩

/-- Add 1 to a bin; bins stand in ascending order. -/
def histAdd (h : List (Nat × Nat)) (b : Nat) : List (Nat × Nat) := Map.set h b (Map.get 0 h b + 1)

/-- One element into a partial; the bin is taken after the rounding under RUP (13 R285). -/
def foldElem (fmt qfrac : Nat) (p : Partial) (code : Nat) : Partial :=
  match fmtNum fmt qfrac code with
  | .nan => { p with nanc := p.nanc + 1 }
  | .inf _ => { p with infc := p.infc + 1 }
  | .fin _ m e =>
    if m = 0 then { p with zeroc := p.zeroc + 1 }
    else
      let c := fp32.round ⟨.rup, 0, false⟩ (.fin false m e)
      let ex : Int := match fp32.decode c with | .fin _ m e => Nat.log2 m + e | _ => 128
      let b := (max 0 (min 31 ((ex + 32) / 2))).toNat
      { p with maxabs := max p.maxabs c, hist := histAdd p.hist b }

/-- The partial of a write group; none where it counts no element (13 R286). -/
def foldGroup (recno fmt qfrac : Nat) (codes : List Nat) : Option Partial :=
  if codes = [] then none else some (codes.foldl (foldElem fmt qfrac) (Partial.empty recno))

/-! Merges (13 R287 to R289). -/

def satAdd (bits a b : Nat) : Nat := min (a + b) (2 ^ bits - 1)

/-- One merge as one action at its record (13 R287). -/
def State.applyMerge (s : State) (p : Partial) : State :=
  let n := p.recno
  if !s.recAlloc n then s.modDie (dieOf (n / 256)) (fun d => { d with albdrop := d.albdrop + 1 })
  else if s.recEcc n then s.setRec n 24 4 (setBit (s.recCtrl n) 28 true)
  else
    let add (s : State) (at_ v : Nat) : State := s.setRec n at_ 4 (satAdd 32 (s.recNum n at_ 4) v)
    let s := s.setRec n 0 4 (max (s.recNum n 0 4) p.maxabs)
    let s := add (add (add (add (add s 8 p.nanc) 12 p.infc) 16 p.zeroc) 20 p.satc) 4 1
    p.hist.foldl (fun s (b, v) => s.setRec n (32 + 3 * b) 3 (satAdd 24 (s.recNum n (32 + 3 * b) 3) v)) s

/-- The record unit's queue has 64 places (13 R288). -/
def mergeRoom : Nat := 64

/-- A merge to a record whose home is fenced at router level is dropped, and counted at its sender's die (17 R367). -/
def State.dropMerge (s : State) (core : Nat) : State :=
  s.modDie (dieOf (tileOf core)) (fun d => { d with albdrop := d.albdrop + 1 })

/-- ALBEDO_MERGE_ISSUE: the message leaves when the home has room, and its engine waits until then; it is applied after its travel, one
in a cycle (13 R288, 01 R408; notes/assumptions/9.md). -/
def execAlbedoMergeIssue (s : State) : Res :=
  match s.ev with
  | .albedoMergeIssue core src p =>
    let home := p.recno / 256
    let t := s.tile home
    if s.routerFenced home then .next (s.dropMerge core)
    else if s.muted (tileOf core) home then .next (s.dropFlit (tileOf core) home)
    else if mergeRoom ≤ t.merges.length then .next (s.after 1 s.ev)
    else
      let due := max (s.now + 7 + 2 * s.hops (tileOf core) home) ((t.merges.map (fun m => m.due)).foldl max 0 + 1)
      .next ((s.setTile home { t with merges := t.merges ++ [⟨core, src, s.now, due, 0, p⟩] }).at_ due (.albedoMergeApply home))
  | _ => .next s

/-- An engine of the core waits for room at a home: its merge asks again in the next cycle. The stream whose write or word sent the merge
issues nothing meanwhile (13 R288; notes/assumptions/54.md, DESIGN CHOICE). -/
def State.mergeWaits (s : State) (core : Nat) (src : MergeSrc) : Bool :=
  s.agenda.any (fun e => e.1 == 2 * (s.now + 1) && (match e.2 with
    | .albedoMergeIssue c x p => c == core && x == src && mergeRoom ≤ (s.tile (p.recno / 256)).merges.length
    | _ => false))

/-- The core whose run, in phase 2 of its commit, is about to initialise a record, since a cycle (13 R295). -/
def State.initialiser (s : State) (n before : Nat) : Option Nat :=
  (s.cores.find? (fun e => e.2.c.settle.any (fun t => t ≤ before)
    && e.2.c.held.any (fun h => match h with | .albinit k _ => k.toNat == n | _ => false))).map (fun e => e.1)
/-- A merge reaches its record. One that was issued since an ALBINIT began to wait counts after it (13 R295). -/
def State.mergeIn (s : State) (m : Merge) : State :=
  match s.initialiser m.part.recno m.issue with
  | some core => s.modCore core (fun c => { c with c := { c.c with late := c.c.late ++ [m.part] } })
  | none => s.applyMerge m.part
/-- The merges that have waited for a run's ALBINIT are applied. -/
def State.lateMerges (s : State) (core : Nat) : State :=
  (((s.core core).c.late).foldl State.applyMerge s).modCore core (fun c => { c with c := { c.c with late := [] } })

/-- A REL of a core that waits at its object's home looks again in the next cycle (13 R290). -/
def State.wakeRun (s : State) (core : Nat) : State :=
  match s.waiters.find? (fun w => w.who == Requester.run core) with
  | some w => s.at_ (max w.at_ (s.now + 1)) (.syncAccept w.key)
  | none => s

/-- ALBEDO_MERGE_APPLY: the oldest merge that is due, unless another request of this cycle has plane 63 (10 R218). -/
def execAlbedoMergeApply (s : State) : Res :=
  match s.ev with
  | .albedoMergeApply tile =>
    let t := s.tile tile
    match t.merges with
    | m :: rest =>
      if m.due ≤ s.now then
        let gone := s.setTile tile { t with merges := rest }
        if s.routerFenced tile then .next ((gone.dropMerge m.core).wakeRun m.core)
        else if s.planeTaken (64 * tile + 63) then .next (s.after 1 s.ev)
        else .next (((gone.takePlane (64 * tile + 63)).mergeIn m).wakeRun m.core)
      else .next s
    | [] => .next s
  | _ => .next s

/-- Merges to a record issued before a cycle and not yet applied (13 R295). -/
def State.mergesTo (s : State) (n before : Nat) : Bool :=
  (s.tile (n / 256)).merges.any (fun m => m.issue < before && m.part.recno == n)

/-! QSCALE (08 R176, 13 R296). -/

/-- The largest finite magnitude of the format. -/
def qscaleMax : QFmt → Num
  | .t8 => .fin false 15 (-2)
  | .e5m2 => .fin false 57344 0
  | _ => .fin false 127 0
/-- m ≤ n for finite magnitudes. -/
def magLe : Num → Num → Bool
  | .fin _ m e, .fin _ n f =>
    let q := min e f
    m * 2 ^ (e - q).toNat ≤ n * 2 ^ (f - q).toNat
  | _, _ => false
/-- The least s, none where the scale would have to be clamped. -/
def qscaleFind (fm : QFmt) (h maxabs : Nat) : Option Nat :=
  (List.range 255).find? (fun k => magLe (fp32.decode maxabs) ((qscaleMax fm).scale ((k : Int) - 127 - h)))

/-- The refusal of a record read (13 R293, R296). -/
def State.recRefusal (s : State) (n : Nat) : Option Cause :=
  if s.routerFenced (n / 256) then some .destEclipsed
  else if !s.recAlloc n then some .albedoFree
  else if s.recBad n || s.recEcc n then some .eccAcc
  else none
def State.qscaleRefusal (s : State) (n : Nat) (fm : QFmt) (h : Nat) : Option Cause :=
  match s.recRefusal n with
  | some c => some c
  | none => if bitOf (s.recCtrl n) 29 && (qscaleFind fm h (s.recNum n 0 4)).isNone then some .rescale else none

/-- QSCALE: its request leaves in its issue cycle; x[XD] lands with the home's reply. The home makes every check but that of the
record number, and a refusal traps precisely at the word: what the X stream needs for that is kept (notes/assumptions/10.md). -/
def execQscale (dly : N8) (xd xn : N16) (qf : QFmt) (h : N16) (s : State) : Res :=
  let lat := 14 + 4 * s.hops s.myTile (field (s.me.getX xn).toNat 8 8)
  let inp : XIn := { dly := dly.val, reads := [.x xn.val], writes := [.x xd.val], unit := vcvtU, lat := lat }
  xWord s inp (fun s _ =>
    let c := s.me
    let n := (c.getX xn).toNat
    if 2 ^ 16 ≤ n then s.trap .reservedField
    else
      let id := c.xr.nextId
      let f : Flight := { id := id, land := some (s.now + lat), unit := none, dst := .x xd.val 0, sealOp := .none, scale := true }
      let v : ScaleSave := ⟨id, n, xd, qf, h.val, c.albOk n, none, c.xo, c.xr, c.sysReg 0x53, [], [], [], [], [], none, []⟩
      let s := s.setMe { c with scales := c.scales ++ [v], xr := { c.xr with flights := c.xr.flights ++ [f], nextId := id + 1 } }
      .next (s.sendAsk s.myTile (n / 256) (recOff n) s.who.core (.scale s.who.core id)
        (.homeRequest s.myTile (.qscale s.who.core xd qf h n id))).retire)

/-- What a record's home answers to a QSCALE: PRIVILEGE comes first (13 R292, R293). -/
def State.scaleRefusal (s : State) (v : ScaleSave) : Option Cause :=
  if !v.granted then some .privilege else s.qscaleRefusal v.recno v.qf v.h
/-- The home performs a QSCALE as one action and replies: the scale, or the refusal with the record unchanged (08 R176, 13 R296). -/
def State.scaleServe (s : State) (core id : Nat) : State :=
  let s := s.dropAsks (fun r => r == .scale core id)
  match (s.core core).scales.find? (fun v => v.id == id) with
  | none => s
  | some v =>
    let n := v.recno
    let reply (s : State) : State := s.after (7 + 2 * s.hops (tileOf core) (n / 256)) (.qscaleResult core id)
    match s.scaleRefusal v with
    | some cause => reply (s.modCore core (fun c =>
        { c with scales := c.scales.map (fun w => if w.id = id then { w with refusal := some cause } else w) }))
    | none =>
      let k := qscaleFind v.qf v.h (s.recNum n 0 4)
      let sc := k.getD 254
      let ctrl := s.recCtrl n
      let x := sc + b2n (bitOf ctrl 30) * 256 + b2n k.isNone * 512
      let was := (bitOf ctrl 30, s.recNum n 28 1)
      let s := (s.setRec n 24 4 (setBit ctrl 30 false)).setRec n 28 1 sc
      let land (f : Flight) : Flight :=
        { f with land := some (s.now + 7 + 2 * s.hops (tileOf core) (n / 256)),
                 dst := match f.dst with | .x _ _ => .x v.xd.val (BitVec.ofNat 64 x) | d => d }
      reply (s.modCore core (fun c =>
        { c with scales := c.scales.map (fun w => if w.id = id then { w with was := some was } else w),
                 xr := { c.xr with flights := c.xr.flights.map (fun f => if f.id = id then land f else f) } }))
/-- QSCALEs that have come to a plane and wait there: their results land later (08 R176, 10 R218). -/
def State.lateScales (s : State) (plane : Nat) : State :=
  (s.waiters.filter (fun w => w.at_ ≤ s.now && w.key < 2 ^ 30 && planeNo w.key == plane)).foldl (fun s w => match w.who with
    | .scale core id => s.modCore core (fun c => { c with xr := { c.xr with flights := c.xr.flights.map (fun f =>
        if f.id = id then { f with land := none } else f) } })
    | _ => s) s
/-- A VQNT that trapped sets RESCALE-pending (08 R175, R177). -/
def State.rescaleServe (s : State) (w : Waiter) : State :=
  let n := accTile w.key * 256 + w.key % 0x1_0000 / 128
  if s.routerFenced (accTile w.key) then ({ s with waiters := s.waiters.erase w } : State).trapOf ⟨w.core, .x⟩ .destEclipsed 0 0 else
  { s with waiters := s.waiters.erase w }.setRec n 24 4 (setBit (s.recCtrl n) 30 true)

/-- The X stream as it stood at a QSCALE: what younger words took from queues returns, what they put into them goes, and their results
never land (05 R103, 13 R296). -/
def Core.rewind (c : Core) (v : ScaleSave) : Core :=
  let p := v.xo.pos
  let p := { p with pc := if p.pfx.isSome then p.pfxAt else p.pc, left := if p.pfx.isSome then p.left + 1 else p.left, pfx := none }
  let ld := v.popped.foldr (fun e (l : Vector (List LoadEntry) 6) => l.setIfInBounds e.1 (e.2 :: l.getD e.1 [])) c.q.ld
  let bq := v.bqPut.foldl (fun (l : Vector (List (Byte × Nat)) 4) (n : Fin 4) => l.set n l[n].dropLast) c.q.bq
  let bq := v.bqTaken.foldr (fun (e : Fin 4 × Byte × Nat) (l : Vector (List (Byte × Nat)) 4) => l.set e.1 (e.2 :: l[e.1])) bq
  { c.setSys 0x53 v.srctr with
    xo := { v.xo with dq := v.dispTaken ++ c.xo.dq, pos := p }
    xr := { v.xr with flights := c.xr.flights.filter (fun f => f.id < v.id), nextId := c.xr.nextId, sbWait := c.xr.sbWait }
    q := { c.q with ld := ld, bq := bq, st := c.q.st.map (fun l => l.filter (fun e => e.id < v.id)) }
    scales := c.scales.filter (fun w => w.id < v.id) }

/-- What younger words of a QSCALE have written is as it was before them: half-rows of accumulator SRAM, and the records of younger
QSCALEs, the newest first. -/
def State.takeBack (s : State) (core : Nat) (v : ScaleSave) : State :=
  let row (s : State) (r : Nat × List Byte × List Nat) : State :=
    { s with accum := s.accum.setBytes r.1 r.2.1, badAcc := s.badAcc.filter (fun w => w < r.1 || r.1 + 256 ≤ w) ++ r.2.2 }
  let record (w : ScaleSave) (s : State) : State :=
    match w.was with
    | some (pend, last) => (s.setRec w.recno 24 4 (setBit (s.recCtrl w.recno) 30 (pend || bitOf (s.recCtrl w.recno) 30))).setRec w.recno 28 1 last
    | none => s
  ((s.core core).scales.filter (fun w => v.id < w.id)).foldr record (v.rows.foldl row s)

/-- A refused QSCALE traps precisely: the X stream stands at it again, what younger X words have done is taken back, a trap of one is
forgotten. Where a trap of another stream has been taken, the word issues again after RFT. -/
def State.scaleRefused (s : State) (core : Nat) (v : ScaleSave) (cause : Cause) : State :=
  let s := s.takeBack core v
  let s := s.modTile (tileOf core) (fun t => { t with ports := t.ports.filter (fun q => q.core != core || q.id < v.id) })
  let s := s.dropAsks (fun r => match r with | .scale c id => c == core && v.id < id | _ => false)
  let c := (s.core core).rewind v
  let t : TrapReq := ⟨2, 0, 0, cause, c.xo.pos.pc, 0, 0⟩
  match c.mode with
  | .trapped => if c.sysReg 2 = 2 then s.setCore core (c.setTrapRegs t) else s.setCore core c
  | _ => (s.setCore core { c with traps := c.traps.filter (fun u => u.stream != 2 || u.src != 0) }).post core t

/-- QSCALE_RESULT: the home's reply has come: the destination lands, or the word traps (08 R176, 13 R296). -/
def execQscaleResult (s : State) : Res :=
  match s.ev with
  | .qscaleResult core id =>
    let c := s.core core
    match c.scales.find? (fun v => v.id == id), c.xr.flights.find? (fun f => f.id == id) with
    | some v, some f =>
      match v.refusal with
      | some cause => .next (s.scaleRefused core v cause)
      | none =>
        -- messages of younger words wait for the next older QSCALE, or leave
        let d := landFlight c s.now f
        let rest := d.scales.filter (fun w => w.id != id)
        match (rest.filter (fun w => w.id < id)).getLast? with
        | some u => .next (s.setCore core { d with scales := rest.map (fun w => if w.id = u.id then { w with owed := w.owed ++ v.owed } else w) })
        | none => .next (v.owed.foldl (State.sendMessage core) (s.setCore core { d with scales := rest }))
    | _, _ => .next s
  | _ => .next s

/-! The record words of the C stream, held until commit (13 R295). -/

def execAlbinit (g : Guard) (n : Reg) (trapen : Bool) (s : State) : Res := cHold s g [n] (fun c => .albinit (c.getS n) trapen)
def execAlbsettle (g : Guard) (n : Reg) (s : State) : Res := cHold s g [n] (fun c => .albsettle (c.getS n))
def execAlbrd (g : Guard) (d n : Reg) (idx : N16) (s : State) : Res := cHold s g [n] (fun c => .albrd (c.getS n) idx.val d)

end Sys2Proof.Machine
end

