-- ==== Sys2Proof/Machine/Matrix.lean ====
section
/-! DEFINITION. The matrix array: leases, commands, batches, arithmetic, stops (09). -/

namespace Sys2Proof.Machine

def State.mx (s : State) (tile : Nat) : Matrix := (s.tile tile).mx
def State.setMx (s : State) (tile : Nat) (m : Matrix) : State := s.modTile tile (fun t => { t with mx := m })
def State.modCmd (s : State) (tile id : Nat) (f : MCmd → MCmd) : State :=
  let m := s.mx tile
  s.setMx tile { m with cmds := m.cmds.map (fun c => if c.id = id then f c else c) }

/-! Descriptor fields (03 R62). -/

def MCmd.plane (m : MCmd) : Nat := field m.desc 0 6
def MCmd.row (m : MCmd) : Nat := field m.desc 6 7
def MCmd.col (m : MCmd) : Nat := field m.desc 13 7
def MCmd.p (m : MCmd) : Nat := field m.desc 20 7
def MCmd.satm (m : MCmd) : Bool := bitOf m.desc 27
def MCmd.signA (m : MCmd) : Bool := bitOf m.desc 28
def MCmd.signB (m : MCmd) : Bool := bitOf m.desc 29
def MCmd.batch (m : MCmd) : N8 := Fin.ofNat 8 (field m.desc 30 3)
def MCmd.zy (m : MCmd) : Nat := field m.desc 33 8
/-- K of an MMA or MMAS, its k-steps and promotion intervals (09 R198, R199). -/
def MCmd.k (m : MCmd) : Nat := Shape.ext m.sb 1
def MCmd.steps (m : MCmd) : Nat := m.k / 8
def MCmd.nint (m : MCmd) : Nat := (m.steps + m.p - 1) / max m.p 1

/-! Leases (09 R186 to R189). -/

/-- The newest run of a core. -/
def Matrix.newest (m : Matrix) (core : Nat) : Option MRun := (m.runs.filter (fun r => r.core == core)).getLast?
/-- The oldest run of a core: its lease state is the core's (09 R186). -/
def Matrix.oldest (m : Matrix) (core : Nat) : Option MRun := m.runs.find? (fun r => r.core == core)
/-- LEASESTAT (09 R188); LEFT is that of the open run, a run queued behind a closing one included. -/
def State.leaseStat (s : State) (core : Nat) : Nat :=
  let m := s.mx (tileOf core)
  let left := match m.newest core with | some r => if r.closed = 0 then r.left % 128 else 0 | none => 0
  match m.oldest core with
  | none => 0
  | some r => (if r.closed ≠ 0 then 3 else if r.granted then 2 else 1) * 256 + left

/-- Commands of a run not yet completed. -/
def Matrix.pendingOf (m : Matrix) (run : Nat) : List MCmd := m.cmds.filter (fun c => c.run == run && c.st != .done)

/-- When the granted run is closed and its last command has completed, the array is free and grants itself again (09 R187). -/
def State.mxFree (s : State) (tile : Nat) : State :=
  let m := s.mx tile
  match m.owner.bind (fun o => m.runs.find? (fun r => r.id == o)) with
  | some r =>
    if r.closed ≠ 0 && (m.pendingOf r.id).isEmpty then
      (s.setMx tile { m with owner := none, freed := s.now, runs := m.runs.filter (fun q => q.id != r.id) }).after 1 (.leaseGrant tile)
    else s
  | none => s

/-- A run that has closed while PENDING and holds no commands is withdrawn (09 R187). -/
def State.mxWithdraw (s : State) (tile : Nat) : State :=
  let m := s.mx tile
  s.setMx tile { m with runs := m.runs.filter (fun r => r.closed == 0 || r.granted || !(m.pendingOf r.id).isEmpty) }

/-- A new PENDING run. -/
def Matrix.request (m : Matrix) (core left now : Nat) : Matrix :=
  { m with nextId := m.nextId + 1, runs := m.runs ++ [⟨m.nextId, core, left, 0, false, now⟩] }

/-- LEASE at commit (09 R189). -/
def State.leaseNow (s : State) (core : Nat) : State :=
  let tile := tileOf core
  let m := s.mx tile
  match m.newest core with
  | some r => if r.closed = 0 then s else
    (s.setMx tile (m.request core ((s.core core).sysReg 0x64).toNat s.now)).after 1 (.leaseGrant tile)
  | none => (s.setMx tile (m.request core ((s.core core).sysReg 0x64).toNat s.now)).after 1 (.leaseGrant tile)

/-- UNLEASE at commit: it closes a run that is PENDING or HELD, and has no effect while the core is CLOSED, though a new request is
queued. A run that closes while PENDING and holds no commands is withdrawn (09 R187, R189). -/
def State.unleaseNow (s : State) (core : Nat) : State :=
  let tile := tileOf core
  let m := s.mx tile
  match m.oldest core with
  | some r =>
    if r.closed ≠ 0 then s
    else ((s.setMx tile { m with runs := m.runs.map (fun q => if q.id = r.id then { q with closed := 2 } else q) }).mxFree tile).mxWithdraw tile
  | none => s

def execLease (g : Guard) (s : State) : Res := cHold s g [] (fun _ => .lease)
def execUnlease (g : Guard) (s : State) : Res := cHold s g [] (fun _ => .unlease)

/-- LEASE_GRANT: a free array grants itself to the first PENDING core after the one granted last, no earlier than in the cycle after it
became free (09 R187). -/
def execLeaseGrant (s : State) : Res :=
  match s.ev with
  | .leaseGrant tile =>
    let m := s.mx tile
    if m.owner.isSome || s.now ≤ m.freed then .next s else
    let cand (k : Nat) : Option MRun :=
      (m.runs.find? (fun r => r.core == 4 * tile + (m.last + k) % 4)).bind (fun r => if !r.granted && r.req < s.now then some r else none)
    match [1, 2, 3, 4].findSome? cand with
    | none => .next s
    | some r =>
      let runs := m.runs.map (fun q => if q.id = r.id then { q with granted := true } else q)
      let m := { m with owner := some r.id, gat := s.now, last := r.core % 4, runs := runs }
      .next (((s.setMx tile m).after 1 (.matrixCommandStart tile)).mxFree tile)
  | _ => .next s

/-! Batches (09 R206). -/

def Batches.dfSet (b : Batches) (n : N8) (done fault : Bool) : Batches :=
  { b with df := setBit (setBit b.df (2 * n.val) done) (2 * n.val + 1) fault }
/-- MBSTAT. -/
def Batches.stat (b : Batches) : Nat := b.st.toList.foldr (fun v r => r * 4 + v) 0 * 2 ^ 16 + b.df

/-- A command that its batch holds no longer: the batch has retired before this cycle, or a reset has taken it away. -/
def MCmd.gone (m : MCmd) (now : Nat) : Bool := m.st == .done && (match m.ret with | some t => t < now | none => false)

/-- A CLOSED batch with no command left retires (09 R206). -/
def State.mxRetire (s : State) (core : Nat) (n : N8) : State :=
  let tile := tileOf core
  let m := s.mx tile
  let c := s.core core
  let b := c.batch
  if b.st[n] = 2 && m.cmds.all (fun x => x.core != core || x.batch != n || x.ret.isSome || x.st == .done) then
    let b := { b.dfSet n true b.fault[n] with st := b.st.set n 0, fault := b.fault.set n false, abandoned := b.abandoned.set n false }
    let cmds := m.cmds.filter (fun x => !x.gone s.now)
    (s.setCore core { c with batch := b }).setMx tile
      { m with cmds := cmds.map (fun x => if x.core = core ∧ x.batch = n ∧ x.ret.isNone then { x with ret := some s.now } else x) }
  else s

/-! Holds (09 R212). -/

/-- Ranges that a command holds until its batch retires. -/
def MCmd.holds (m : MCmd) : List Span := if m.hold && m.ret.isNone then m.spans else []
/-- A range of the tile is held. -/
def State.held (s : State) (tile : Nat) (sp : Span) : Bool := (s.mx tile).cmds.any (fun c => c.holds.any (fun h => h.meets sp))
/-- A range is held by a batch other than one. -/
def State.heldByOther (s : State) (tile core : Nat) (n : N8) (sp : Span) : Bool :=
  (s.mx tile).cmds.any (fun c => (c.core != core || c.batch != n) && c.holds.any (fun h => h.meets sp))

/-! Issue (09 R193, R197 to R205). -/

/-- The span of bytes from BASE that a shape addresses. -/
def shapeSpan (sh : Shape) : Int × Int :=
  let (lo, hi) := shapeReach sh
  (Shape.base sh + lo, Shape.base sh + hi)
/-- The span of the sparse metadata (09 R200). -/
def metaSpan (a : Shape) (m : Nat) : Int × Int :=
  let b : Int := Shape.base a + Shape.str a 2
  let w : Int := (m - 1 : Int) * Shape.str a 3
  let n : Int := (Shape.ext a 0 + 3) / 4
  (b + min 0 w, b + max 0 w + n - 1)

/-- Two extents only, in whole Z-order tiles (09 R195). -/
def twoIndex (sh : Shape) : Bool :=
  Shape.ext sh 2 == 1 && Shape.ext sh 3 == 1
    && (!Shape.zord sh || (Shape.ext sh 0 % 2 ^ Shape.tsz sh == 0 && Shape.ext sh 1 % 2 ^ Shape.tsz sh == 0))

/-- The FMT codes of A and B (09 R198). -/
def mfmtCodes (f : MFmt) (sa sb : Bool) : Nat × Nat :=
  match f with
  | .f16 => (2, 2) | .bf16 => (3, 3) | .i8 => (if sa then 6 else 7, if sb then 6 else 7)
  | .t8 => (5, 5) | .e5m2 => (4, 4) | .t8e5 => (5, 4) | .e5t8 => (4, 5)
def mfmtInt (f : MFmt) : Bool := f == .i8

/-- The limits of a command's entry (09 R198, R204, R205). -/
def MCmd.paramsOk (m : MCmd) : Bool :=
  let fit := m.row + m.rows ≤ 128 && m.col + m.cols ≤ 128
  match m.op with
  | .mma f sparse =>
    let k := if sparse then 2 * Shape.ext m.sa 0 else Shape.ext m.sa 0
    let codes := mfmtCodes f m.signA m.signB
    m.rows % 16 == 0 && 16 ≤ m.rows && m.rows ≤ 128 && m.cols % 16 == 0 && 16 ≤ m.cols && m.cols ≤ 128
      && k == Shape.ext m.sb 1 && k % 8 == 0 && k ≤ 32768 && fit
      && Shape.fmt m.sa == codes.1 && Shape.fmt m.sb == codes.2
      && 1 ≤ m.p && m.p ≤ (if mfmtInt f then 32 else 64)
      && (!m.sq || (m.p == 3 && k % 24 == 0))
      && (mfmtInt f || (!m.signA && !m.signB && !m.satm)) && m.zy == 0
      && twoIndex m.sa && twoIndex m.sb && !(sparse && Shape.zord m.sa)
  | .mzero =>
    Shape.ext m.sa 2 == 1 && Shape.ext m.sa 3 == 1 && fit && m.p == 0 && !m.signA && !m.signB && !m.satm && m.zy == 0
  | .mdrain d =>
    fit && Shape.ext m.sa 2 == 1 && Shape.ext m.sa 3 == 1 && !Shape.zord m.sa
      && (match d with | .plain => Shape.fmt m.sa == 1 || Shape.fmt m.sa == 9 | .i8 => Shape.fmt m.sa == 6 | .u8 => Shape.fmt m.sa == 7)
      && (d == .plain || (Shape.fmt m.sb == 9 && Shape.ext m.sb 0 == 2 * m.cols && Shape.ext m.sb 1 == 1 && Shape.ext m.sb 2 == 1
            && Shape.ext m.sb 3 == 1 && twoIndex m.sb))
      && m.p == 0 && !m.signA && !m.signB && !m.satm && (d != .plain || m.zy == 0)

/-- The shape checks of a command in field order (09 R193 row 4). -/
def MCmd.shapeCause (c : Core) (m : MCmd) : Option Cause :=
  match m.op with
  | .mma _ _ => shapeCheck c m.sa <|> shapeCheck c m.sb
  | .mzero => if Shape.noExtent m.sa then some .shapeInvalid else none
  | .mdrain d => shapeCheck c m.sa <|> (if d = .plain then none else shapeCheck c m.sb)

/-- Operand spans as virtual addresses. -/
def MCmd.spanList (m : MCmd) : List (Int × Int) :=
  match m.op with
  | .mma _ sparse => [shapeSpan m.sa, shapeSpan m.sb] ++ (if sparse then [metaSpan m.sa m.rows] else [])
  | .mzero => []
  | .mdrain d => shapeSpan m.sa :: (if d = .plain then [] else [shapeSpan m.sb])

/-- A span of addresses in the terms of a tile: none where it is refused, with the cause (09 R193 rows 7, 8). -/
def placeSpan (part : Nat) (tail onlyScratch : Bool) (sp : Int × Int) : Except Cause Span :=
  match spanAt sp.1 sp.2 with
  | .acc => .error .accBounds
  | .straddle => .error .scratchBounds
  | .scr lo hi =>
    if hi < partBytes part tail then
      .ok ⟨true, (partFirst part * 0x1_0000 + lo : Nat), (partFirst part * 0x1_0000 + hi : Nat)⟩
    else .error .scratchBounds
  | .dev lo hi => if onlyScratch then .error .scratchBounds else .ok ⟨false, lo, hi⟩

/-- Both kinds of refusal over all spans: the accumulator row comes before the scratch row. -/
def placeSpans (part : Nat) (tail onlyScratch : Bool) (sps : List (Int × Int)) : Except Cause (List Span) :=
  if sps.any (fun sp => match spanAt sp.1 sp.2 with | .acc => true | _ => false) then .error .accBounds
  else sps.mapM (placeSpan part tail onlyScratch)

def MOp.isMma : MOp → Bool
  | .mma _ _ => true
  | _ => false
def MOp.isDrain : MOp → Bool
  | .mdrain _ => true
  | _ => false

/-- A command as its word issues. -/
def State.newCommand (s : State) (op : MOp) (a b : N16) (d : Reg) (hold : Bool) (ord : OrdF) (sq : Bool) : MCmd :=
  let c := s.me
  { id := (s.mx s.myTile).nextId, core := s.who.core, run := 0, op := op, sa := c.sh[a], sb := c.sh[b], desc := (c.getA d).toNat,
    ord := ord, hold := hold, sq := sq, part := (c.sysReg 0x60).toNat, sup := c.sup, index := 0, issue := s.now,
    rows := Shape.ext c.sh[a] 1, cols := if op.isMma then Shape.ext c.sh[b] 0 else Shape.ext c.sh[a] 0, spans := [], st := .queued,
    start := 0, dur := 0, kdone := 0, rowg := 0, opA := [], opB := [], posn := [], scales := [], rest := [], blk := 0, watch := [],
    marked := false, biv := 0, prefA := c.q.pref[8], prefB := c.q.pref[9], failAt := none, ret := none }

/-- A held range of the batch's own commands lies in the destination of a drain into the OPEN batch. -/
def ownHeld (op : MOp) (bst : Nat) (n : N8) (spans : List Span) (mine : List MCmd) : Bool :=
  op.isDrain && bst == 1 && (spans.take 1).any (fun sp => mine.any (fun x => x.batch == n && x.holds.any (fun h => h.meets sp)))

/-- Issue of MMA, MMAS, MZERO and MDRAIN: the checks in order, the waits, the acceptance (09 R192, R193, R206, R212). The lease state
is the oldest run's: after UNLEASE the word traps though a new request is queued (09 R193 row 2); after a count end it issues under
the run of the new request (09 R189). A command into an abandoned batch is dropped at once and counts towards its run (09 R209). -/
def matrixIssue (s : State) (op : MOp) (a b : N16) (d : Reg) (hold : Bool) (ord : OrdF) (sq : Bool) : Res :=
  aWord s ⟨false, 0⟩ [d] (fun c =>
    let core := s.who.core
    let tile := s.myTile
    let m := s.mx tile
    let cmd0 := s.newCommand op a b d hold ord sq
    if 2 ^ 41 ≤ cmd0.desc then s.trap .reservedField else
    match m.oldest core, m.newest core with
    | some old, some r =>
      if old.closed = 2 then s.trap .leaseNone
      else if r.closed ≠ 0 then s.trap .leaseOverrun
      else match cmd0.shapeCause c with
      | some cause => s.trap cause
      | none =>
        if !cmd0.paramsOk then s.trap .mmaParam
        else if 62 ≤ cmd0.plane || !bitOf (c.sysReg 0x61).toNat cmd0.plane then s.trap .accBounds
        else match placeSpans cmd0.part c.hasTail op.isDrain cmd0.spanList with
        | .error cause => s.trap cause
        | .ok spans =>
          let n := cmd0.batch
          let cmd := { cmd0 with run := r.id, spans := spans, index := c.batch.nidx[n] % 32 }
          let mine := m.cmds.filter (fun x => x.core == core)
          let holders := mine.filter (fun x => !x.holds.isEmpty)
          let short := hold && 16 < (holders.map (fun x => x.holds.length)).sum + spans.length
          if ownHeld op c.batch.st[n] n spans mine || (short && holders.all (fun x => c.batch.st[x.batch] == 1)) then s.trap .batchOpen
          else if 32 ≤ mine.countP (fun x => x.st != .done) || c.batch.st[n] = 2 || short then .next s
          else
            let bt := if c.batch.st[n] = 0 then { c.batch.dfSet n false false with st := c.batch.st.set n 1, nidx := c.batch.nidx.set n 0 } else c.batch
            let cmd := { cmd with index := bt.nidx[n] % 32, st := if bt.abandoned[n] then .done else .queued }
            let bt := { bt with nidx := bt.nidx.set n (bt.nidx[n] + 1) }
            let left := r.left - 1
            let runs := m.runs.map (fun q => if q.id = r.id then { q with left := left, closed := if left = 0 then 1 else 0 } else q)
            let s := s.setMe { c with batch := bt }
            let s := s.setMx tile { m with runs := runs, nextId := m.nextId + 1, cmds := m.cmds ++ [cmd] }
            .next ((((s.after 2 (.matrixCommandStart tile)).mxFree tile).mxWithdraw tile).retire)
    | _, _ => s.trap .leaseNone)

def execMma (f : MFmt) (sa sb : N16) (d : Reg) (hold : Bool) (ord : OrdF) (sq : Bool) (s : State) : Res :=
  matrixIssue s (.mma f false) sa sb d hold ord sq
def execMmas (f : MFmt) (sa sb : N16) (d : Reg) (hold : Bool) (ord : OrdF) (sq : Bool) (s : State) : Res :=
  matrixIssue s (.mma f true) sa sb d hold ord sq
def execMzero (sh : N16) (d : Reg) (ord : OrdF) (s : State) : Res := matrixIssue s .mzero sh sh d false ord false
def execMdrain (m : DrainMode) (dst mul : N16) (d : Reg) (ord : OrdF) (s : State) : Res :=
  matrixIssue s (.mdrain m) dst mul d false ord false

def execMcommit (g : Guard) (b : N8) (s : State) : Res :=
  aWord s g [] (fun c =>
    let s := if c.batch.st[b] = 1 then (s.setMe { c with batch := { c.batch with st := c.batch.st.set b 2 } }).mxRetire s.who.core b else s
    .next s.retire)
def execMwaitb (g : Guard) (b : N8) (s : State) : Res :=
  aWord s g [] (fun c =>
    if c.batch.st[b] = 1 then s.trap .batchOpen
    else if c.batch.st[b] = 0 then .next (s.awaitBatch s.who.core b).retire
    else .next s)
def execMstat (g : Guard) (pd : N8) (fault : Bool) (b : N8) (s : State) : Res :=
  aPred s g [] pd (fun c => bitOf c.batch.df (2 * b.val + b2n fault))

/-! Operand reads (09 R194 to R196, R200). -/

/-- What the reads of a command have gathered: codes, the stream TLBs of the load pipes, the walks' time, the slowest line, the lines
read. -/
structure Gather where
  codes : List Nat := []
  tlbA  : StreamTlb
  tlbB  : StreamTlb
  walk  : Nat := 0
  slow  : Nat := 0
  lines : List (Nat × Nat) := []

/-- The load pipes: 0 reads A and the sparse metadata, 1 reads B (notes/assumptions/39.md, DESIGN CHOICE, safe). -/
inductive Pipe | a | b
  deriving DecidableEq, Repr
def Gather.tlb (g : Gather) : Pipe → StreamTlb | .a => g.tlbA | .b => g.tlbB
def Gather.setTlb (g : Gather) (p : Pipe) (t : StreamTlb) : Gather := match p with | .a => { g with tlbA := t } | .b => { g with tlbB := t }

/-- A place some bytes further on in its page. -/
def Place.plus (n : Nat) : Place → Place
  | .scratch o => .scratch (o + n) | .acc o => .acc (o + n) | .dram d => .dram (d + n) | .packed a => .packed (a + n)
  | .remote p d => .remote p (d + n)

/-- Bytes of an operand in one page of device memory, one after the other from an address, through a pipe's stream TLB (07 R145). A
walk that fails takes its time too. -/
def readPage (s : State) (m : MCmd) (pipe : Pipe) (g : Gather) (va n : Nat) : Gather × Except (Cause × Nat) Nat :=
  let tile := tileOf m.core
  let pref := match pipe with | .a => m.prefA | .b => m.prefB
  let (r, tlb) := s.streamTranslate tile m.sup (g.tlb pipe) pref va .read true
  let g := { g.setTlb pipe tlb with walk := g.walk + r.time }
  match r.res with
  | .error f => (g, .error (f.cause, va))
  | .ok pl =>
    (List.range n).foldl (fun (acc : Gather × Except (Cause × Nat) Nat) k =>
      match acc with
      | (g, .error e) => (g, .error e)
      | (g, .ok v) =>
        let q := pl.plus k
        match s.kindRefusal q <|> s.placeEcc q 1 with
        | some c => (g, .error (c, (va + k) % 2 ^ 64))
        | none =>
          let line := (q.space, q.line)
          let g := if g.lines.contains line then g else { g with lines := line :: g.lines, slow := max g.slow (s.accessTime tile q) }
          (g, .ok (v + leNat (s.readPlace q 1) * 256 ^ k))) (g, .ok 0)

/-- Bytes of an operand. -/
def readOperand (s : State) (m : MCmd) (pipe : Pipe) (g : Gather) (va n : Nat) : Gather × Except (Cause × Nat) Nat :=
  if inScratchWindow va then
    let pl := Place.scratch (tileOf m.core * 0x80_0000 + partFirst m.part * 0x1_0000 + minus va scrBase)
    match s.placeEcc pl n with
    | some c => (g, .error (c, va))
    | none => (g, .ok (leNat (s.readPlace pl n)))
  else
    let here := min n (0x1_0000 - va % 0x1_0000)
    match readPage s m pipe g va here with
    | (g, .error e) => (g, .error e)
    | (g, .ok v) =>
      if here = n then (g, .ok v)
      else match readPage s m pipe g ((va + here) % 2 ^ 64) (n - here) with
        | (g, .error e) => (g, .error e)
        | (g, .ok w) => (g, .ok (v + w * 256 ^ here))

/-- Codes of elements in order, added to what is gathered; at a failure also what was gathered before it. -/
def readElems (s : State) (m : MCmd) (pipe : Pipe) : Gather → List (Nat × Nat) → Gather × Option (Cause × Nat)
  | g, [] => ({ g with codes := g.codes.reverse }, none)
  | g, (va, n) :: t =>
    match readOperand s m pipe g va n with
    | (g, .error e) => (g, some e)
    | (g, .ok v) => readElems s m pipe { g with codes := v :: g.codes } t

/-- First and last k-step of interval iv (09 R199). -/
def MCmd.interval (m : MCmd) (iv : Nat) : Nat × Nat := (iv * m.p, min m.steps (iv * m.p + m.p))
/-- A's values in a k-step: 8, or the 4 kept of a sparse A. -/
def MCmd.perStep (m : MCmd) : Nat := match m.op with | .mma _ true => 4 | _ => 8

/-- Addresses of A's values for row group g of interval iv, row by row; of B for interval iv; of the metadata bytes. -/
def MCmd.addrsA (m : MCmd) (iv g : Nat) : List (Nat × Nat) :=
  let (k0, k1) := m.interval iv
  (List.range 16).flatMap (fun r => (List.range (m.perStep * (k1 - k0))).map (fun k =>
    (elemAddr m.sa (m.perStep * k0 + k) (16 * g + r) 0 0, Shape.esz m.sa)))
def MCmd.addrsB (m : MCmd) (iv : Nat) : List (Nat × Nat) :=
  let (k0, k1) := m.interval iv
  (List.range (8 * (k1 - k0))).flatMap (fun k => (List.range m.cols).map (fun n => (elemAddr m.sb n (8 * k0 + k) 0 0, Shape.esz m.sb)))
/-- One byte for each k-step: two groups of four positions. -/
def MCmd.addrsMeta (m : MCmd) (iv g : Nat) : List (Nat × Nat) :=
  let (k0, k1) := m.interval iv
  (List.range 16).flatMap (fun r => (List.range (k1 - k0)).map (fun j =>
    (wrapTo 64 (Shape.base m.sa + Shape.str m.sa 2 + ((16 * g + r : Nat) : Int) * Shape.str m.sa 3 + ((k0 + j : Nat) : Int)), 1)))

/-- Interval and row group pairs from the command's progress on. -/
def MCmd.parts (m : MCmd) : List (Nat × Nat) :=
  ((List.range m.nint).flatMap (fun iv => (List.range (m.rows / 16)).map (fun g => (iv, g)))).filter
    (fun (iv, g) => m.kdone < iv * m.p || (m.kdone == iv * m.p && m.rowg ≤ g))

/-- Offset of an accumulator cell in the window (10 R215). -/
def cellOff (tile plane row col : Nat) : Nat := tile * 0x40_0000 + plane * 0x1_0000 + row * 0x200 + col * 4
/-- An uncorrectable error in the cells of a row of a command's region (18 R375). -/
def State.cellsBad (s : State) (m : MCmd) (r : Nat) : Bool :=
  (s.placeEcc (.acc (cellOff (tileOf m.core) m.plane (m.row + r) m.col)) (4 * m.cols)).isSome

/-- Read every operand unit from the command's progress on, in the order of its promotions; where a read fails, or the cells that a
promotion reads hold an error, the point (09 R196, R209). -/
def loadParts (s : State) : MCmd → Gather → List (Nat × Nat) → Nat → MCmd × Gather
  | m, g, [], _ => (m, g)
  | m, g, (iv, gr) :: t, lastB =>
    let stop (e : Cause × Nat) (m : MCmd) : MCmd := { m with failAt := some (e.1.code, e.2, iv * m.p, gr) }
    let (gb, eb) := if iv + 1 = lastB then (g, none) else readElems s m .b { g with codes := [] } (m.addrsB iv)
    match eb with
    | some e => (stop e m, gb)
    | none =>
      let m := if iv + 1 = lastB then m else { m with opB := m.opB ++ gb.codes }
      let (ga, ea) := readElems s m .a { gb with codes := [] } (m.addrsA iv gr)
      match ea with
      | some e => (stop e m, ga)
      | none =>
        let m := { m with opA := m.opA ++ ga.codes }
        let sparse := match m.op with | .mma _ true => true | _ => false
        let (gm, em) := if sparse then readElems s m .a { ga with codes := [] } (m.addrsMeta iv gr) else (ga, none)
        match em with
        | some e => (stop e m, gm)
        | none =>
          let m := if sparse then { m with posn := m.posn ++ gm.codes } else m
          if (List.range 16).any (fun r => s.cellsBad m (16 * gr + r)) then (stop (.eccAcc, 0) m, gm)
          else loadParts s m gm t (iv + 1)

/-! Arithmetic (09 R199, R200, R203; 04 R86). -/

/-- An operand code as a number. -/
def mxNum (fmt : Nat) (signed : Bool) (code : Nat) : Num :=
  match fmt with
  | 2 => fp16.decode code | 3 => bf16.decode code | 4 => e5m2.decode code | 5 => t8Decode code
  | _ => .ofInt (if signed then signedOf 8 code else code)

/-- The N24 sum after one product. -/
def n24Add (acc prod : Num) : Num := n24.decode (n24.round rne (Num.add false acc prod))
/-- A promotion of an FP32 cell. -/
def promote (cell : Nat) (sum : Num) : Nat := fp32.round rne (Num.add false (fp32.decode cell) sum)

/-- Position of kept value t of a row's interval (09 R200). -/
def keptPos (posn : Array Nat) (base t : Nat) : Nat :=
  let byte := posn.getD (base + t / 4) 0
  4 * (t / 2) + field byte (2 * (t % 4)) 2

/-- The promotions of one row group of one interval. The arrays hold what was read from the first part on; `ia`, `ib`, `ip` are
where this part's values begin. -/
def promotePart (s : State) (m : MCmd) (f : MFmt) (sparse : Bool) (opA opB posn scales : Array Nat) (iv g ia ib ip : Nat) : State :=
  let tile := tileOf m.core
  let (k0, k1) := m.interval iv
  let len := m.perStep * (k1 - k0)
  (List.range 16).foldl (fun s r =>
    (List.range m.cols).foldl (fun s n =>
      let off := cellOff tile m.plane (m.row + 16 * g + r) (m.col + n)
      let cell := s.accum.num off 4
      let prod (t : Nat) : Num × Num :=
        let k := if sparse then keptPos posn (ip + r * (k1 - k0)) t else t
        (mxNum (Shape.fmt m.sa) m.signA (opA.getD (ia + r * len + t) 0), mxNum (Shape.fmt m.sb) m.signB (opB.getD (ib + k * m.cols + n) 0))
      let v :=
        if mfmtInt f then
          let sum : Int := (List.range len).foldl (fun (z : Int) t =>
            let (x, y) := prod t
            z + ((roundInt rne (Num.mul x y)).getD 0)) 0
          let e := signedOf 32 cell + sum
          if m.satm then wrapTo 32 (satTo 32 e) else wrapTo 32 e
        else
          let sum := (List.range len).foldl (fun acc t => let (x, y) := prod t; n24Add acc (Num.mul x y)) (.fin false 0 0)
          let sum := if m.sq then
              let sa := scales.getD (iv * (m.rows + m.cols) + 16 * g + r) 0
              let sb := scales.getD (iv * (m.rows + m.cols) + m.rows + n) 0
              if sa = 255 ∨ sb = 255 then .nan else sum.scale ((sa + sb : Int) - 254)
            else sum
          promote cell sum
      { s with accum := s.accum.setNum off 4 v }) s) s

/-- Promotions of parts in order, up to a point (KDONE, ROWG); the offsets follow what `loadParts` read. -/
def promoteParts (s : State) (m : MCmd) (f : MFmt) (sparse : Bool) (opA opB posn scales : Array Nat) (kEnd gEnd : Nat) :
    List (Nat × Nat) → Nat → Nat → Nat → Nat → State
  | [], _, _, _, _ => s
  | (iv, g) :: t, ia, ib, ip, lastB =>
    if kEnd < iv * m.p || (kEnd == iv * m.p && gEnd ≤ g) then s else
    let (k0, k1) := m.interval iv
    let nb := 8 * (k1 - k0) * m.cols
    -- a new interval's B follows the one before
    let ib' := if lastB = 0 || lastB = iv + 1 then ib else ib + 8 * ((m.interval (lastB - 1)).2 - (m.interval (lastB - 1)).1) * m.cols
    let s := promotePart s m f sparse opA opB posn scales iv g ia ib' ip
    let _ := nb
    promoteParts s m f sparse opA opB posn scales kEnd gEnd t (ia + 16 * m.perStep * (k1 - k0)) ib' (ip + 16 * (k1 - k0)) (iv + 1)

/-- v / 2^n rounded to nearest, ties to even (09 R205). -/
def rneShift (v : Int) (n : Nat) : Int :=
  if n = 0 then v else
  let q := v / 2 ^ n
  let r := v % 2 ^ n
  if 2 ^ n < 2 * r ∨ (2 * r = 2 ^ n ∧ q % 2 = 1) then q + 1 else q

/-- One row of an MDRAIN into the scratchpad, and its merge (09 R205, 13 R286). `opB` holds the multiplier vector. -/
def drainRow (s : State) (m : MCmd) (d : DrainMode) (r : Nat) : State :=
  let s0 := s
  let tile := tileOf m.core
  let mul := m.opB.toArray
  let fmt := Shape.fmt m.sa
  let es := Shape.esz m.sa
  let code (c : Nat) : Nat :=
    let cell := s.accum.num (cellOff tile m.plane (m.row + r) (m.col + c)) 4
    let y (z : Int) : Int := rneShift (signedOf 32 cell * signedOf 32 (mul.getD (2 * c) 0)) (mul.getD (2 * c + 1) 0 % 64) + z
    match d with
    | .plain => cell
    | .i8 => wrapTo 8 (max (-128) (min 127 (y (signedOf 8 m.zy))))
    | .u8 => wrapTo 8 (max 0 (min 255 (y m.zy)))
  let codes := (List.range m.cols).map code
  let s := codes.zipIdx.foldl (fun s (v, c) =>
    let o := tile * 0x80_0000 + partFirst m.part * 0x1_0000 + minus (elemAddr m.sa c r 0 0) scrBase
    match s.writePlace (.scratch o) ((leBytes es v).map some) none none none (.line o) with
    | .done s => s
    | _ => s) s
  -- its own writes change none of its operands (09 R211)
  let was := ((s0.mx tile).cmds.find? (fun c => c.id == m.id)).any (fun c => c.marked)
  let s := s.modCmd tile m.id (fun c => { c with marked := was })
  if Shape.upd m.sa then
    match foldGroup (Shape.albn m.sa) fmt (Shape.qfrac m.sa) codes with
    | some p => s.at_ s.now (.albedoMergeIssue m.core (.matrix m.id m.batch) p)
    | none => s
  else s
/-- The bytes of a drained row meet a range that another batch holds (09 R205, R212). -/
def State.rowHeld (s : State) (m : MCmd) (r : Nat) : Bool :=
  (List.range m.cols).any (fun c =>
    let o : Int := (partFirst m.part * 0x1_0000 + minus (elemAddr m.sa c r 0 0) scrBase : Nat)
    s.heldByOther (tileOf m.core) m.core m.batch ⟨true, o, o + (Shape.esz m.sa : Int) - 1⟩)
def zeroRow (s : State) (m : MCmd) (r : Nat) : State :=
  let off := cellOff (tileOf m.core) m.plane (m.row + r) m.col
  { s with accum := s.accum.clear off (4 * m.cols), badAcc := mendWords s.badAcc off (4 * m.cols) }

/-- Carry a command's writes out from its progress to a point. -/
def State.mxAdvance (s : State) (m : MCmd) (kEnd gEnd : Nat) : State :=
  match m.op with
  | .mma f sparse =>
    promoteParts s m f sparse m.opA.toArray m.opB.toArray m.posn.toArray m.scales.toArray kEnd gEnd m.parts 0 0 0 0
  | .mzero => ((List.range (16 * gEnd + kEnd)).drop (16 * m.rowg + m.kdone)).foldl (fun s r => zeroRow s m r) s
  | .mdrain d => ((List.range (16 * gEnd + kEnd)).drop (16 * m.rowg + m.kdone)).foldl (fun s r => drainRow s m d r) s

/-- The point at which a command is complete. -/
def MCmd.endPoint (m : MCmd) : Nat × Nat := match m.op with | .mma _ _ => (m.steps, 0) | _ => (m.rows % 16, m.rows / 16)

/-! Start (09 R194). -/

/-- Cycles per k-step (09 R199). -/
def MCmd.stepTime (m : MCmd) : Nat :=
  match m.op with
  | .mma _ true => 2
  | .mma .f16 _ => 8
  | .mma .bf16 _ => 8
  | .mma _ _ => 4
  | _ => 1
/-- Unloaded execution length from the command's progress on; an MDRAIN's up to its first row: a row follows in each cycle after it. -/
def MCmd.length (m : MCmd) : Nat :=
  match m.op with
  | .mma _ _ => 14 + m.stepTime * (m.steps - m.kdone)
  | .mzero => 2 + (m.rows - (16 * m.rowg + m.kdone) + 3) / 4
  | .mdrain _ => 4

/-- Where the operand spans of a command in device memory lie, page by page; a page that does not translate is left out (09 R211). -/
def State.mxWatch (s : State) (m : MCmd) : List (Nat × Nat × Nat) :=
  (m.spans.filter (fun sp => !sp.scr)).flatMap (fun sp =>
    let first : Int := sp.lo / 0x1_0000
    (List.range ((sp.hi / 0x1_0000 - first).toNat + 1)).filterMap (fun (k : Nat) =>
      let lo : Int := max sp.lo ((first + k) * 0x1_0000)
      let hi : Int := min sp.hi ((first + k) * 0x1_0000 + 0xFFFF)
      match (s.translate (tileOf m.core) m.sup [] (wrapTo 64 lo) .read true).res with
      | .ok pl => some (pl.space, pl.off, pl.off + (hi - lo).toNat)
      | .error _ => none))

/-- Begin the execution: read the operands, then time the completion, the first block of scales, or the stop. No rule says in which
cycle of its execution a command reads a unit: every unit is translated and read in the start cycle, the walks one after the other from
then on (09 R194, R196; notes/assumptions/21.md, DESIGN CHOICE, unsafe). -/
def State.mxBegin (s : State) (tile : Nat) (m : MCmd) : State :=
  let m := { m with opA := [], opB := [], posn := [], watch := s.mxWatch m, failAt := none, start := s.now, st := .running,
                    biv := m.kdone / max m.p 1 }
  let g0 : Gather := { tlbA := (s.tile tile).etlb[0], tlbB := (s.tile tile).etlb[1] }
  let (m, g) := match m.op with
    | .mma _ _ => loadParts s m g0 m.parts 0
    | .mzero => (m, g0)
    | .mdrain d =>
      if d = DrainMode.plain then (m, g0) else
      let (g, e) := readElems s m .b g0 ((List.range (2 * m.cols)).map (fun i => (elemAddr m.sb i 0 0 0, 4)))
      match e with
      | some e => ({ m with failAt := some (e.1.code, e.2, m.kdone, m.rowg) }, g)
      | none => ({ m with opB := g.codes }, g)
  let extra := g.walk + g.slow
  let m := { m with dur := m.length + extra }
  let s := (s.modCmd tile m.id (fun _ => m)).modTile tile (fun t => { t with etlb := (t.etlb.set 0 g.tlbA).set 1 g.tlbB })
  let s := if g.walk = 0 then s else (s.after g.walk (.streamTlbWalkDone m.core 8)).raise m.core
  match m.failAt with
  | some (cause, _, k, gr) =>
    if m.sq then s.after extra (.scaleQueuePop m.core)
    else s.after (extra + (match m.op with | .mma _ _ => m.stepTime * (k - m.kdone) | _ => 0)) (.matrixCommandStop tile cause k gr)
  | none =>
    if m.sq then s.after extra (.scaleQueuePop m.core)
    else s.after m.dur (.matrixCommandComplete tile)

/-- Post a trap of the matrix array to its issuer's A stream (09 R209). -/
def State.mxTrap (s : State) (core : Nat) (cause : Cause) (va : Nat) : State :=
  s.post core ⟨1, 1, 0, cause, ((s.core core).pos .a).pc, va, ((s.core core).sysReg 0x67).toNat⟩

/-- MPROG of a stopped command (09 R208). -/
def mprog (m : MCmd) (k g : Nat) : Word :=
  BitVec.ofNat 64 (2 ^ 63 + m.batch.val * 2 ^ 45 + m.index % 32 * 2 ^ 40 + g % 8 * 2 ^ 36 + k % 2 ^ 13 * 2 ^ 23)

/-- Stop a command at a point with a cause. -/
def State.mxStop (s : State) (tile : Nat) (m : MCmd) (cause : Cause) (va k g : Nat) : State :=
  let s := s.mxAdvance m k g
  let s := s.modCmd tile m.id (fun c => { c with st := .stopped, kdone := k, rowg := g })
  let s := s.modCore m.core (fun c => c.setSys 0x67 (mprog m k g))
  s.mxTrap m.core cause va

/-- The command the array would start or continue with. -/
def State.mxNext (s : State) (tile : Nat) : Option MCmd :=
  let m := s.mx tile
  match m.owner with
  | none => none
  | some o =>
    if m.cmds.any (fun c => c.st == .running || c.st == .releasing || c.st == .stopped || c.st == .acquiring) then none
    else m.cmds.find? (fun c => c.run == o && (c.st == .queued || c.st == .acquired))

/-- MATRIX_COMMAND_START (09 R194): an acquire first where the command has one; an array that serves a stopped member holds. -/
def execMatrixCommandStart (s : State) : Res :=
  match s.ev with
  | .matrixCommandStart tile =>
    let m := s.mx tile
    match s.mxNext tile with
    | none => .next s
    | some c =>
      let ready := max (max (c.issue + 2) c.acqAt) (max (m.gat + 1) m.doneAt)
      if s.now < ready then .next (s.at_ ready (.matrixCommandStart tile))
      else if (s.core c.core).engineHold then .next s
      -- a restart whose operands have changed since the first read (09 R211)
      else if c.start ≠ 0 && c.marked then .next (s.mxStop tile c .replayOperandLost 0 c.kdone c.rowg)
      else if c.ord.acq && c.st == .queued then
        let off := syncOff (Shape.sync c.sa)
        .next ((s.modCmd tile c.id (fun c => { c with st := .acquiring })).sendAsk tile (accTile off) off c.core (.matrix tile)
          (.matrixAcquire tile))
      else .next (s.mxBegin tile c)
  | _ => .next s

/-- A shape copy takes the version of an acquire of its object (10 R235). -/
def takeVersion (obj w : Nat) (sh : Shape) : Shape :=
  if Shape.sync sh = obj then BitVec.ofNat 512 (sh.toNat - Shape.gver sh * 2 ^ 380 + field w 48 16 * 2 ^ 380) else sh

/-! Completion and stop (09 R194, R205, R209, R214). -/

/-- The command is done: its batch may retire, the array goes on or is free. A command that a reset took from its batch is forgotten. -/
def State.mxDone (s : State) (tile : Nat) (m : MCmd) : State :=
  let s := s.modCmd tile m.id (fun c => { c with st := .done, opA := [], opB := [], posn := [], scales := [], rest := [], watch := [] })
  let x := s.mx tile
  let s := s.setMx tile { x with doneAt := s.now, cmds := x.cmds.filter (fun c => c.id != m.id || m.ret.isNone) }
  ((s.mxRetire m.core m.batch).mxFree tile).at_ s.now (.matrixCommandStart tile)

/-- The end of a command whose writes are made: it waits until its merges are issued; then the release, if it has one, which covers the
writes and merges of every earlier completed command of the core. It asks the home in this cycle, beside the requests that have come to
the object's plane (09 R194, R214; 10 R218; 13 R288, R290). A fence at compute level drops a release that leaves the tile (17 R367). -/
def State.mxFinish (s : State) (tile : Nat) (c : MCmd) : State :=
  let again := s.after 1 (.matrixCommandComplete tile)
  if s.unsent c.core (fun m => match m with | .matrix id _ => id == c.id | _ => false) then again
  else if !c.ord.rel then s.mxDone tile c
  else if s.mergesOf c.core (fun m => match m with | .matrix _ _ => true | _ => false) then again
  else
    let off := syncOff (Shape.sync c.sa)
    if s.muted tile (accTile off) then (s.dropFlit tile (accTile off)).mxDone tile c else
    let s := s.modCmd tile c.id (fun c => { c with st := .releasing })
    { s with waiters := waiterPut s.waiters ⟨off, s.now, c.core, .matrix tile⟩ }.at_ s.now (.syncAccept off)

/-- A matrix command's acquire or release at its object's home. The refusal of an acquire travels back and stops the command; the release
is made as the command completes, and a refusal leaves the command complete (09 R194, R214). -/
def State.matrixServe (s : State) (tile off : Nat) : State :=
  let s' := s.dropAsks (fun r => r == .matrix tile)
  match (s.mx tile).cmds.find? (fun c => c.st == .acquiring || c.st == .releasing) with
  | none => s'
  | some c =>
    let back := 6 + 2 * s.hops tile (accTile off)
    match s.engineSync c.core off (c.st == .releasing), c.st == .releasing with
    | .wait, _ => s
    | .refuse cause, false => s'.after back (.matrixCommandStop tile cause.code c.kdone c.rowg)
    | .done w, false =>
      let obj := Shape.sync c.sa
      let s := (s'.setAccWord off 8 w).wake off
      let s := s.modCmd tile c.id (fun c =>
        { c with st := .acquired, acqAt := s.now + back, sa := takeVersion obj w c.sa, sb := takeVersion obj w c.sb })
      s.after back (.matrixCommandStart tile)
    | .refuse cause, true =>
      let s := s'.modCore c.core (fun x => { x with batch := { x.batch with fault := x.batch.fault.set c.batch true } })
      (s.mxTrap c.core cause 0).mxDone tile c
    | .done w, true =>
      let s := (s'.setAccWord off 8 w).wake off
      let s := if c.ord.sc = .core then s else s.modCore c.core Core.setEffect
      s.mxDone tile c

/-- MATRIX_COMMAND_COMPLETE: an MDRAIN writes one row in a cycle, each waiting for ranges that other batches hold; the others have
written everything; then the end (09 R194, R205, R212). -/
def execMatrixCommandComplete (s : State) : Res :=
  match s.ev with
  | .matrixCommandComplete tile =>
    match (s.mx tile).cmds.find? (fun c => c.st == .running) with
    | none => .next s
    | some c =>
      let (k, g) := c.endPoint
      let at_ := 16 * c.rowg + c.kdone
      if (c.kdone, c.rowg) = (k, g) then .next (s.mxFinish tile c)
      else if c.op.isDrain then
        -- a merge that waits for room holds the next row too (13 R288)
        let waits := s.unsent c.core (fun m => match m with | .matrix id _ => id == c.id | _ => false)
        if waits || s.rowHeld c at_ then .next (s.after 1 s.ev)
        else if s.cellsBad c at_ then .next (s.mxStop tile c .eccAcc 0 c.kdone c.rowg)
        else
          let (k, g) := ((at_ + 1) % 16, (at_ + 1) / 16)
          let s := (s.mxAdvance c k g).takePlane (64 * tile + c.plane)
          .next ((s.modCmd tile c.id (fun c => { c with kdone := k, rowg := g })).after 1 s.ev)
      else
        let s := (s.mxAdvance c k g).takePlane (64 * tile + c.plane)
        let c := { c with kdone := k, rowg := g }
        .next ((s.modCmd tile c.id (fun _ => c)).mxFinish tile c)
  | _ => .next s

/-- A point within what a command has reached: no earlier than its progress, no later than its end or the scales it holds. -/
def MCmd.clampPoint (m : MCmd) (k g : Nat) : Nat × Nat :=
  match m.op with
  | .mma _ _ =>
    let top := if m.sq then min m.steps (m.blk * m.p) else m.steps
    let k := k / max m.p 1 * m.p
    if top ≤ k then (top, 0)
    else if k < m.kdone then (m.kdone, m.rowg)
    else (k, if k = m.kdone then max m.rowg (min g (m.rows / 16 - 1)) else min g (m.rows / 16 - 1))
  | _ => (m.kdone, m.rowg)

/-- MATRIX_COMMAND_STOP: a fault met in execution, a check of the array itself that failed at the point which the event names, or an
acquire that its home has refused (09 R201, R209, R210, R214). -/
def execMatrixCommandStop (s : State) : Res :=
  match s.ev with
  | .matrixCommandStop tile code k g =>
    match (s.mx tile).cmds.find? (fun c => c.st == .running || c.st == .acquiring) with
    | none => .next s
    | some c =>
      let drop (e : Event) : Bool := match e with
        | .matrixCommandComplete t => t == tile
        | .scaleQueuePop n => n == c.core
        | .matrixCommandStop t _ _ _ => t == tile
        | _ => false
      let s := s.cancel drop
      let cause := (Cause.ofCode code).getD .matrixResidue
      if c.st = .acquiring then .next (s.mxStop tile c cause 0 c.kdone c.rowg) else
      match c.failAt with
      | some (code', va, k', g') =>
        if code' = code ∧ k' = k ∧ g' = g then .next (s.mxStop tile c cause va k g)
        else
          -- no later than the point where its own reads fail
          let p := c.clampPoint k g
          let p := if k' < p.1 || (k' == p.1 && g' < p.2) then (k', g') else p
          .next (s.mxStop tile c cause 0 p.1 p.2)
      | none => .next (s.mxStop tile c cause 0 (c.clampPoint k g).1 (c.clampPoint k g).2)
  | _ => .next s

/-- SCALE_QUEUE_POP: the array takes the entries of the block that begins, unless a stop left them in its buffer; an empty q5 lets it
wait (09 R202). A command that fails in the block stops there. -/
def execScaleQueuePop (s : State) : Res :=
  match s.ev with
  | .scaleQueuePop core =>
    let tile := tileOf core
    match (s.mx tile).cmds.find? (fun c => c.st == .running && c.core == core && c.sq) with
    | none => .next s
    | some m =>
      let need := m.rows + m.cols
      let c := s.core core
      if m.nint ≤ m.biv then .next (s.after 14 (.matrixCommandComplete tile))
      else if m.biv < m.blk then
        match m.failAt with
        | some (cause, _, k, g) =>
          if k / max m.p 1 = m.biv then .next (s.at_ s.now (.matrixCommandStop tile cause k g))
          else .next ((s.modCmd tile m.id (fun m => { m with biv := m.biv + 1 })).after (m.p * m.stepTime) s.ev)
        | none =>
          let s := s.modCmd tile m.id (fun m => { m with biv := m.biv + 1 })
          .next (if m.biv + 1 < m.nint then s.after (m.p * m.stepTime) s.ev
            else s.after (m.p * m.stepTime + 14) (.matrixCommandComplete tile))
      else if m.rest.length < need then
        match c.q.ld[5] with
        | e :: t =>
          if e.ready.any (fun r => r ≤ s.now) then
            let s := s.setCore core { c with q := { c.q with ld := c.q.ld.set 5 t } }
            .next ((s.modCmd tile m.id (fun m => { m with rest := m.rest ++ lanesOf e.data 8 })).at_ s.now s.ev)
          else .next (s.after 1 s.ev)
        | [] => .next (s.after 1 s.ev)
      else
        .next ((s.modCmd tile m.id (fun m =>
          { m with scales := m.scales ++ m.rest.take need, rest := m.rest.drop need, blk := m.blk + 1 })).at_ s.now s.ev)
  | _ => .next s

/-! Restart and abandonment (09 R209, R211). -/

/-- At RFT: the stopped command of a core restarts, or is dropped with the rest of its batch; one that a reset took from its batch goes
alone. RFT clears ABANDON where no command is stopped, which no rule says (notes/assumptions/51.md, DESIGN CHOICE, unsafe). -/
def State.mxRestart (s : State) (core : Nat) : State :=
  let tile := tileOf core
  let mp := ((s.core core).sysReg 0x67).toNat
  match (s.mx tile).cmds.find? (fun c => c.core == core && c.st == .stopped) with
  | none => s.modCore core (fun c => c.setSys 0x67 (BitVec.ofNat 64 (setBit mp 62 false)))
  | some m =>
    if m.ret.isSome then (s.modCore core (fun c => c.setSys 0x67 (BitVec.ofNat 64 (mp % 2 ^ 62)))).mxDone tile m
    else if bitOf mp 62 then
      let s := s.modCore core (fun c => { c.setSys 0x67 (BitVec.ofNat 64 (mp % 2 ^ 62)) with
        batch := { c.batch with fault := c.batch.fault.set m.batch true, abandoned := c.batch.abandoned.set m.batch true } })
      let mx := s.mx tile
      let s := s.setMx tile { mx with cmds := mx.cmds.map (fun c =>
        if c.core = core ∧ c.batch = m.batch ∧ c.ret.isNone then { c with st := .done } else c) }
      (((s.mxRetire core m.batch).mxFree tile).mxWithdraw tile).at_ s.now (.matrixCommandStart tile)
    else if m.marked then s.mxTrap core .replayOperandLost 0
    else
      let s := s.modCore core (fun c => c.setSys 0x67 (BitVec.ofNat 64 (mp % 2 ^ 63)))
      -- a command that has never begun was refused at its acquire, and makes it again
      let again := if m.ord.acq && m.start = 0 then .queued else .acquired
      (s.modCmd tile m.id (fun m => { m with st := again })).at_ s.now (.matrixCommandStart tile)

/-! X words against batches in flight (09 R213). -/

/-- The half-row touches cells of a command whose batch has not retired before this cycle. -/
def State.mxConflict (s : State) (core plane row base : Nat) (store : Bool) : Bool :=
  (s.mx (tileOf core)).cmds.any (fun m =>
    m.core == core && (match m.ret with | some t => t == s.now | none => true) && m.plane == plane && m.row ≤ row && row < m.row + m.rows
      && m.col < base + 64 && base < m.col + m.cols && (store || (match m.op with | .mdrain _ => false | _ => true)))

end Sys2Proof.Machine
end

