-- ==== Sys2Proof/Machine/AccPort.lean ====
section
/-! DEFINITION. Row access of the X stream to accumulator SRAM (10 R217 to R220; 09 R213). -/

namespace Sys2Proof.Machine

/-- The planes of the local tile that the X stream may reach (10 R217). -/
def Core.planeOk (c : Core) (p : Nat) : Bool :=
  if p ≤ 61 then bitOf (c.sysReg 0x61).toNat p else p == 62 && c.sup

/-- The row a word names: an x scalar is read as 64 bits (10 R220). -/
def Core.accRow (c : Core) : RowSel → Nat
  | .lit r => r.val
  | .x r => (c.getX r).toNat

/-- An error in a cell of the half-row. -/
def State.rowEcc (s : State) (tile plane row base : Nat) : Bool :=
  (s.placeEcc (.acc (cellOff tile plane row base)) 256).isSome

/-- The issue of a row access: bounds, the cells of unretired batches, errors; its access asks for the plane's port in the next
cycle (10 R218, R220). -/
def xRow (s : State) (inp : XIn) (op : AccOp) (hi : Bool) (p : Fin 64) (row : RowSel) (dst : FDst) : Res :=
  let r := s.me.accRow row
  let base := if hi then 64 else 0
  let bad := 128 ≤ r || !s.me.planeOk p.val
  let inp := { inp with
    reads := inp.reads ++ (match row with | .x n => [.x n.val] | .lit _ => [])
    bad := if bad then some .accBounds else none
    cells := s.mxConflict s.who.core p.val r base (op != .load) }
  xWord s inp (fun s vs =>
    if op ≠ .store && s.rowEcc s.myTile p.val r base then s.trap .eccAcc
    else
      let c := s.me.popSrcs inp.srcs
      let id := c.xr.nextId
      let fl : List Flight := if op = .load then [{ id := id, land := some (s.now + 5), unit := none, dst := dst, sealOp := .none }] else []
      let q := match dst with
        | .q n v en => { c.q with st := c.q.st.setIfInBounds (n - 6) ((c.q.st.getD (n - 6) []) ++ [⟨id, v, en, Option.none⟩]) }
        | _ => c.q
      let req : AccReq := ⟨s.who.core, id, op, p.val, r, base, vs.getD 0 0, c.xRnd, c.xSat, s.now + 1⟩
      let s := s.setMe { c with q := q, xr := { c.xr with flights := c.xr.flights ++ fl, nextId := id + 1 } }
      let s := s.modTile s.myTile (fun t => { t with ports := t.ports ++ [req] })
      .next (s.after 1 (.accumulatorPortGrant s.myTile p.val)).retire)

def execAcld (hi : Bool) (dly : N8) (v : Dst) (p : Fin 64) (row : RowSel) (s : State) : Res :=
  let dst : FDst := match v with
    | .v n => .v (physV s.me.xo.rrb n) 0
    | .q n => .q n.val 0 (BitVec.allOnes 256)
    | .none => .none
  xRow s { dly := dly.val, writes := s.me.dstItems v, qd := dstQueue v, lat := 5 } .load hi p row dst
def execAcst (hi : Bool) (dly : N8) (v : Src) (p : Fin 64) (row : RowSel) (s : State) : Res :=
  xRow s { dly := dly.val, srcs := [(v, 32)] } .store hi p row .none
def execAcsta (hi int : Bool) (dly : N8) (v : Src) (p : Fin 64) (row : RowSel) (s : State) : Res :=
  xRow s { dly := dly.val, srcs := [(v, 32)] } (if int then .addI else .addF) hi p row .none

/-- A cell after an addition (10 R220). -/
def accAdd (q : AccReq) (cell v : Nat) : Nat :=
  match q.op with
  | .addI =>
    let z := signedOf 32 cell + signedOf 32 v
    if q.sat then wrapTo 32 (satTo 32 z) else wrapTo 32 z
  | .addF => fp32.round ⟨q.rnd, 0, q.sat⟩ (Num.add (q.rnd == .rdn) (fp32.decode cell) (fp32.decode v))
  | _ => v

/-- The result of a load: the lanes fill the flight and the queue slot, which land four cycles later. -/
def State.fillLoad (s : State) (q : AccReq) (v : Vec) : State :=
  let s := s.modCore q.core (fun c =>
    let put (f : Flight) : Flight :=
      if f.id = q.id then
        { f with land := some (s.now + 4), dst := match f.dst with | .v n _ => .v n v | .q n _ en => .q n v en | d => d }
      else f
    let st := c.q.st.map (fun l => l.map (fun (e : StoreEntry) => if e.id = q.id then { e with data := v } else e))
    { c with q := { c.q with st := st }, xr := { c.xr with flights := c.xr.flights.map put } })
  s.after 4 (.xResultLand q.core q.id)

/-- The row accesses to a plane that have not got it in this cycle ask again in the next: what they load lands a cycle later (10 R218,
R220). -/
def State.askLater (s : State) (tile plane : Nat) : State :=
  let waits (q : AccReq) : Bool := q.plane == plane && q.at_ ≤ s.now
  let late := (s.tile tile).ports.filter waits
  let s := s.modTile tile (fun t => { t with ports := t.ports.map (fun q => if waits q then { q with at_ := s.now + 1 } else q) })
  let s := late.foldl (fun s q => s.modCore q.core (fun c => { c with xr := { c.xr with flights := c.xr.flights.map (fun f =>
    if f.id = q.id then { f with land := some (s.now + 5) } else f) } })) s
  if late.isEmpty || s.agenda.any (fun e => e.1 == 2 * (s.now + 1) && e.2 == .accumulatorPortGrant tile plane) then s
  else s.after 1 (.accumulatorPortGrant tile plane)

/-- What a row access is about to overwrite is kept while an older QSCALE may still be refused (05 R103, 13 R296). -/
def State.keepRow (s : State) (q : AccReq) (off : Nat) : State :=
  let row := (off, s.accum.bytes off 256, s.badAcc.filter (fun w => off ≤ w && w < off + 256))
  s.modCore q.core (fun c =>
    if c.scales.any (fun v => v.id < q.id) then
      { c with scales := c.scales.map (fun v => if v.id < q.id then { v with rows := row :: v.rows } else v) }
    else c)

/-- ACCUMULATOR_PORT_GRANT: the plane serves the request of the lowest core; the others ask again in the next cycle (10 R218). -/
def execAccumulatorPortGrant (s : State) : Res :=
  match s.ev with
  | .accumulatorPortGrant tile plane =>
    if s.planeTaken (64 * tile + plane) then .next (s.askLater tile plane) else
    let t := s.tile tile
    let due := t.ports.filter (fun q => q.plane == plane && q.at_ ≤ s.now)
    let first := due.foldl (fun m q => min m q.core) 1024
    match due.find? (fun q => q.core == first) with
    | none => .next s
    | some q =>
      let s := ((s.setTile tile { t with ports := t.ports.erase q }).takePlane (64 * tile + plane)).askLater tile plane
      let off (j : Nat) : Nat := cellOff tile plane q.row (q.base + j)
      let js := List.range 64
      match q.op with
      | .load => .next (s.fillLoad q (ofLanes 32 (js.map (fun j => s.accum.num (off j) 4))))
      | op =>
        let s := s.keepRow q (off 0)
        let s := if op == .store then { s with badAcc := mendWords s.badAcc (off 0) 256 } else s
        .next (js.foldl (fun s j =>
          { s with accum := s.accum.setNum (off j) 4 (accAdd q (s.accum.num (off j) 4) (lane q.data 32 j)) }) s)
  | _ => .next s

end Sys2Proof.Machine
end

