-- ==== Sys2Proof/Machine/Queues.lean ====
section
/-! DEFINITION. Queue loads and stores, branch queues of the A stream, prefetch distances, the walks of queue words (07). -/

namespace Sys2Proof.Machine

/-! Segments: checks and translations (07 R142, R143, R145). -/

/-- What the checks of a word's segments have found. -/
structure SegPlan where
  got  : List (Nat × Place)
  fail : Option (Cause × Nat × Nat)
  tlb  : StreamTlb
  time : Nat
  walked : Bool

/-- A range of the tile is held against a store (09 R212). -/
def State.heldAt (s : State) (tile va : Nat) (pl : Option Place) : Bool :=
  match pl with
  | some (.scratch o) =>
    let a : Int := (o % 0x80_0000 : Nat)
    s.held tile ⟨true, a, a + 63⟩
  | _ => s.held tile ⟨false, va, va + 63⟩

/-- The checks of one segment, the rows of 07 R143 in order, and its translation; `known` are translations that a walk has brought. -/
def segOne (s : State) (ch : Nat) (store : Bool) (stride : Nat) (known : List (Nat × Place)) (va : Nat) (p : SegPlan) : SegPlan :=
  let c := s.me
  let tile := s.myTile
  if va % 64 ≠ 0 ∨ stride % 64 ≠ 0 then { p with fail := some (.align, 0, 0) }
  else if inScratchWindow va then
    match c.scratchAt tile va 64 with
    | none => { p with fail := some (.scratchBounds, 0, 0) }
    | some o =>
      if store && s.heldAt tile va (some (.scratch o)) then { p with fail := some (.holdViolation, 0, 0) }
      else { p with got := p.got ++ [(va, .scratch o)] }
  else if inAccWindow va then { p with fail := some (.accBounds, 0, 0) }
  else if store && s.heldAt tile va none then { p with fail := some (.holdViolation, 0, 0) }
  else
    match known.find? (fun e => e.1 == va) with
    | some (_, pl) => { p with got := p.got ++ [(va, pl)] }
    | none =>
      let (r, tlb) := s.streamTranslate tile c.sup p.tlb (c.q.pref.getD ch 0) va (if store then .write else .read) true
      let p := { p with tlb := tlb, time := p.time + r.time, walked := p.walked || r.walked }
      match r.res with
      | .error f => { p with fail := some (f.trap va) }
      | .ok pl => { p with got := p.got ++ [(va, pl)] }

/-- Each distinct segment in ascending k, up to the first that fails. -/
def segPlan (s : State) (ch : Nat) (store : Bool) (stride : Nat) (known : List (Nat × Place)) : List Nat → SegPlan → SegPlan
  | [], p => p
  | va :: t, p =>
    if p.got.any (fun e => e.1 == va) then segPlan s ch store stride known t p
    else if (segOne s ch store stride known va p).fail.isSome then segOne s ch store stride known va p
    else segPlan s ch store stride known t (segOne s ch store stride known va p)

/-- The places of a queue word's four segments, or its wait for the walks, or its trap. A word that waited goes on with what the
walks have brought (07 R145). -/
def queueSegs (s : State) (ch : Nat) (store : Bool) (segs : List Nat) (stride : Nat) (k : State → List (Nat × Place) → Res) : Res :=
  let c := s.me
  match c.q.walk with
  | some w =>
    if !w.done then .next s else
    let p := segPlan s ch store stride w.got segs ⟨[], none, c.q.tlb.getD ch StreamTlb.empty, 0, false⟩
    let s := s.setMe { c with q := { c.q with walk := none } }
    match p.fail with
    | some (cause, i0, i1) => s.trap cause i0 i1
    | none => k s (segs.filterMap (fun va => p.got.find? (fun e => e.1 == va)))
  | none =>
    let p := segPlan s ch store stride [] segs ⟨[], none, c.q.tlb.getD ch StreamTlb.empty, 0, false⟩
    if p.walked then
      let w : Walk := ⟨p.got, p.fail, [], some p.tlb, s.now + p.time, false⟩
      .next (((s.setMe { c with q := { c.q with walk := some w } }).after p.time (.streamTlbWalkDone s.who.core ch)).raise s.who.core)
    else
      let s := s.setMe { c with q := { c.q with tlb := c.q.tlb.setIfInBounds ch p.tlb } }
      match p.fail with
      | some (cause, i0, i1) => s.trap cause i0 i1
      | none => k s (segs.filterMap (fun va => p.got.find? (fun e => e.1 == va)))

/-- STREAM_TLB_WALK_DONE: the entries are installed and the raise ends; a walk that failed traps the word that waits
(07 R143, R145; 12 R265, R269). Channels 8 to 13 are the engines', which
time their own commands; 14 is the C stream's TLB. -/
def execStreamTlbWalkDone (s : State) : Res :=
  match s.ev with
  | .streamTlbWalkDone core ch =>
    let s := s.lower core
    let c := s.core core
    if ch = 14 then
      match c.c.walk with
      | none => .next s
      | some w =>
        if w.until_ ≠ s.now || w.done then .next s else
        let tlb := w.fill.foldl tlbFill c.ctlb
        match w.fail with
        | some (cause, i0, i1) =>
          let c := { c with ctlb := tlb, c := { c.c with walk := none } }
          .next ((s.setCore core c).trapOf ⟨core, .c⟩ cause i0 i1)
        | none => .next (s.setCore core { c with ctlb := tlb, c := { c.c with walk := some { w with done := true } } })
    else if 8 ≤ ch then .next s
    else
      match c.q.walk with
      | none => .next s
      | some w =>
        if w.until_ ≠ s.now || w.done then .next s else
        let tlb := c.q.tlb.setIfInBounds ch (w.stlb.getD StreamTlb.empty)
        match w.fail with
        | some (cause, i0, i1) =>
          .next ((s.setCore core { c with q := { c.q with tlb := tlb, walk := none } }).trapOf ⟨core, .a⟩ cause i0 i1)
        | none => .next (s.setCore core { c with q := { c.q with tlb := tlb, walk := some { w with done := true } } })
  | _ => .next s

/-! Timing (07 R144, R156; 12 R268). -/

/-- Extra cycles of a word's own bank conflicts: distinct scratch segments of one bank follow each other. -/
def bankExtra (pls : List Place) : Nat :=
  let banks := pls.eraseDups.filterMap (fun p => match p with | .scratch o => some (o / 64 % 32) | _ => none)
  (banks.map (fun b => banks.count b)).foldl max 1 - 1
def Place.isScratch : Place → Bool | .scratch _ => true | _ => false
/-- Cycles until every device segment's line has answered. -/
def State.deviceTime (s : State) (pls : List Place) : Nat :=
  (pls.map (fun p => if p.isScratch then 0 else s.accessTime s.myTile p)).foldl max 0

/-- The last write cycle of a store that overlaps a segment. -/
def overlapCycle (wr : List QStore) (pls : List Place) : Nat :=
  ((wr.filter (fun q => q.segs.any (fun g => pls.contains g.place))).map (fun q => q.at_)).foldl max 0

/-- A store among others, in the order of issue. -/
def storePut (q : QStore) : List QStore → List QStore
  | [] => [q]
  | w :: t => if w.id ≤ q.id then w :: storePut q t else q :: w :: t
/-- The scalar stores and queue stores of a core on their way, in the order in which they were issued or committed (10 R225). -/
def Core.onWay (c : Core) : List QStore := c.cst.foldl (fun l q => storePut q l) c.q.wr

/-! Queue loads (07 R147, R148). -/

/-- A refusal or an error of the bytes that a word reads. -/
def State.segCause (s : State) (pls : List Place) (reads : Bool) : Option Cause :=
  pls.findSome? (fun p => s.kindRefusal p <|> (if reads then s.placeEcc p 64 else none))

def queueLoad (s : State) (g : Guard) (srcs : List Reg) (q : N8) (stride : Core → Nat) (form : Core → Word × SegForm) : Res :=
  aWord s g srcs (fun c =>
    if 16 ≤ (c.q.ld.getD q.val []).length then .next s else
    queueSegs s q.val false (segAddrs (form c).1 (form c).2) (stride c) (fun s got =>
      let pls := got.map (fun e => e.2)
      match s.segCause pls true with
      | some cause => s.trap cause
      | none =>
        let c := s.me
        let bytes := pls.flatMap (fun p => overlayStores c.onWay p (s.readPlace p 64))
        let scr := if pls.any Place.isScratch then 6 + bankExtra pls else 0
        let time := max (max scr (s.deviceTime pls)) 1 + (overlapCycle c.q.wr pls - s.now)
        let id := c.q.nextId
        let e : LoadEntry := ⟨id, BitVec.ofNat 2048 (leNat bytes), none⟩
        let ld := c.q.ld.setIfInBounds q.val (c.q.ld.getD q.val [] ++ [e])
        let air := airPut c.q.air s.myTile s.now (s.now + time) pls
        .next ((s.setMe { c with q := { c.q with ld := ld, nextId := id + 1, air := air } }).after time
          (.loadQueueEntryReady s.who.core id)).retire))

def disp64 {n : Nat} (d : BitVec n) : Word := d.signExtend 64 * 64
def execLdq (g : Guard) (q : N8) (b : Reg) (disp : BitVec 11) (s : State) : Res :=
  queueLoad s g [b] q (fun _ => 0) (fun c => (c.getA b, .run (disp64 disp)))
def execLdqShort (q : N8) (b : Reg) (disp : N8) (s : State) : Res :=
  queueLoad s always [b] q (fun _ => 0) (fun c => (c.getA b, .run (BitVec.ofNat 64 (64 * disp.val))))
def execLdqs (g : Guard) (q : N8) (b st : Reg) (s : State) : Res :=
  queueLoad s g [b, st] q (fun c => (c.getA st).toNat) (fun c => (c.getA b, .stride (c.getA st)))
def execLdqb (g : Guard) (q : N8) (b : Reg) (disp : BitVec 11) (s : State) : Res :=
  queueLoad s g [b] q (fun _ => 0) (fun c => (c.getA b, .same (disp64 disp)))
def execGathq (g : Guard) (q : N8) (b x : Reg) (s : State) : Res :=
  queueLoad s g [b, x] q (fun _ => 0) (fun c => (c.getA b, .index (c.getA x)))

/-- LOAD_QUEUE_ENTRY_READY: the data of an entry has come; older entries of its queue are read before it (07 R140). -/
def execLoadQueueEntryReady (s : State) : Res :=
  match s.ev with
  | .loadQueueEntryReady core id =>
    .next (s.modCore core (fun c => { c with q := { c.q with
      ld := c.q.ld.map (fun l => l.map (fun (e : LoadEntry) => if e.id = id then { e with ready := some s.now } else e)) } }))
  | _ => .next s

/-! Queue stores (07 R146, R149, R150). -/

/-- The bytes of segment k that are enabled. -/
def segBytes (e : StoreEntry) (k : Nat) : List (Option Byte) :=
  (List.range 64).map (fun i =>
    if e.en.getLsbD (64 * k + i) then some (BitVec.ofNat 8 (e.data.toNat / 2 ^ (8 * (64 * k + i)))) else none)

/-- The elements of an entry all of whose bytes are enabled, in the shape's format (13 R286). -/
def entryCodes (e : StoreEntry) (es : Nat) : List Nat :=
  ((List.range (256 / es)).filter (fun j => (List.range es).all (fun i => e.en.getLsbD (es * j + i)))).map
    (fun j => e.data.toNat / 2 ^ (8 * es * j) % 2 ^ (8 * es))

/-- The shape that QBIND gives a store queue (07 R146). -/
def Core.boundShape (c : Core) (q : N8) : Option Shape :=
  let b := (c.sysReg 0x54).toNat
  let k := 8 * (q.val - 6)
  if bitOf b (7 + k) then some (c.sh.getD (field b k 4) 0) else none

/-- The cycle of the last write, among stores on their way, to one of the places a word writes: a line of device memory, a segment
of the scratchpad. A later write follows it (10 R225). -/
def lastWrite (wr : List QStore) (segs : List SegWrite) : Nat :=
  let meets (a b : Place) : Bool := a.space == b.space && (if a.isScratch then a.off / 64 == b.off / 64 else a.line == b.line)
  ((wr.filter (fun w => w.segs.any (fun g => segs.any (fun d => meets d.place g.place)))).map (fun w => w.at_)).foldl max 0

/-- The merge of a bound queue's store: what its elements fold into (13 R286). -/
def storePartial (sh : Option Shape) (e : StoreEntry) : Option Partial :=
  sh.bind (fun v =>
    if Shape.upd v then foldGroup (Shape.albn v) (Shape.fmt v) (Shape.qfrac v) (entryCodes e (Shape.esz v)) else none)
/-- The writes of a queue store, numbered from `id`: its segments of the scratchpad together, two cycles after issue; each segment of
device memory when its line is reached. Each follows earlier stores of the core to the same place (07 R144, R150; 12 R268; 10 R225). -/
def State.storeWrites (s : State) (e : StoreEntry) (got : List (Nat × Place)) (sh : Option Shape) (id : Nat) : List QStore :=
  let c := s.me
  let segs := got.zipIdx.map (fun (a, k) => (⟨a.2, a.1, segBytes e k⟩ : SegWrite))
  let scr := segs.filter (fun g => g.place.isScratch)
  let dev := segs.filter (fun g => !g.place.isScratch)
  let tS := max (s.now + 2 + bankExtra (got.map (fun a => a.2))) (lastWrite c.q.wr scr)
  let gver := sh.map Shape.gver
  let part := storePartial sh e
  let w1 : List QStore := if scr.isEmpty then [] else [⟨id, id, tS, scr, gver, part⟩]
  w1 ++ dev.zipIdx.map (fun (g, k) =>
    ⟨id + w1.length + k, id, max (s.now + s.accessTime s.myTile g.place) (lastWrite (c.cst ++ c.q.wr) [g]), [g], gver,
     if w1.isEmpty && k == 0 then part else none⟩)
/-- A store issues: it takes the entry, and its writes are on their way. -/
def State.queueStoreIssue (s : State) (q : N8) (e : StoreEntry) (got : List (Nat × Place)) (sh : Option Shape) : State :=
  let c := s.me
  let ws := s.storeWrites e got sh c.q.nextId
  let st := c.q.st.setIfInBounds (q.val - 6) ((c.q.st.getD (q.val - 6) []).drop 1)
  let s := s.setMe { c with q := { c.q with st := st, wr := c.q.wr ++ ws, nextId := c.q.nextId + 5 } }
  ws.foldl (fun s w => s.at_ w.at_ (.queueStoreWrite s.who.core w.id)) s

def queueStore (s : State) (g : Guard) (srcs : List Reg) (q : N8) (stride : Core → Nat) (form : Core → Word × SegForm) : Res :=
  aWord s g srcs (fun c =>
    match c.q.st.getD (q.val - 6) [] with
    | [] => .next s
    | e :: _ =>
      if !e.ready.any (fun t => t ≤ s.now) || !c.settled e.id then .next s else
      let sh := c.boundShape q
      match sh.bind (shapeCheck c) with
      | some cause => s.trap cause
      | none =>
        queueSegs s q.val true (segAddrs (form c).1 (form c).2) (stride c) (fun s got =>
          match s.segCause (got.map (fun a => a.2)) false with
          | some cause => s.trap cause
          | none => .next (s.queueStoreIssue q e got sh).retire))

def execStq (g : Guard) (q : N8) (b : Reg) (disp : BitVec 11) (s : State) : Res :=
  queueStore s g [b] q (fun _ => 0) (fun c => (c.getA b, .run (disp64 disp)))
def execStqShort (q : N8) (b : Reg) (disp : N8) (s : State) : Res :=
  queueStore s always [b] q (fun _ => 0) (fun c => (c.getA b, .run (BitVec.ofNat 64 (64 * disp.val))))
def execStqs (g : Guard) (q : N8) (b st : Reg) (s : State) : Res :=
  queueStore s g [b, st] q (fun c => (c.getA st).toNat) (fun c => (c.getA b, .stride (c.getA st)))
def execScatq (g : Guard) (q : N8) (b x : Reg) (s : State) : Res :=
  queueStore s g [b, x] q (fun _ => 0) (fun c => (c.getA b, .index (c.getA x)))

/-- The segments of a store in ascending k: the state, and the segments that wait for an overflow slot (12 R280). -/
def writeSegs (s : State) (core id : Nat) (gver : Option Nat) : List SegWrite → State × List SegWrite
  | [] => (s, [])
  | g :: t =>
    if g.bytes.all (fun b => b.isNone) then writeSegs s core id gver t else
    -- a fence has stopped it on its way (17 R367)
    if s.kindRefusal g.place = some .destEclipsed then writeSegs (s.trapOf ⟨core, .a⟩ .destEclipsed 0 0) core id gver t else
    match s.writePlace g.place g.bytes (some g.va) gver none (.store core id) with
    | .done s => writeSegs s core id gver t
    | .wait s => (s, g :: t)
    | .refuse cause => writeSegs (s.trapOf ⟨core, .a⟩ cause 0 0) core id gver t

/-- A write is done: its word's merge leaves with the last of them, or passes to one that is still to come. -/
def State.storeDone (s : State) (core : Nat) (w : QStore) : State :=
  let rest := (s.core core).q.wr.filter (fun q => q.id != w.id)
  let pass := w.merge.isSome && rest.any (fun q => q.word == w.word)
  let last := ((rest.filter (fun q => q.word == w.word)).getLast?.map (fun q => q.id)).getD 0
  let s := s.modCore core (fun c =>
    { c with q := { c.q with wr := rest.map (fun q => if pass && q.id == last then { q with merge := w.merge } else q),
                             wrote := (s.now, if c.q.wrote.1 = s.now then min c.q.wrote.2 w.id else w.id) } })
  match w.merge with
  | some p => if pass then s else s.at_ s.now (.albedoMergeIssue core .queue p)
  | none => s

/-- QUEUE_STORE_WRITE (07 R144, R150). -/
def execQueueStoreWrite (s : State) : Res :=
  match s.ev with
  | .queueStoreWrite core id =>
    match (s.core core).q.wr.find? (fun w => w.id == id) with
    | none => .next s
    | some w =>
      let (s, rest) := writeSegs s core id w.gver w.segs
      if rest.isEmpty then .next (s.storeDone core w)
      else .next ((s.modCore core (fun c => { c with q := { c.q with
        wr := c.q.wr.map (fun q => if q.id = id then { q with segs := rest, at_ := s.now + 1 } else q) } })).after 1 s.ev)
  | _ => .next s

/-! Branch queues (07 R151, R152) and prefetch distances (07 R154). -/

def aBqput (s : State) (g : Guard) (op : BqA) (q : Fin 4) : Res :=
  let srcs := match op with | .reg r => [r] | .pred _ => []
  aWord s g srcs (fun c =>
    let v := match op with | .pred p => predByte (c.pred .a p) | .reg r => (c.getA r).setWidth 8
    if c.bqFull q then .next s else .next (s.setMe (c.bqPush q v s.now)).retire)
def execBqputA (g : Guard) (op : BqA) (q : Fin 4) (s : State) : Res := aBqput s g op q
def execBqputAShort (q : Fin 4) (p : N8) (s : State) : Res := aBqput s always (.pred p) q
def execBqgetA (g : Guard) (op : BqA) (q : Fin 4) (s : State) : Res :=
  aWord s g [] (fun c =>
    if !c.bqReady s.now q then .next s else
    let v := c.bqHead q
    let s := s.setMe (c.bqPop q)
    match op with
    | .pred p => .next (s.setMe (s.me.setPred .a p (v != 0))).retire
    | .reg r => .next (s.aWrite r (v.setWidth 64) 1).retire)

def execPgdist (g : Guard) (ch : Fin 14) (a : Reg) (s : State) : Res :=
  aWord s g [a] (fun c =>
    let d := min (c.getA a).toNat (2 ^ 29 - 64) / 64 * 64
    .next (s.setMe { c with q := { c.q with pref := c.q.pref.set ch d } }).retire)

end Sys2Proof.Machine
end

