-- ==== Sys2Proof/Machine/Records.lean ====
section
/-! DEFINITION. Launch records, arm lists and the tail's segment descriptors (14 R297 to R304, R306; 15 R331, R332). -/

namespace Sys2Proof.Machine

def State.rcd (s : State) (r : Nat) : Rec := Map.get Rec.fresh s.recs r
def State.setRcd (s : State) (r : Nat) (v : Rec) : State := { s with recs := Map.put Rec.fresh s.recs r v }
/-- Bytes of a record as a number. -/
def recNumOf (img : BitVec 2048) (at_ n : Nat) : Nat := field img.toNat (8 * at_) (8 * n)
def setRecNum (img : BitVec 2048) (at_ n v : Nat) : BitVec 2048 :=
  BitVec.ofNat 2048 (img.toNat - recNumOf img at_ n * 2 ^ (8 * at_) + v % 2 ^ (8 * n) * 2 ^ (8 * at_))

/-! Fields of HDR (14 R298) and of the record (14 R297). -/

def recHdr (img : BitVec 2048) : Nat := recNumOf img 0 8
def recState (img : BitVec 2048) : Nat := field (recHdr img) 0 3
def recSbmode (img : BitVec 2048) : Bool := bitOf (recHdr img) 3
def recPrio (img : BitVec 2048) : Nat := field (recHdr img) 4 4
def recArmer (img : BitVec 2048) : Nat := field (recHdr img) 8 10
def recArmv (img : BitVec 2048) : Bool := bitOf (recHdr img) 18
def recChild (img : BitVec 2048) (r : Nat) : Bool :=
  field (recHdr img) 35 14 ≤ r && r < field (recHdr img) 35 14 + field (recHdr img) 49 15
def setField (n lo len v : Nat) : Nat := n - field n lo len * 2 ^ lo + v % 2 ^ len * 2 ^ lo
def setRecState (img : BitVec 2048) (v : Nat) : BitVec 2048 := setRecNum img 0 8 (setField (recHdr img) 0 3 v)
def setRecCause (img : BitVec 2048) (v : Nat) : BitVec 2048 := setRecNum img 0 8 (setField (recHdr img) 28 7 v)
/-- ARMED by a core, or by the host or firmware. -/
def armRec (img : BitVec 2048) (core : Option Nat) : BitVec 2048 :=
  let h := setField (setField (recHdr img) 0 3 2) 18 1 (b2n core.isSome)
  setRecNum img 0 8 (match core with | some c => setField h 8 10 c | none => h)
def recTgt (img : BitVec 2048) : Nat := recNumOf img 8 8
def recOvl (img : BitVec 2048) : Nat := recNumOf img 0x10 8
def recHovl (img : BitVec 2048) : Nat := recNumOf img 0x18 8
def recStart (img : BitVec 2048) : Nat := recNumOf img 0x20 8
def recPred (img : BitVec 2048) (i : Nat) : Nat := recNumOf img (0x28 + 2 * i) 2
def recWidw (img : BitVec 2048) (i : Nat) : Nat := field (recNumOf img 0x38 8) (6 * i) 6
/-- An extent of 0 is read as 1. -/
def recExt (img : BitVec 2048) (i : Nat) : Nat := let v := recNumOf img (0x40 + 4 * i) 4; if v = 0 then 1 else v
def recWidbase (img : BitVec 2048) : Nat := recNumOf img 0x58 8
def recArg (img : BitVec 2048) (i : Nat) : Nat := recNumOf img (0x60 + 8 * i) 8
def recScrg (img : BitVec 2048) : Nat := field (recNumOf img 0xE0 8) 0 8
def recPlanes (img : BitVec 2048) : Nat := field (recNumOf img 0xE0 8) 8 6
def recAlbcnt (img : BitVec 2048) : Nat := field (recNumOf img 0xF8 8) 0 17
/-- Base and bytes of the tail, at 0xE8, or of the spill region, at 0xF0, of the context of an ordinal (15 R331). -/
def recRegion (img : BitVec 2048) (at_ ordinal : Nat) : Nat × Nat :=
  let v := recNumOf img at_ 8
  let n := field v 0 16 * 0x1_0000
  (v / 0x1_0000 * 0x1_0000 + ordinal * n, n)

/-- A record is valid (14 R300). -/
def recValid (img : BitVec 2048) : Bool :=
  let t := recTgt img
  let size := (tgtCores t).length
  let six := List.range 6
  recState img ≤ 5 && field (recHdr img) 19 9 == 0 && field (recNumOf img 0x38 8) 36 28 == 0
    && field (recNumOf img 0xE0 8) 14 50 == 0 && field (recNumOf img 0xF8 8) 17 47 == 0
    && field t 16 4 != 0 && field t 0 4 + field t 8 4 ≤ 15 && field t 4 4 + field t 12 4 ≤ 15
    && (tgtOrb t || (field t 8 4 == 0 && field t 12 4 == 0))
    && (List.range 8).all (fun i => !bitOf (recPred img i) 15 || !bitOf (recPred img i) 14)
    && (six.map (recWidw img)).sum ≤ 64 && six.all (fun i => recExt img i ≤ 2 ^ recWidw img i)
    && six.foldl (fun p i => p * recExt img i) 1 == size
    && recScrg img ≤ 128 && recPlanes img ≤ 62 && recAlbcnt img ≤ 65536

/-- Every VALID predecessor is DONE. -/
def State.predsDone (s : State) (img : BitVec 2048) : Bool :=
  (List.range 8).all (fun i =>
    let p := recPred img i
    !bitOf p 15 || recState (s.rcd (field p 0 14)).img == 4)

/-! Patching and arming (14 R303, R304). -/

/-- The value of a patch is refused. -/
def patchBad (f v : Nat) : Bool :=
  if 17 ≤ f ∧ f ≤ 24 then 2 ^ 16 ≤ v || bitOf v 14 else if 25 ≤ f then 2 ^ 32 ≤ v else false
/-- LRPATCH on an image: the field by its code (03 R59), and PATCHED. -/
def patchRec (img : BitVec 2048) (f v : Nat) : BitVec 2048 :=
  setRecState (if f < 16 then setRecNum img (0x60 + 8 * f) 8 v else if f = 16 then setRecNum img 0x20 8 v
    else if f ≤ 24 then setRecNum img (0x28 + 2 * (f - 17)) 2 v else setRecNum img (0x40 + 4 * (f - 25)) 4 v) 1

/-- The die of a record and its launch unit's capacities (14 R297, R302). -/
def recDie (r : Nat) : Nat := r / 4096
def Die.armFree (d : Die) : Nat := 1024 - d.arms.length
def Die.childMode (d : Die) : Bool := bitOf d.lcfg 0
def Die.lowWater (d : Die) : Nat := field d.lcfg 32 16
def Die.childFree (d : Die) : Nat := field d.lcfg 64 32 - d.childq.length

/-- Entries of a die's arm list or child queue that accepted arms of runs in phase 1 will take (14 R304, 05 R101). -/
def State.armsPromised (s : State) (die : Nat) (child : Bool) : Nat :=
  (s.reserved.map (fun e =>
    if 2 ^ 30 ≤ e.1 ∧ e.1 < 2 ^ 48 ∧ recDie (minus e.1 (2 ^ 30)) = die then
      (s.core e.2).c.held.countP (fun h => match h with
        | .lrarm r => !child && r.toNat == minus e.1 (2 ^ 30)
        | .childq r => child && r.toNat == minus e.1 (2 ^ 30)
        | _ => false)
    else 0)).sum
/-- Entries of a die's arm list that are free and promised to nobody. -/
def State.armsLeft (s : State) (die : Nat) : Nat := (s.die die).armFree - s.armsPromised die false

/-- A record in PATCHED or DONE takes patches and arms (14 R301). -/
def recOpen (img : BitVec 2048) : Bool := recState img == 1 || recState img == 4

/-- The checks of an arm by LRARM, CHILDQ or a work queue; `taken` entries are promised to accepted arms (14 R304). -/
def State.armRefusal (s : State) (r : Nat) (img : BitVec 2048) (child : Bool) (taken : Nat) : Option Cause :=
  let d := s.die (recDie r)
  if !recOpen img then some .launchRecordBusy
  else if !recValid img then some .launchRecordInvalid
  else if !child then (if d.armFree ≤ taken then some .launchPoolEmpty else none)
  else if !d.childMode then some .launchPoolEmpty
  else
    let f := d.childFree - taken
    if f = 0 || (f ≤ d.lowWater && !s.predsDone img) then some .childQueueLow else none

/-- The entry of a CHILDQ in the child queue's memory: four bytes of which nothing is known, at the next of CHQCAP places from CHQBASE
(14 R302; notes/assumptions/42.md, PRESUMED, unsafe). -/
def State.putChild (s : State) (r : Nat) : State :=
  let d := s.die (recDie r)
  let s := s.setDie (recDie r) { d with chqAt := d.chqAt + 1 }
  let a := field d.lcfg 96 32 * 2 ^ 16 + 4 * (d.chqAt % max 1 (field d.lcfg 64 32))
  if !inDram a then s else
  match s.writePlace (.dram a) ((leBytes 4 (Config.childEntry r).toNat).map some) none none none (.line a) with
  | .done s => s
  | _ => s

/-- The arm itself. -/
def State.armNow (s : State) (r : Nat) (child : Bool) (core wq : Option Nat) : State :=
  let v := s.rcd r
  let ctx := match core with | some n => (s.core n).ctx | none => 0
  let s := s.setRcd r { v with img := armRec v.img core, wq := wq, ctx := ctx, effect := false }
  let s := if child then s.putChild r else s
  s.modDie (recDie r) (fun d =>
    if child then { d with childq := d.childq ++ [r] } else { d with arms := d.arms ++ [⟨r, s.now, none, 0, []⟩] })

/-! Segment descriptors (15 R331, R332). -/

/-- First byte of the staging granule in the tile's scratchpad. -/
def stagingAt (tile part : Nat) : Nat := tile * 0x80_0000 + (partFirst part + partCount part - 1) * 0x1_0000
def State.seg (s : State) (tile part k : Nat) : Nat := s.scratch.num (stagingAt tile part + 16 * k) 16
/-- An uncorrectable error in a descriptor: whoever reads it consumes the error, and nobody writes over it (18 R375). -/
def State.segEcc (s : State) (tile part k : Nat) : Bool := (s.placeEcc (.scratch (stagingAt tile part + 16 * k)) 16).isSome
def State.setSeg (s : State) (tile part k v : Nat) : State :=
  if s.segEcc tile part k then s else { s with scratch := s.scratch.setNum (stagingAt tile part + 16 * k) 16 v }
def segState (d : Nat) : Nat := field d 0 3
def segDying (d : Nat) : Bool := bitOf d 5
def segSpill (d : Nat) : Bool := bitOf d 6
def segSealv (d : Nat) : Bool := bitOf d 7
def segLen (d : Nat) : Nat := field d 8 24
def segOff (d : Nat) : Nat := field d 32 32
def segSeal (d : Nat) : Nat := field d 64 64

/-- SEALOP puts the accumulator into the segment's descriptor (15 R326). -/
def State.sealPut (s : State) (core k : Nat) : State :=
  let c := s.core core
  let part := (c.sysReg 0x60).toNat
  s.setSeg (tileOf core) part k (setField (setField (s.seg (tileOf core) part k) 64 64 c.xr.sealAcc.toNat) 7 1 1)

/-- SEALOP's check of the segment's descriptor: the refusal with what it reports (15 R326). -/
def State.sealCheck (s : State) (core : Nat) (put : Bool) (k : Nat) : Except (Cause × Nat × Nat) Unit :=
  let c := s.core core
  let d := s.seg (tileOf core) (c.sysReg 0x60).toNat k
  let v := c.xr.sealAcc.toNat
  if c.hasTail && s.segEcc (tileOf core) (c.sysReg 0x60).toNat k then .error (.eccScratch, 0, 0)
  else if !c.hasTail || segState d = 0 || segDying d then .error (.tailSegment, 0, 0)
  else if put then .ok ()
  else if !segSealv d then .error (.tailSegment, 0, 0)
  else if segSeal d ≠ v then .error (.sealMismatch, v, segSeal d)
  else .ok ()

end Sys2Proof.Machine
end

