-- ==== Sys2Proof/Machine/Copy.lean ====
section
/-! DEFINITION. The copy engine: tags, issue of copy and tail commands, channels, moves, stops (11; 15 R331 to R339). -/

namespace Sys2Proof.Machine

def State.cp (s : State) (tile : Nat) : CopyEngine := (s.tile tile).cp
def State.setCp (s : State) (tile : Nat) (e : CopyEngine) : State := s.modTile tile (fun t => { t with cp := e })
def State.modCcmd (s : State) (tile id : Nat) (f : CCmd → CCmd) : State :=
  let e := s.cp tile
  s.setCp tile { e with cmds := e.cmds.map (fun c => if c.id = id then f c else c) }
def State.dropCcmd (s : State) (tile id : Nat) : State :=
  let e := s.cp tile
  s.setCp tile { e with cmds := e.cmds.filter (fun c => c.id != id) }

def COp.isTail : COp → Bool
  | .tailput => true | .tailget _ => true | .offload => true | .recall => true | _ => false

/-! Tags (11 R242, R243). -/

/-- TAGS and TAGERR. -/
def Core.tags (c : Core) : Word := c.sysReg 0x5D
/-- An accepted command names the tag and has not completed. -/
def State.inFlight (s : State) (core : Nat) (t : Nat) : Bool := (s.cp (tileOf core)).cmds.any (fun c => c.core == core && c.tag.val == t)
def State.flightMask (s : State) (core : Nat) : Word :=
  (s.cp (tileOf core)).cmds.foldl (fun w c => if c.core = core then w ||| (1#64 <<< c.tag.val) else w) 0
def State.tagReady (s : State) (core : Nat) (t : Tag) (err : Bool) : State :=
  s.modCore core (fun c =>
    let c := c.setSys 0x5D (c.sysReg 0x5D ||| (1#64 <<< t.val))
    if err then c.setSys 0x5E (c.sysReg 0x5E ||| (1#64 <<< t.val)) else c)

def execTagwany (g : Guard) (m : Reg) (s : State) : Res :=
  aWord s g [m] (fun c =>
    let w := c.getA m
    if w &&& (c.tags ||| s.flightMask s.who.core) = 0 then s.trap .tagIdle
    else if w &&& c.tags = 0 then .next s else .next (s.awaitTags s.who.core (w &&& c.tags)).retire)
def aTagwall (s : State) (g : Guard) (m : Reg) : Res :=
  aWord s g [m] (fun c =>
    let w := c.getA m
    if w &&& ~~~(c.tags ||| s.flightMask s.who.core) ≠ 0 then s.trap .tagIdle
    else if w &&& ~~~c.tags ≠ 0 then .next s else .next (s.awaitTags s.who.core w).retire)
def execTagwall (g : Guard) (m : Reg) (s : State) : Res := aTagwall s g m
def execTagwallShort (m : Reg) (s : State) : Res := aTagwall s always m
/-- TAGFFR; the command of the tag it returns is awaited with it (11 R259; 13 R290). -/
def execTagffr (g : Guard) (d m : Reg) (s : State) : Res :=
  aWord s g [m] (fun c =>
    let n := ctz (c.tags &&& c.getA m)
    .next ((s.awaitTags s.who.core (1#64 <<< n)).aWrite d (BitVec.ofNat 64 n) 1).retire)
/-- TAGCLR leaves what a tag in FLIGHT holds, TAGERR too: the rule's formula clears TAGERR under the mask, its remark says that FLIGHT
tags are unaffected (11 R243; notes/assumptions/55.md, DESIGN CHOICE, unsafe). -/
def execTagclr (g : Guard) (m : Reg) (s : State) : Res :=
  aWord s g [m] (fun c =>
    let keep := ~~~(c.getA m) ||| s.flightMask s.who.core
    .next (s.setMe ((c.setSys 0x5D (c.tags &&& keep)).setSys 0x5E (c.sysReg 0x5E &&& keep))).retire)

/-! Checks at issue (11 R245, R249, R251). -/

/-- Two spans share an address. -/
def spansMeet (a b : Int × Int) : Bool := a.1 ≤ b.2 && b.1 ≤ a.2
def zordOk (sh : Shape) : Bool := !Shape.zord sh || twoIndex sh
def sameExtents (a b : Shape) : Bool := [0, 1, 2, 3].all (fun k => Shape.ext a k == Shape.ext b k)
/-- Pairs that EXPAND admits (11 R246). -/
def expandPair (sf df : Nat) : Bool :=
  ([4, 5, 6, 7].contains sf && [1, 2, 3].contains df) || ([2, 3].contains sf && df == 1)

/-- The window rows for plain memory: the accumulator window, then the scratch window. -/
def windowRows (part : Nat) (tail : Bool) (sps : List (Int × Int)) : Option Cause :=
  match placeSpans part tail false sps with
  | .error c => some c
  | .ok _ => none

/-- The flag word of a CPYR (11 R251). -/
def flagAddr (dst : Shape) : Nat := wrapTo 64 (Shape.base dst + Shape.str dst 3)
/-- A range of the accumulator window that a CPYR may change: in planes 0 to 61 of one tile (10 R217, 11 R251). -/
def cpyrRange (lo hi : Nat) : Bool :=
  inAccWindow lo && inAccWindow hi && lo ≤ hi && accTile (minus lo accBase) == accTile (minus hi accBase) && accPlane (minus hi accBase) ≤ 61
/-- The destination of a CPYR: its span is in the window, and each row of it in planes 0 to 61; so is the flag word where an FP32
command may write it (11 R251; a flag word outside the window: notes/assumptions/40.md, DESIGN CHOICE, unsafe). -/
def cpyrDst (d : Shape) : Option Cause :=
  let sp := shapeSpan d
  if !(inAccWindow (wrapTo 64 sp.1) && inAccWindow (wrapTo 64 sp.2) && wrapTo 64 sp.1 ≤ wrapTo 64 sp.2) then some .atomicTarget
  else
    let row (j k : Nat) : Bool := let a := elemAddr d 0 j k 0; cpyrRange a (a + 4 * Shape.ext d 0 - 1)
    let rows := (List.range (Shape.ext d 2)).all (fun k => (List.range (Shape.ext d 1)).all (fun j => row j k))
    if rows && (Shape.fmt d != 1 || cpyrRange (flagAddr d) (flagAddr d + 3)) then none else some .accBounds

/-- The checks of CPY, CPYG and CPYR in their order. -/
def copyCheck (c : Core) (op : COp) (d s i : Shape) (ord : OrdF) : Option Cause :=
  let part := (c.sysReg 0x60).toNat
  let sd := shapeSpan d
  let ss := shapeSpan s
  let si := shapeSpan i
  match op with
  | .cpy _ expand =>
    (shapeCheck c d <|> shapeCheck c s) <|>
    (if !sameExtents d s || 2 ^ 48 < Shape.count d
        || (if expand then !expandPair (Shape.fmt s) (Shape.fmt d) else Shape.fmt s != Shape.fmt d)
        || !zordOk d || !zordOk s || spansMeet sd ss then some .copyParam else none) <|>
    windowRows part c.hasTail [sd, ss]
  | .cpyg =>
    (shapeCheck c d <|> shapeCheck c s <|> shapeCheck c i) <|>
    (if Shape.fmt i != 9 || Shape.ext i 1 != 1 || Shape.ext i 2 != 1 || Shape.ext i 3 != 1
        || !(match spanAt sd.1 sd.2 with | .scr _ _ => true | _ => false) || Shape.fmt d != Shape.fmt s
        || Shape.ext d 0 != Shape.ext s 0 || Shape.ext d 1 != Shape.ext i 0 || Shape.str d 1 != ((Shape.ext s 0 * Shape.esz s : Nat) : Int)
        || Shape.zord s || Shape.zord d || Shape.ext s 2 != 1 || Shape.ext s 3 != 1 || Shape.ext d 2 != 1 || Shape.ext d 3 != 1
        || spansMeet sd ss || spansMeet sd si then some .copyParam else none) <|>
    windowRows part c.hasTail [sd, ss, si]
  | _ =>
    (shapeCheck c d <|> shapeCheck c s) <|>
    (if ord.acq || !sameExtents d s || !((Shape.fmt s == 1 && Shape.fmt d == 1) || (Shape.fmt s == 9 && Shape.fmt d == 9))
        || Shape.zord d || field d.toNat 376 4 != 0 || Shape.ext d 3 != 1 || (Shape.fmt s == 1 && !ord.rel)
        || flagAddr d % 4 != 0 then some .copyParam else none) <|>
    windowRows part c.hasTail [ss] <|>
    (match placeSpan part c.hasTail false sd with | .error .scratchBounds => some .scratchBounds | _ => none) <|> cpyrDst d

/-! Issue. -/

/-- The core's copy command queue is full, or its tag is in flight (11 R238, R242). -/
def State.copyBusy (s : State) (core : Nat) (t : Tag) : Bool :=
  16 ≤ (s.cp (tileOf core)).cmds.countP (fun c => c.core == core) || s.inFlight core t.val

/-- A command as its word issues. -/
def State.newCopy (s : State) (op : COp) (tag : Tag) (d sr i : Shape) (ord : OrdF) (seg : Nat) : CCmd :=
  let c := s.me
  { id := (s.cp s.myTile).nextId, core := s.who.core, op := op, tag := tag, dst := d, src := sr, idx := i, ord := ord,
    cfg := (c.sysReg 0x56).toNat, seg := seg, part := (c.sysReg 0x60).toNat, tail := c.hasTail, sup := c.sup,
    pref := c.q.pref.getD (10 + tag.val % 4) 0, issue := s.now, store := c.q.nextId, st := .queued, start := 0, elem := 0, folded := 0,
    groups := [], ring := false, direct := false, auto := false, segVa := 0, hostVa := 0, failAt := none }

/-- Acceptance: the tag is in flight, and the channel may take the command from the next cycle on (11 R239, R242). -/
def State.acceptCopy (s : State) (m : CCmd) : State :=
  let e := s.cp s.myTile
  let s := s.setCp s.myTile { e with cmds := e.cmds ++ [m], nextId := e.nextId + 1 }
  let s := s.setMe (s.me.setSys 0x5D (s.me.tags &&& ~~~(1#64 <<< m.tag.val)))
  s.after 1 (.copyChannelTake s.myTile (m.tag.val % 4))

def copyIssue (s : State) (g : Guard) (op : COp) (t : Tag) (d sr i : N16) (ord : OrdF) : Res :=
  aWord s g [] (fun c =>
    match copyCheck c op c.sh[d] c.sh[sr] c.sh[i] ord with
    | some cause => s.trap cause
    | none =>
      if s.copyBusy s.who.core t then .next s else
      let s := s.acceptCopy (s.newCopy op t c.sh[d] c.sh[sr] c.sh[i] ord 0)
      .next (match op with | .cpyr => s.setMe s.me.setEffect | _ => s).retire)

def execCpy (g : Guard) (d sr : N16) (t : Tag) (ord : OrdF) (guardChk expand : Bool) (s : State) : Res :=
  copyIssue s g (.cpy guardChk expand) t d sr sr ord
def execCpyg (g : Guard) (d tab : N16) (t : Tag) (idx : N16) (s : State) : Res :=
  copyIssue s g .cpyg t d tab idx ⟨false, false, .core⟩
def execCpyr (g : Guard) (d sr : N16) (t : Tag) (ord : OrdF) (s : State) : Res := copyIssue s g .cpyr t d sr sr ord

/-! Tail space (15 R331, R335). -/

/-- A TAILGET that still reads a segment's ring copy. -/
def State.ringHeld (s : State) (core k : Nat) : Bool :=
  (s.cp (tileOf core)).cmds.any (fun m => m.core == core && m.seg == k && m.ring && (match m.op with | .tailget _ => true | _ => false))

/-- Units in use, as offset and length, of the ring or of the spill region. -/
def State.spaceUsed (s : State) (core : Nat) (spill : Bool) : List (Nat × Nat) :=
  let part := ((s.core core).sysReg 0x60).toNat
  (List.range 2048).filterMap (fun k =>
    let d := s.seg (tileOf core) part k
    let st := segState d
    if segSpill d == spill && (st == 1 || st == 2 || st == 3 || st == 5 || (st == 4 && s.ringHeld core k)) then
      some (segOff d, segLen d) else none)
/-- The lowest offset at which n free units follow. -/
def spaceFind (used : List (Nat × Nat)) (size n : Nat) : Option Nat :=
  let starts := 0 :: used.map (fun u => u.1 + u.2)
  let ok := starts.filter (fun o => o + n ≤ size && used.all (fun u => o + n ≤ u.1 || u.1 + u.2 ≤ o))
  ok.foldl (fun m o => some (match m with | some x => min x o | none => o)) none
/-- Space for n units: offset and whether it is in the spill region. -/
def State.spaceAlloc (s : State) (core n : Nat) : Option (Nat × Bool) :=
  let c := s.core core
  match spaceFind (s.spaceUsed core false) (c.ringSize / 128) n with
  | some o => some (o, false)
  | none =>
    if bitOf (c.sysReg 0x57).toNat 1 then (spaceFind (s.spaceUsed core true) (c.spillSize / 128) n).map (fun o => (o, true)) else none

/-- Virtual address of a segment's space, and of its place in host memory (15 R333). -/
def segVa (c : Core) (d : Nat) : Nat := ((if segSpill d then c.spillBase else c.ringBase) + 128 * segOff d) % 2 ^ 64
def segHostVa (c : Core) (d : Nat) : Nat :=
  ((c.sysReg 0x58).toNat / 2 ^ 16 * 2 ^ 16 + (if segSpill d then c.ringSize else 0) + 128 * segOff d) % 2 ^ 64

/-! Issue of tail commands (15 R334, R337). -/

/-- A page of a shape's span outside the windows is a REM page or host memory, whatever rights its entry gives (15 R337 row 5). -/
def State.tailPath (s : State) (tile : Nat) (sp : Int × Int) (acc : Access) : Option Cause :=
  match spanAt sp.1 sp.2 with
  | .dev lo hi =>
    let first := lo / 0x1_0000
    let n := (hi / 0x1_0000 - first).toNat + 1
    (List.range n).findSome? (fun (k : Nat) =>
      let va := wrapTo 64 ((first + k) * 0x1_0000)
      if !canonical va || inReservedRange va then none
      else match (walkFrom s tile va 3 1 (s.tile tile).root).1 with
        | .ok (e, _) => if pteRem e || inHost (pteAddr e) then some (permCause acc) else none
        | .error _ => none)
  | _ => none

/-- Rows 2 to 5. -/
def State.tailCheck (s : State) (c : Core) (op : COp) (sh : Shape) : Option Cause :=
  let host := match op with | .offload => true | .recall => true | _ => false
  if !c.hasTail || (host && (c.sysReg 0x58).toNat < 2 ^ 16) then some .tailSegment
  else if host then none
  else
    let n := Shape.count sh * Shape.esz sh
    shapeCheck c sh <|>
    (if n % 128 ≠ 0 ∨ 2 ^ 31 - 128 < n ∨ Shape.zord sh then some .copyParam else none) <|>
    windowRows (c.sysReg 0x60).toNat c.hasTail [shapeSpan sh] <|>
    s.tailPath s.myTile (shapeSpan sh) (match op with | .tailput => .read | _ => .write)

/-- What the segment's state says to a command, the waits for allocation included (15 R334, R335, R337 rows 6 to 8). -/
inductive TailRes
  | trap (c : Cause)
  | wait
  | noEffect
  | accept (space : Option (Nat × Bool))
  deriving DecidableEq, Repr

def State.tailState (s : State) (c : Core) (core : Nat) (op : COp) (k : Nat) (sh : Shape) : TailRes :=
  let d := s.seg (tileOf core) (c.sysReg 0x60).toNat k
  let st := segState d
  let earlier := (s.cp (tileOf core)).cmds.any (fun m => m.core == core && m.op.isTail)
  let n := Shape.count sh * Shape.esz sh / 128
  let alloc (n : Nat) : TailRes := match s.spaceAlloc core n with | some x => .accept (some x) | none => .trap .tailFull
  match op with
  | .tailput =>
    if earlier then .wait else if st ≠ 0 ∨ segDying d then .trap .tailSegment else alloc n
  | .tailget _ =>
    if st = 0 ∨ segDying d then .trap .tailSegment
    else if st = 4 ∧ !bitOf (c.sysReg 0x57).toNat 0 then .trap .offloadPending
    else if segLen d ≠ n then .trap .tailSegment
    else if st = 4 then (if earlier then .wait else alloc n)
    else .accept none
  | .offload =>
    if st = 0 ∨ segDying d then .trap .tailSegment else if st = 3 ∨ st = 4 then .noEffect else .accept none
  | _ =>
    if st = 0 ∨ segDying d then .trap .tailSegment
    else if st = 3 ∨ st = 4 then (if earlier then .wait else alloc (segLen d)) else .noEffect

def tailIssue (s : State) (g : Guard) (op : COp → COp) (base : COp) (shn : N16) (r : Reg) (t : Tag) : Res :=
  aWord s g [r] (fun c =>
    let v := (c.getA r).toNat
    let get := match base with | .tailget _ => true | _ => false
    let sh := c.sh[shn]
    let k := v % 2048
    let o := op (if get then .tailget (bitOf v 32) else base)
    if v - k - b2n (bitOf v 32) * 2 ^ 32 ≠ 0 ∨ (bitOf v 32 && !get) then s.trap .reservedField else
    match s.tailCheck c o sh with
    | some cause => s.trap cause
    | none =>
      if s.copyBusy s.who.core t then .next s else
      -- the descriptor is read here: an error in it is consumed (18 R375)
      if s.segEcc s.myTile (c.sysReg 0x60).toNat k then s.trap .eccScratch else
      match s.tailState c s.who.core o k sh with
      | .trap cause => s.trap cause
      | .wait => .next s
      | .noEffect =>
        let s := match o with | .offload => s.setMe s.me.setEffect | _ => s
        .next (s.tagReady s.who.core t false).retire
      | .accept space =>
        let m := s.newCopy o t sh sh sh ⟨false, false, .core⟩ k
        let d := s.seg s.myTile m.part k
        -- the bytes of an OFFLOADED segment lie where its old space says
        let m := { m with hostVa := segHostVa c d, direct := (get || o == COp.offload) && segState d == 2, auto := get && segState d == 4 }
        -- the space stands in the descriptor from acceptance on
        let d := match space with
          | some (off, spill) =>
            let d := setField (setField d 32 32 off) 6 1 (b2n spill)
            if o = .tailput then setField d 8 24 (Shape.count sh * Shape.esz sh / 128) else d
          | none => d
        let s := (s.acceptCopy { m with segVa := segVa c d }).setSeg s.myTile m.part k d
        let s := match o with | .offload => s.setMe s.me.setEffect | _ => s
        .next (s.retire.at_ s.now (.tailCommandAccept s.myTile (t.val % 4))))

def execTailput (g : Guard) (sh : N16) (r : Reg) (t : Tag) (s : State) : Res := tailIssue s g id .tailput sh r t
def execTailget (g : Guard) (sh : N16) (r : Reg) (t : Tag) (s : State) : Res := tailIssue s g id (.tailget false) sh r t
def execOffload (g : Guard) (r : Reg) (t : Tag) (s : State) : Res := tailIssue s g id .offload 0 r t
def execRecall (g : Guard) (r : Reg) (t : Tag) (s : State) : Res := tailIssue s g id .recall 0 r t

/-- TAIL_COMMAND_ACCEPT: the segment's state changes in the cycle of acceptance (15 R334, R337). -/
def execTailCommandAccept (s : State) : Res :=
  match s.ev with
  | .tailCommandAccept tile ch =>
    match ((s.cp tile).cmds.filter (fun m => m.tag.val % 4 == ch && m.op.isTail)).getLast? with
    | none => .next s
    | some m =>
      let d := s.seg tile m.part m.seg
      let st := segState d
      let d' := match m.op with
        | .tailput => setField d 0 3 1
        | .tailget free =>
          let d := if st = 4 then setField d 0 3 5 else d
          if free then setField d 5 1 1 else d
        | .offload => if st = 2 then setField d 0 3 3 else d
        | _ => if st = 4 then setField d 0 3 5 else d
      let s := s.setSeg tile m.part m.seg d'
      .next (s.modCcmd tile m.id (fun c => { c with ring := st == 3 && (match c.op with | .tailget _ => true | _ => false) }))
  | _ => .next s

/-! Moves (11 R246 to R252; 15 R338). -/

/-- The route to another package stands (19 R385). -/
def State.spanUp (s : State) (pkg : Nat) : Bool :=
  let e := s.dram.num (s.pkg.routebase / 2 ^ 12 % 2 ^ 36 * 2 ^ 12 + pkg) 1
  bitOf e 7 && bitOf s.pkg.spanstat (field e 0 5)

/-- How a command moves its elements: how many, their sizes, the version that a checked source must have, the version stamped. -/
structure MovePlan where
  total : Nat
  ss    : Nat
  ds    : Nat
  src   : Nat → Except (Cause × Nat) Nat
  dst   : Nat → Nat
  /-- where CPYG's index of an element lies -/
  idx   : Nat → Option Nat := fun _ => none
  check : Option Nat
  stamp : Option Nat
  conv  : Nat → Nat
  merge : Bool

/-- Indices of element e in command order. -/
def elemIndex (sh : Shape) (e : Nat) : Nat × Nat × Nat × Nat :=
  let a := Shape.ext sh 0
  let b := Shape.ext sh 1
  let c := Shape.ext sh 2
  (e % a, e / a % b, e / (a * b) % c, e / (a * b * c))
def elemVa (sh : Shape) (e : Nat) : Nat := let (i, j, k, l) := elemIndex sh e; elemAddr sh i j k l

/-- The place of one byte that a command reaches, through the pages that its ends stand in (12 R266; 19 R385). -/
def State.copyPlace (s : State) (m : CCmd) (va : Nat) (acc : Access) : Except Cause Place :=
  if inScratchWindow va then .ok (.scratch (tileOf m.core * 0x80_0000 + partFirst m.part * 0x1_0000 + (minus va scrBase)))
  else
    match (s.translate (tileOf m.core) m.sup (m.pages.filterMap (fun g => g.entry)) va acc false).res with
    | .error f => .error f.cause
    | .ok (.remote pkg d) => if s.spanUp pkg then .ok (.remote pkg d) else .error .spanUnreachable
    | .ok pl => match s.kindRefusal pl with | some c => .error c | none => .ok pl

/-- A byte with the checks of its block: errors, and the guard tag of a checked source in device memory (11 R248). -/
def State.copyRead (s : State) (m : CCmd) (check : Option Nat) (va : Nat) : Except (Cause × Nat) Nat :=
  match s.copyPlace m va .read with
  | .error c => .error (c, va)
  | .ok pl =>
    match s.placeEcc pl 1 with
    | some c => .error (c, va)
    | none =>
      let bad : Option Cause := match check, s.placeMeta pl with
        | some ver, some me =>
          let base := match pl with | .dram d => Place.dram (d / 128 * 128) | .packed a => .packed (a / 128 * 128) | p => p
          if blockCrc (if me.nova then 0 else va / 128) (s.readPlace base 128) ≠ me.crc then some .guardTagMismatch
          else if me.gver.toNat ≠ ver % 2 ^ 16 then some .versionStale else none
        | _, _ => none
      match bad with
      | some c => .error (c, va)
      | none => .ok (leNat (s.readPlace pl 1))

/-- n bytes from an address. A block is checked as its first byte is read; `blk` is the block checked last, which follows (11 R248). -/
def State.copyBytes (s : State) (m : CCmd) (check blk : Option Nat) (va n : Nat) : Except (Cause × Nat) (Nat × Option Nat) :=
  (List.range n).foldlM (fun (v : Nat × Option Nat) k =>
    let a := (va + k) % 2 ^ 64
    (s.copyRead m (if v.2 = some (a / 128) then none else check) a).map (fun b => (v.1 + b * 256 ^ k, some (a / 128)))) (0, blk)

/-- The conversion of EXPAND (11 R246). -/
def expandConv (sf df cfg : Nat) (v : Nat) : Nat :=
  let sc := field cfg 0 8
  let x : Num := if sc = 255 then .nan else (fmtNum sf 0 v).scale ((sc : Int) - 127)
  match df with
  | 1 => fp32.round rne x
  | 2 => fp16.round rne x
  | _ => bf16.round rne x

/-- The plan of a command. -/
def State.movePlan (s : State) (m : CCmd) : MovePlan :=
  let d := s.seg (tileOf m.core) m.part m.seg
  let stamp := some (Shape.gver m.dst)
  match m.op with
  | .cpy guardChk expand =>
    { total := Shape.count m.dst, ss := Shape.esz m.src, ds := Shape.esz m.dst, src := fun e => .ok (elemVa m.src e),
      dst := elemVa m.dst, check := if guardChk then some (Shape.gver m.src) else none, stamp := stamp,
      conv := if expand then expandConv (Shape.fmt m.src) (Shape.fmt m.dst) m.cfg else id, merge := Shape.upd m.dst }
  | .cpyg =>
    let w := Shape.ext m.src 0
    { total := Shape.ext m.idx 0 * w, ss := Shape.esz m.src, ds := Shape.esz m.src,
      src := fun e => do
        let (j, _) ← s.copyBytes m none none (elemAddr m.idx (e / w) 0 0 0) 4
        if Shape.ext m.src 1 ≤ j then .error (.copyIndex, 0) else .ok (elemAddr m.src (e % w) j 0 0),
      idx := fun e => some (elemAddr m.idx (e / w) 0 0 0),
      dst := fun e => elemAddr m.dst (e % w) (e / w) 0 0, check := none, stamp := stamp, conv := id, merge := false }
  | .tailput =>
    { total := Shape.count m.src, ss := Shape.esz m.src, ds := Shape.esz m.src, src := fun e => .ok (elemVa m.src e),
      dst := fun e => (m.segVa + Shape.esz m.src * e) % 2 ^ 64, check := none, stamp := some 0, conv := id, merge := false }
  | .tailget _ =>
    { total := Shape.count m.dst, ss := Shape.esz m.dst, ds := Shape.esz m.dst,
      src := fun e => .ok ((m.segVa + Shape.esz m.dst * e) % 2 ^ 64), dst := elemVa m.dst, check := some 0, stamp := stamp,
      conv := id, merge := false }
  | .offload =>
    { total := segLen d, ss := 128, ds := 128, src := fun e => .ok ((m.segVa + 128 * e) % 2 ^ 64),
      dst := fun e => (m.hostVa + 128 * e) % 2 ^ 64, check := none, stamp := none, conv := id, merge := false }
  | .recall =>
    { total := segLen d, ss := 128, ds := 128, src := fun e => .ok ((m.hostVa + 128 * e) % 2 ^ 64),
      dst := fun e => (m.segVa + 128 * e) % 2 ^ 64, check := none, stamp := some 0, conv := id, merge := false }
  | .cpyr =>
    { total := Shape.count m.src, ss := 4, ds := 4, src := fun e => .ok (elemVa m.src e), dst := elemVa m.dst,
      check := some (Shape.gver m.src), stamp := none, conv := id, merge := false }

/-- How a write ends. -/
inductive MoveEnd
  | done
  | wait
  | fail (c : Cause) (va : Nat)
  deriving DecidableEq, Repr

/-- Write bytes that follow each other, block by block: each block takes its bytes in one write (11 R247, R248). The blocks before one that
is refused or waits are written. -/
def State.writeRun (s : State) (m : CCmd) (stamp : Option Nat) (va : Nat) (bs : List Byte) : State × MoveEnd :=
  let n := 128 - va % 128
  [(va, bs.take n), ((va + n) % 2 ^ 64, bs.drop n)].foldl (fun (r : State × MoveEnd) (g : Nat × List Byte) =>
    match r with
    | (s, .done) =>
      if g.2 = [] then r else
      match s.copyPlace m g.1 .write with
      | .error c => (s, .fail c g.1)
      | .ok pl =>
        match s.writePlace pl (g.2.map some) (some g.1) stamp none (.copy (tileOf m.core) (m.tag.val % 4)) with
        | .done s => (s, .done)
        | .wait s => (s, .wait)
        | .refuse c => (s, .fail c g.1)
    | r => r) (s, .done)

/-- The bytes of the next elements, at most `n` from `e` on, up to one that cannot be read; the block checked last. -/
def State.readRun (s : State) (p : MovePlan) (m : CCmd) : Nat → Nat → Option Nat → List Nat × Option Nat × Option (Cause × Nat)
  | 0, _, blk => ([], blk, none)
  | n + 1, e, blk =>
    match p.src e with
    | .error f => ([], blk, some f)
    | .ok va =>
      match s.copyBytes m p.check blk va p.ss with
      | .error f => ([], blk, some f)
      | .ok (x, b) =>
        let r := s.readRun p m n (e + 1) b
        (x :: r.1, r.2)

/-- A byte of the accumulators of this package, or of the package DPKG names, kept with other packages' memory. A DPKG that names this
package itself goes by the route table like any other, and its sums stand there too: no rule says otherwise (11 R251;
notes/assumptions/52.md, DESIGN CHOICE, unsafe). -/
def State.farNum (s : State) (m : CCmd) (off n : Nat) : Nat :=
  if bitOf m.cfg 44 then s.remote.num (field m.cfg 32 12 * 2 ^ 48 + 2 ^ 47 + off) n else s.accum.num off n
def State.setFarNum (s : State) (m : CCmd) (off n v : Nat) : State :=
  if bitOf m.cfg 44 then { s with remote := s.remote.setNum (field m.cfg 32 12 * 2 ^ 48 + 2 ^ 47 + off) n v }
  else { s with accum := s.accum.setNum off n v }

/-- One addition of a CPYR; true where the sticky bit is raised (11 R252). -/
def State.addElem (s : State) (m : CCmd) (v : Nat) (va : Nat) : Except Cause (State × Bool) :=
  let off := minus va accBase
  if bitOf m.cfg 44 && !s.spanUp (field m.cfg 32 12) then .error .spanUnreachable
  else if !bitOf m.cfg 44 && s.routerFenced (accTile off) then .error .destEclipsed
  else if !bitOf m.cfg 44 && (s.placeEcc (.acc off) 4).isSome then .error .eccAcc
  else
    let cell := s.farNum m off 4
    let fp := Shape.fmt m.src = 1
    let sum := if fp then promote cell (fp32.decode v) else wrapTo 32 (signedOf 32 cell + signedOf 32 v)
    let nonFin (x : Nat) : Bool := field x 23 8 == 255
    .ok (s.setFarNum m off 4 sum, fp && (nonFin v || nonFin sum))
/-- The flag word takes the sticky bit: one indivisible action at its home (11 R252). -/
def State.setFlag (s : State) (m : CCmd) : Except Cause State :=
  let off := minus (flagAddr m.dst) accBase
  if bitOf m.cfg 44 && !s.spanUp (field m.cfg 32 12) then .error .spanUnreachable
  else if !bitOf m.cfg 44 && s.routerFenced (accTile off) then .error .destEclipsed
  else if !bitOf m.cfg 44 && (s.placeEcc (.acc off) 4).isSome then .error .eccAcc
  else .ok (s.setFarNum m off 4 (s.farNum m off 4 ||| 1))

/-- A destination byte range meets a range that a matrix batch of the tile holds (09 R212). -/
def State.dstHeld (s : State) (m : CCmd) (va n : Nat) : Bool :=
  let o : Int := if inScratchWindow va then (partFirst m.part * 0x1_0000 + minus va scrBase : Nat) else va
  s.held (tileOf m.core) ⟨inScratchWindow va, o, o + (n : Int) - 1⟩

/-- Additions of a CPYR, to its elements from `m.elem` on: the state and the command, and the failure of one (11 R252). -/
def State.addRun (s : State) (p : MovePlan) (m : CCmd) : List Nat → State × CCmd × Option (Cause × Nat)
  | [] => (s, m, none)
  | x :: xs =>
    match s.addElem m x (p.dst m.elem) with
    | .error c => (s, m, some (c, p.dst m.elem))
    | .ok (s, b) => s.addRun p { m with elem := m.elem + 1, sticky := m.sticky || b } xs

/-- Fold an element into the partial of the block that holds its last byte, unless it was folded before a stop. -/
def CCmd.fold (m : CCmd) (p : MovePlan) (code : Nat) : CCmd :=
  let m' := { m with elem := m.elem + 1 }
  if !p.merge || m.elem < m.folded then m'
  else
    let b := (p.dst m.elem + p.ds - 1) % 2 ^ 64 / 128
    let q := foldElem (Shape.fmt m.dst) (Shape.qfrac m.dst) (Map.get (Partial.empty (Shape.albn m.dst)) m.groups b) code
    { m' with folded := m.elem + 1, groups := Map.set m.groups b q }

/-- How many elements from `e` on move together: their destination bytes follow each other in one block, of 128 bytes, or of the 64 bytes
of a cycle in the windows; those of a CPYR come from one source block (11 R240, R247, R252). -/
def MovePlan.runLen (p : MovePlan) (m : CCmd) (e : Nat) : Nat :=
  let d := p.dst e
  let w := if inScratchWindow d || inAccWindow d then 64 else 128
  let src (k : Nat) : Nat := match p.src k with | .ok va => va / 128 | .error _ => 0
  let ok (k : Nat) : Bool := p.dst (e + k) == d + k * p.ds && (d + (k + 1) * p.ds - 1) / w == d / w && (m.op != .cpyr || src (e + k) == src e)
  1 + (((List.range (min 128 (p.total - e))).drop 1).takeWhile ok).length

/-- 64 KiB units of virtual addresses that an element touches: at CPYG's index list, the source and the destination (11 R256). -/
def MovePlan.pagesOf (p : MovePlan) (e : Nat) : List Nat :=
  let two (va n : Nat) : List Nat := [va / 0x1_0000, (va + n - 1) % 2 ^ 64 / 0x1_0000]
  ((p.idx e).elim [] (fun va => two va 4)) ++ (match p.src e with | .ok va => two va p.ss | .error _ => []) ++ two (p.dst e) p.ds
/-- The element at which a command stops that fails at `e`: for CPYR, e; for a bad index, the first of its row; else the first element
that touches a unit which element e touches (11 R250, R256). -/
def MovePlan.backTo (p : MovePlan) (m : CCmd) (e : Nat) (c : Cause) : Nat :=
  if m.op = .cpyr then e
  else if c = .copyIndex then e / Shape.ext m.src 0 * Shape.ext m.src 0
  else
    let pg := p.pagesOf e
    ((List.range e).find? (fun k => (p.pagesOf k).any (fun q => pg.contains q))).getD e

/-- Send the merges of the destination blocks that no later element touches; the partials of the others stay (11 R247, 13 R286). -/
def State.copyMerges (s : State) (p : MovePlan) (m : CCmd) : State × CCmd :=
  if m.groups = [] then (s, m) else
  let open_ := ((List.range p.total).drop m.elem).flatMap (fun k => [p.dst k / 128, (p.dst k + p.ds - 1) % 2 ^ 64 / 128])
  let (keep, go) := m.groups.partition (fun g => open_.contains g.1)
  (go.foldl (fun s g => s.at_ s.now (.albedoMergeIssue m.core (.copy m.id m.tag) g.2)) s, { m with groups := keep })

/-! Channels (11 R239, R240). -/

/-- The command that a channel serves. -/
def CopyEngine.current (e : CopyEngine) (ch : Nat) : Option CCmd := e.cmds.find? (fun m => m.tag.val % 4 == ch && m.st != .queued)
/-- The oldest waiting command of a core for a channel; a stopped member's commands hold (12 R270, 11 R258). -/
def State.nextOf (s : State) (tile ch core : Nat) : Option CCmd :=
  if (s.core core).engineHold then none
  else (s.cp tile).cmds.find? (fun m => m.tag.val % 4 == ch && m.core == core && m.st == .queued)
/-- A RECALL whose segment an accepted TAILGET waits for is raised, one that a TAILGET makes for itself too (15 R334, R338); a stopped
member's holds (11 R258). -/
def State.raisedRecall (s : State) (tile ch : Nat) : Option CCmd :=
  (s.cp tile).cmds.find? (fun m => m.tag.val % 4 == ch && m.st == .queued && (m.op == .recall || m.auto) && !(s.core m.core).engineHold
    && segState (s.seg tile m.part m.seg) == 5
    && (s.cp tile).cmds.any (fun g => g.core == m.core && g.seg == m.seg && g.id != m.id && g.st != .queued
          && (match g.op with | .tailget _ => true | _ => false)))

/-- COPY_CHANNEL_TAKE. -/
def execCopyChannelTake (s : State) : Res :=
  match s.ev with
  | .copyChannelTake tile ch =>
    let e := s.cp tile
    if (e.current ch).isSome then .next s else
    let last := e.served.toList.getD ch 3
    match s.raisedRecall tile ch <|> [1, 2, 3, 4].findSome? (fun k => s.nextOf tile ch (4 * tile + (last + k) % 4)) with
    | none => .next s
    | some m =>
      let s := s.setCp tile { e with served := e.served.setIfInBounds ch (m.core % 4) }
      let s := s.modCcmd tile m.id (fun c => { c with st := .taken })
      .next (s.at_ (max s.now (m.issue + 2)) (.copyCommandStart tile ch))
  | _ => .next s

/-- Stop a command at an element: CPYPROG and the trap, unless another of the core's commands is stopped there (11 R257). -/
def cpyprog (m : CCmd) : Word :=
  BitVec.ofNat 64 (2 ^ 63 + m.tag.val * 2 ^ 56 + m.tag.val % 4 * 2 ^ 54 + m.elem % 2 ^ 48)
def State.copyTrap (s : State) (m : CCmd) (cause : Cause) (va : Nat) : State :=
  let s := s.modCore m.core (fun c => c.setSys 0x68 (cpyprog m))
  s.post m.core ⟨1, 2, m.tag.val % 4, cause, ((s.core m.core).pos .a).pc, va, (cpyprog m).toNat⟩
def State.copyStop (s : State) (tile : Nat) (m : CCmd) (cause : Cause) (va e : Nat) : State :=
  let m := { m with st := .stopped, elem := e, failAt := some (cause.code, va, e), due := 0, pages := [], blk := none }
  let s := s.modCcmd tile m.id (fun _ => m)
  let s := (s.cancel (fun x => x == .copyCommandComplete tile (m.tag.val % 4))).leaveLines (fun w => w == .copy tile (m.tag.val % 4))
  if bitOf ((s.core m.core).sysReg 0x68).toNat 63 then s else s.copyTrap m cause va

/-- The command is done: its tag is ready and the channel goes on (11 R239, R242). -/
def State.copyDone (s : State) (tile : Nat) (m : CCmd) (err : Bool) : State :=
  ((s.dropCcmd tile m.id).tagReady m.core m.tag err).at_ s.now (.copyChannelTake tile (m.tag.val % 4))

/-- The turn of a ranked CPYR, as its object's home answers (11 R253). -/
def State.copyTurn (s : State) (m : CCmd) : HomeAns :=
  let off := syncOff (Shape.sync m.dst)
  let r := field m.cfg 16 16
  if s.routerFenced (accTile off) then .refuse .destEclipsed
  else if s.reservedFrom off none then .wait
  else if s.badAcc.contains off then .refuse .eccAcc
  else
    let w := SyncWord.ofNat (s.accWord off 8)
    if w.state = 4 then .refuse .syncPoisoned
    else if w.kind = 0 || w.inconsistent || w.target ≤ r then .refuse .syncMisuse
    else if (w.state = 2 ∧ w.count = r) ∨ (r = 0 ∧ w.state = 3) then .done w.toNat
    else .wait
/-- What the home of an object answers a command that asks it: for its acquire, its turn or its release. -/
def State.copyAnswer (s : State) (m : CCmd) (off : Nat) : HomeAns :=
  if m.st = .turning then s.copyTurn m else s.engineSync m.core off (m.st == .releasing)

/-- What a tail command finds in its channel: false where it waits (15 R334). A TAILGET accepted on a RESIDENT segment is served from
the ring whatever has become of the segment since. -/
def State.tailReady (s : State) (tile : Nat) (m : CCmd) : Bool :=
  let st := segState (s.seg tile m.part m.seg)
  match m.op with
  | .tailget _ => m.direct || st == 2 || st == 0 || (st == 4 && m.ring) || (st == 5 && m.auto)
  | .offload => m.direct || st == 2 || st == 3 || st == 4 || st == 0
  | .recall => st == 5
  | _ => true

/-- The time that accesses of a command take: stream TLB, walks, slowest line read, slowest line that the elements at hand write, and the
pages that the ends stand in. -/
structure CopyClock where
  tlb   : StreamTlb
  walk  : Nat := 0
  slow  : Nat := 0
  last  : Nat := 0
  pages : List EndPage := []

/-- One access at an end: 0 the index list, 1 the source, 2 the destination. Each end translates when it comes to another 64 KiB unit
(07 R145, 11 R256; notes/assumptions/39.md, DESIGN CHOICE, safe). An addition to an accumulator travels to the cell's home (01 R408). -/
def State.clockAt (s : State) (m : CCmd) (k : CopyClock) (end_ va : Nat) : CopyClock :=
  let tile := tileOf m.core
  if inScratchWindow va then k
  else if inAccWindow va then
    { k with last := max k.last (if bitOf m.cfg 44 then 680 else 7 + 2 * s.hops tile (accTile (minus va accBase))) }
  else
    let acc := if end_ = 2 then Access.write else .read
    let unit := va / 0x1_0000
    let k := if k.pages.any (fun g => g.end_ == end_ && g.unit == unit) then k else
      let (r, tlb) := s.streamTranslate tile m.sup k.tlb m.pref va acc false
      { k with tlb := tlb, walk := k.walk + r.time, pages := ⟨end_, unit, r.entry⟩ :: k.pages.filter (fun g => g.end_ != end_) }
    match (s.translate tile m.sup (k.pages.filterMap (fun g => g.entry)) va acc false).res with
    | .ok pl => if end_ = 2 then { k with last := max k.last (s.accessTime tile pl) } else { k with slow := max k.slow (s.accessTime tile pl) }
    | .error _ => k
/-- The accesses of one element. -/
def State.clockElem (s : State) (p : MovePlan) (m : CCmd) (k : CopyClock) (e : Nat) : CopyClock :=
  let two (k : CopyClock) (end_ va n : Nat) : CopyClock := s.clockAt m (s.clockAt m k end_ va) end_ ((va + n - 1) % 2 ^ 64)
  let k := (p.idx e).elim k (fun va => two k 0 va 4)
  match p.src e with
  | .error _ => k
  | .ok va => two (two k 1 va p.ss) 2 (p.dst e) p.ds

/-- A queue store that the A stream issued before the command is not yet written, or was written in this cycle (11 R240). -/
def State.storeBefore (s : State) (m : CCmd) : Bool :=
  let q := (s.core m.core).q
  q.wr.any (fun w => w.id < m.store) || (q.wrote.1 == s.now && q.wrote.2 < m.store)

/-- The move begins, at the element the command has reached; an OFFLOAD that waited for its segment makes it OUTBOUND now (15 R334). -/
def State.copyBegin (s : State) (tile ch : Nat) (m : CCmd) : State :=
  let d := s.seg tile m.part m.seg
  let s := if m.op = .offload ∧ segState d = 2 then s.setSeg tile m.part m.seg (setField d 0 3 3) else s
  (s.modCcmd tile m.id (fun c =>
    { c with st := .running, start := s.now, failAt := none, direct := c.direct || c.op == .offload, base := s.now, from_ := c.elem,
             slow := 0, due := 0, pages := [], blk := none })).at_ s.now (.copyCommandComplete tile ch)

/-- COPY_COMMAND_START: the waits of 11 R240, the acquire, the turn; a stopped member's command holds (11 R258). -/
def execCopyCommandStart (s : State) : Res :=
  match s.ev with
  | .copyCommandStart tile ch =>
    match (s.cp tile).current ch with
    | none => .next s
    | some m =>
      let again := .next (s.after 1 s.ev)
      let ask (st : CSt) (sh : Shape) : Res :=
        let off := syncOff (Shape.sync sh)
        .next ((s.modCcmd tile m.id (fun c => { c with st := st })).sendAsk tile (accTile off) off m.core (.copy tile ch) (.syncAccept off))
      if m.st ≠ .taken ∧ m.st ≠ .ready ∧ m.st ≠ .turned then .next s
      else if s.now < m.issue + 2 || s.storeBefore m || (s.core m.core).engineHold then again
      else if m.op.isTail && !s.tailReady tile m then again
      else if m.op = .offload ∧ !m.direct ∧ segState (s.seg tile m.part m.seg) ≠ 2 then .next (s.copyDone tile m false)
      else if m.ord.acq && m.st == .taken then ask .acquiring m.src
      else if m.op = .cpyr && m.ord.rel && m.st != .turned then ask .turning m.dst
      else .next (s.copyBegin tile ch m)
  | _ => .next s

/-- The end of a command whose elements are moved: it waits until its merges are issued; then the release leaves for its object's home,
behind the command's own merges, or the tag is ready (11 R252, R255; 13 R288, R290; 01 R408). -/
def State.copyFinish (s : State) (tile : Nat) (m : CCmd) : State :=
  let ch := m.tag.val % 4
  let mine (x : MergeSrc) : Bool := match x with | .copy id _ => id == m.id | _ => false
  if m.op.isTail then s.at_ s.now (.tailCommandComplete tile ch)
  else if s.unsent m.core mine || (m.ord.rel && s.mergesOf m.core mine) then s.after 1 (.copyCommandComplete tile ch)
  else if !m.ord.rel then s.copyDone tile m false
  else
    let off := syncOff (Shape.sync m.dst)
    (s.modCcmd tile m.id (fun c => { c with st := .releasing })).sendAsk tile (accTile off) off m.core (.copy tile ch) (.syncAccept off)

/-! Moving (11 R240, R246, R247, R252, R256). -/

/-- The command whose elements move: a TAILGET that recalls its segment itself is that RECALL until the segment is RESIDENT (15 R334). -/
def State.phase (s : State) (tile : Nat) (m : CCmd) : CCmd :=
  if m.auto && segState (s.seg tile m.part m.seg) == 5 then { m with op := .recall } else m

/-- The flag word of a CPYR is due: its source block ends here (11 R252). -/
def CCmd.flagDue (m : CCmd) (p : MovePlan) : Bool :=
  m.sticky && (p.total ≤ m.elem || (match p.src m.elem with | .ok va => m.blk != some (va / 128) | .error _ => true))
/-- The plane that a CPYR writes next. -/
def State.cpyrPlane (s : State) (m : CCmd) : Nat :=
  planeNo (minus (if m.flagDue (s.movePlan m) then flagAddr m.dst else elemVa m.dst m.elem) accBase)
/-- The port of a plane goes to a channel's CPYR: no request of higher rank has it in this cycle, and no channel that comes before in the
rotation from the one after the last granted asks for it. Channel ch of tile t is number 4t + ch of the package, and no channel has been
granted before the first (10 R218; notes/assumptions/53.md, DESIGN CHOICE, unsafe). -/
def State.cpyrPort (s : State) (tile ch plane : Nat) : Option State :=
  let last := Map.get 1023 (s.tile (plane / 64)).cpLast (plane % 64)
  let place (n : Nat) : Nat := (n + 1023 - last) % 1024
  let before (t c : Nat) : Bool :=
    place (4 * t + c) < place (4 * tile + ch) && s.agenda.any (fun e => e.1 == 2 * s.now && e.2 == .copyCommandComplete t c)
  let rival := s.tiles.any (fun e => e.2.cp.cmds.any (fun m => m.st == .running && m.op == .cpyr && !bitOf m.cfg 44 && m.due != 0
    && m.due ≤ s.now && before e.1 (m.tag.val % 4) && s.cpyrPlane m == plane))
  if s.planeTaken plane || rival then none
  else some ((s.takePlane plane).modTile (plane / 64) (fun t => { t with cpLast := Map.set t.cpLast (plane % 64) (4 * tile + ch) }))

/-- Reckon the cycle in which the next `n` elements are moved. A walk delays the command, and raises the stall wire while it lasts
(11 R240; 12 R268, R269). -/
def State.copyPlan (s : State) (tile : Nat) (p : MovePlan) (m : CCmd) (n : Nat) : State :=
  let ch := m.tag.val % 4
  let k := ((List.range n).map (fun i => m.elem + i)).foldl (s.clockElem p m)
    { tlb := (s.tile tile).etlb.getD (2 + ch) StreamTlb.empty, slow := m.slow, pages := m.pages }
  let s := s.modTile tile (fun t => { t with etlb := t.etlb.setIfInBounds (2 + ch) k.tlb })
  let s := if k.walk = 0 then s else (s.after k.walk (.streamTlbWalkDone m.core (10 + ch))).raise m.core
  let base := m.base + k.walk
  let due := max s.now (base + 4 + ((m.elem + n - m.from_) * p.ds + 63) / 64 + k.slow + k.last)
  (s.modCcmd tile m.id (fun c => { c with base := base, slow := k.slow, pages := k.pages, due := due })).at_ due (.copyCommandComplete tile ch)

/-- The next elements of a command move, in the cycle reckoned for them or as much later as they wait: for a range that is held, for a slot
of the overflow pool, for the port of a plane. Those before one that fails are moved; then the command stops. -/
def State.copyMove (s : State) (tile : Nat) (p : MovePlan) (m : CCmd) (n : Nat) : State :=
  let ch := m.tag.val % 4
  let again (s : State) : State := s.after 1 (.copyCommandComplete tile ch)
  let d := p.dst m.elem
  let n := if m.op != .cpyr && s.dstHeld m d (n * p.ds) then 1 else n
  let (xs, blk, bad) := s.readRun p m n m.elem m.blk
  let go (s : State) (c : CCmd) : State :=
    (s.modCcmd tile m.id (fun o => { c with op := o.op, base := c.base + (s.now - c.due), due := 0 })).at_ s.now (.copyCommandComplete tile ch)
  let port (s : State) (plane : Nat) : Option State := if bitOf m.cfg 44 then some s else s.cpyrPort tile ch plane
  let flag : State :=
    match port s (planeNo (minus (flagAddr m.dst) accBase)) with
    | none => again s
    | some s =>
      match s.setFlag m with
      | .error c => s.copyStop tile m c (flagAddr m.dst) m.elem
      | .ok s => (s.modCcmd tile m.id (fun c => { c with sticky := false })).at_ s.now (.copyCommandComplete tile ch)
  if m.flagDue p || (m.sticky && xs.isEmpty) then flag
  else
    match xs, bad with
    | [], some (c, va) => s.copyStop tile m c va (p.backTo m m.elem c)
    | _, _ =>
      if m.op = .cpyr then
        match port s (planeNo (minus d accBase)) with
        | none => again s
        | some s =>
          let r := s.addRun p { m with blk := blk } xs
          match r.2.2 with
          | some (c, va) =>
            if r.2.1.elem ≠ m.elem then go r.1 r.2.1
            else if m.sticky then flag
            else s.copyStop tile m c va m.elem
          | none => go r.1 r.2.1
      else if s.dstHeld m d p.ds then again s
      else
        match s.writeRun m p.stamp d (xs.flatMap (fun x => leBytes p.ds (p.conv x))) with
        | (s, .done) =>
          let (s, c) := s.copyMerges p (xs.foldl (fun c x => c.fold p (p.conv x)) { m with blk := blk })
          go s c
        | (s, .wait) => again s
        | (s, .fail c va) => s.copyStop tile m c va (p.backTo m m.elem c)

/-- One step of a command that moves: reckon the time of the next elements, move them, or end. A merge that waits to be issued holds
them (13 R288; notes/assumptions/54.md, DESIGN CHOICE). -/
def State.copyStep (s : State) (tile : Nat) (m : CCmd) : State :=
  let ch := m.tag.val % 4
  let r := s.phase tile m
  let p := s.movePlan r
  if p.total ≤ m.elem && !m.sticky then
    if r.op = m.op then s.copyFinish tile m
    else
      -- the segment is back: the TAILGET itself begins
      let s := s.setSeg tile m.part m.seg (setField (s.seg tile m.part m.seg) 0 3 2)
      (s.modCcmd tile m.id (fun c => { c with elem := 0, from_ := 0, base := s.now, due := 0, pages := [], blk := none })).at_ s.now
        (.copyCommandComplete tile ch)
  else if s.unsent m.core (fun x => match x with | .copy id _ => id == m.id | _ => false) then s.after 1 (.copyCommandComplete tile ch)
  else
    let n := p.runLen r m.elem
    if p.total ≤ m.elem then s.copyMove tile p r 0
    else if m.due = 0 then s.copyPlan tile p r n
    else if s.now < m.due then s
    else s.copyMove tile p r n

/-- COPY_COMMAND_COMPLETE: the elements, block by block, then the release, then the tag (11 R246, R252, R255). -/
def execCopyCommandComplete (s : State) : Res :=
  match s.ev with
  | .copyCommandComplete tile ch =>
    match (s.cp tile).current ch with
    | none => .next s
    | some m =>
      match m.st with
      | .running => .next (s.copyStep tile m)
      | .replying => .next (s.copyDone tile m false)
      | _ => .next s
  | _ => .next s

/-- COPY_COMMAND_STOP: a fault met in the move stops the command at the element it has reached; or the refusal of an acquire, turn or
release has come back (11 R253, R255 to R257). The additions of a CPYR that stand are covered by its flag word. -/
def execCopyCommandStop (s : State) : Res :=
  match s.ev with
  | .copyCommandStop tile ch code =>
    match (s.cp tile).current ch with
    | none => .next s
    | some m =>
      let cause := (Cause.ofCode code).getD .syncMisuse
      match m.st with
      | .running =>
        match if m.sticky then s.setFlag m else .ok s with
        | .ok s => .next (s.copyStop tile { m with sticky := false } cause 0 m.elem)
        | .error _ => .next (s.copyStop tile m cause 0 m.elem)
      | .replying => .next (s.copyStop tile m cause 0 m.elem)
      | _ => .next s
  | _ => .next s

/-- TAIL_COMMAND_COMPLETE: the segment's state after the transfer (15 R334, R338). -/
def execTailCommandComplete (s : State) : Res :=
  match s.ev with
  | .tailCommandComplete tile ch =>
    match (s.cp tile).current ch with
    | none => .next s
    | some m =>
      let d := s.seg tile m.part m.seg
      let put (s : State) (d : Nat) : State := s.setSeg tile m.part m.seg d
      match m.op with
      | .tailput => .next ((put s (setField d 0 3 2)).copyDone tile m false)
      | .recall => .next ((put s (setField d 0 3 2)).copyDone tile m false)
      | .offload =>
        -- TAILGETs accepted and not yet served keep the ring copy
        let e := s.cp tile
        let s := s.setCp tile { e with cmds := e.cmds.map (fun g =>
          if g.core = m.core ∧ g.seg = m.seg ∧ (match g.op with | .tailget _ => true | _ => false) = true then { g with ring := true } else g) }
        .next ((put s (setField d 0 3 4)).copyDone tile m false)
      | .tailget free =>
        let s := if free then put s (setField (setField (setField d 0 3 0) 7 1 0) 5 1 0) else s
        .next (s.copyDone tile m false)
      | _ => .next s
  | _ => .next s

/-- The acquire, the turn or the release of a copy command at its object's home (11 R253, R255; 10 R235); the reply travels back. -/
def State.copyServe (s : State) (tile ch off : Nat) : State :=
  let s' := s.dropAsks (fun r => r == .copy tile ch)
  match (s.cp tile).current ch with
  | none => s'
  | some m =>
    let rel := m.st == .releasing
    let back := 6 + 2 * s.hops tile (accTile off)
    if m.st ≠ .acquiring && m.st ≠ .turning && !rel then s' else
    match s.copyAnswer m off with
    | .wait => s
    | .refuse cause => (s'.modCcmd tile m.id (fun c => { c with st := .replying })).after back (.copyCommandStop tile ch cause.code)
    | .done w =>
      if m.st = .turning then (s'.modCcmd tile m.id (fun c => { c with st := .turned })).after back (.copyCommandStart tile ch) else
      let s := (s'.setAccWord off 8 w).wake off
      if rel then
        let s := if m.ord.sc = .core then s else s.modCore m.core Core.setEffect
        (s.modCcmd tile m.id (fun c => { c with st := .replying })).after back (.copyCommandComplete tile ch)
      else
        let obj := Shape.sync m.src
        (s.modCcmd tile m.id (fun c =>
          { c with st := .ready, src := takeVersion obj w c.src, dst := takeVersion obj w c.dst, idx := takeVersion obj w c.idx })).after
            back (.copyCommandStart tile ch)

/-- At RFT: a stopped command restarts at ELEM or is dropped; another that waits for VALID has its trap delivered (11 R257). No rule says
what becomes of CPYPROG's other fields as VALID clears: the register clears whole (notes/assumptions/51.md, DESIGN CHOICE, unsafe). -/
def State.copyRestart (s : State) (core : Nat) : State :=
  let tile := tileOf core
  let prog := ((s.core core).sysReg 0x68).toNat
  if !bitOf prog 63 then s.modCore core (fun c => c.setSys 0x68 0) else
  let stopped := (s.cp tile).cmds.filter (fun m => m.core == core && m.st == .stopped)
  let s := s.modCore core (fun c => c.setSys 0x68 0)
  let s := match stopped.find? (fun m => m.tag.val == field prog 56 6) with
    | none => s
    | some m =>
      if bitOf prog 62 then s.copyDone tile m true
      else (s.modCcmd tile m.id (fun c => { c with st := if c.ord.acq && c.start = 0 then .taken else .ready })).at_ s.now
        (.copyCommandStart tile (m.tag.val % 4))
  match stopped.find? (fun m => m.tag.val != field prog 56 6) with
  | some m => match m.failAt with
    | some (code, va, _) => s.copyTrap m ((Cause.ofCode code).getD .copyParam) va
    | none => s
  | none => s

end Sys2Proof.Machine
end

