-- ==== Sys2Proof/Machine/Context.lean ====
section
/-! DEFINITION. Orbits that break, contexts that end, cores that are reset; work-queue counts (14 R312, R316; 16 R348, R349;
19 R384, R390; 09 R191). -/

namespace Sys2Proof.Machine

/-! What a work queue is told (19 R384, R390). -/

/-- The ranges of a virtual function. -/
def vfWqFirst (v : Nat) : Nat := field v 0 10
def vfWqCount (v : Nat) : Nat := field v 10 11
def vfLrFirst (v : Nat) : Nat := field v 64 14
def vfLrCount (v : Nat) : Nat := field v 78 15
def Package.res (p : Package) (v : Nat) : Nat := Map.get 0 p.vfres v
/-- The virtual function that owns a work queue: the lowest whose range holds it. -/
def Package.queueVf (p : Package) (q : Nat) : Option Nat :=
  (List.range 256).find? (fun v => vfWqFirst (p.res v) ≤ q && q < vfWqFirst (p.res v) + vfWqCount (p.res v))
def Package.queueVector (p : Package) (q : Nat) : Nat × Nat :=
  match p.queueVf q with
  | some v => (1 + v, (q - vfWqFirst (p.res v)) % 64)
  | none => (0, q % 64)
def State.wq (s : State) (q : Nat) : WorkQueue := Map.get WorkQueue.fresh s.wqs q
def State.setWq (s : State) (q : Nat) (w : WorkQueue) : State := { s with wqs := Map.put WorkQueue.fresh s.wqs q w }
def State.tellHost (s : State) (m : HostMsg) : State := { s with toHost := s.toHost ++ [m] }
/-- WQDONE counts one more; the vector is sent at most once in 4,096 cycles. -/
def State.wqDone (s : State) (q : Nat) : State :=
  let w := { s.wq q with done := ((s.wq q).done + 1) % 2 ^ 32 }
  if s.now < w.hold then s.setWq q { w with owed := true }
  else
    let (fn, v) := s.pkg.queueVector q
    ((s.setWq q { w with hold := s.now + 4096 }).tellHost (.msix fn v)).after 4096 (.msixHoldoffEnd q)

/-! Records whose contexts end (14 R301, R312). -/

/-- A record becomes DONE or FAULTED. -/
def State.finishRec (s : State) (r : Nat) (fault : Option Cause) : State :=
  let v := s.rcd r
  let img := match fault with
    | some c => setRecCause (setRecState v.img 5) c.code
    | none => setRecState v.img 4
  -- counted for its queue once (19 R384); a record that is DONE is no node to roll back (16 R356)
  let s := s.setRcd r { v with img := img, wq := none, effect := v.effect && fault.isSome }
  match v.wq with
  | some q => s.wqDone q
  | none => s
/-- A context of a record ends; a fault makes a STARTED record FAULTED at once. -/
def State.leaveRec (s : State) (core : Nat) (fault : Option Cause) : State :=
  match (s.core core).lr with
  | none => s
  | some r =>
    let v := s.rcd r
    let v := { v with live := v.live.filter (fun n => n != core), effect := v.effect || bitOf ((s.core core).sysReg 7).toNat 2 }
    let s := s.setRcd r v
    if recState v.img ≠ 3 then s
    else if fault.isSome then s.finishRec r fault
    else if v.live.isEmpty then s.finishRec r none else s

/-! Orbits (14 R316). -/

/-- The C stream stands before the first word of a run of its task's code. -/
def Core.atRunStart (c : Core) : Bool :=
  let p := c.c.pos
  c.mode == .running && !c.inHandler
    && (p.phase == .header || (p.phase == .words && p.pc == p.blk + 2 && p.left == p.len && p.pfx.isNone))
/-- A trap that is due before the next C run is raised when that run is next (14 R316, R317). -/
def State.takeBefore (s : State) (core : Nat) : State :=
  let c := s.core core
  match c.before with
  | (cause, i0) :: rest =>
    if c.atRunStart && c.traps.isEmpty then
      (s.setCore core { c with before := rest }).post core ⟨0, 0, 0, cause, c.c.pos.blk, i0, 0⟩
    else s
  | [] => s
def State.trapBefore (s : State) (core : Nat) (cause : Cause) (i0 : Nat) : State :=
  (s.modCore core (fun c => { c with before := c.before ++ [(cause, i0)] })).takeBefore core

/-- A core's engines look for work that has become theirs. -/
def State.lookEngines (s : State) (core : Nat) : State :=
  let tile := tileOf core
  (List.range 4).foldl (fun s ch => s.at_ s.now (.copyChannelTake tile ch)) (s.at_ s.now (.matrixCommandStart tile))
/-- A restored context goes on: its counters run, its traps that waited are delivered, its engines look for work, its watchdog
stands (16 R354). -/
def State.releaseCore (s : State) (core : Nat) : State :=
  let s := s.modCore core (fun c =>
    { c with mode := .running, sc := c.sc.resume s.now, wd := c.wd.resume s.now, traps := c.traps ++ c.pend, pend := [] })
  let s := s.after (((s.core core).sysReg 0x0D).toNat - s.wdcnt core) (.watchdog core)
  let s := if (s.core core).traps.isEmpty then s else s.at_ s.now (.trapDelivery core)
  (s.lookEngines core).takeBefore core

/-- Every other aligned member of a set loses ALIGNED and traps before its next C run; stops and raises end, so that commands that a
stop held go on (11 R258); mail in flight is discarded; a restored member waits no longer. -/
def State.breakSet (s : State) (core : Nat) (ms : List Nat) : State :=
  ms.foldl (fun s n =>
    let was := (s.core n).aligned
    let held := (s.core n).stopped
    let s := if n ≠ core ∧ (s.core n).mode = .restored then s.releaseCore n else s
    let s := s.modCore n (fun c =>
      let c := c.setAligned false
      ({ c with posts := [], raises := 0, stopped := false, sc := if c.stopped then c.sc.resume s.now else c.sc } : Core).wdRule s.now)
    let s := if held then s.lookEngines n else s
    if n = core || !was then s else s.trapBefore n .orbitBroken 0) s
def State.breakOrbit (s : State) (core : Nat) : State := s.breakSet core (s.orbit core)

/-! Reservations and requests of a core (05 R101). -/

def State.dropRequests (s : State) (core : Nat) : State :=
  let keys := (s.reserved.filter (fun e => e.2 == core)).map (fun e => e.1)
  let s := { s with reserved := s.reserved.filter (fun e => e.2 != core),
                    waiters := s.waiters.filter (fun w => w.who != Requester.run core),
                    dies := s.dies.map (fun d => (d.1, { d.2 with resv := d.2.resv.filter (fun r => r.1 != core) })) }
  keys.foldl State.wake s

/-- Events that belong to a core's own streams. -/
def Event.ofStreams (core : Nat) : Event → Bool
  | .xResultLand c _ => c == core
  | .loadQueueEntryReady c _ => c == core
  | .queueStoreWrite c _ => c == core
  | .streamTlbWalkDone c _ => c == core
  | .qscaleResult c _ => c == core
  | .trapDelivery c => c == core
  | .albedoSettleDone c => c == core
  | .overlayLoadDone c => c == core
  | .safeptLate c => c == core
  | .debugBreak ag => ag.core == core
  | .dispatchStart ag => ag.core == core
  | .mailLate c _ => c == core
  | .waitscDone c => c == core
  | .watchdog c => c == core
  | .orbitSave c => c == core
  | .taskBoundary c => c == core
  | .orbitAlign c => c == core
  | .contextEnd c => c == core
  | _ => false

/-! Scalar stores on their way (12 R268). -/

/-- The name under which a scalar store holds its overflow slot until it is performed. -/
def storeKey (core id : Nat) : Nat := 1024 * (id + 1) + core

/-- A scalar store is performed at its line; one that finds no overflow slot stays (12 R280). -/
def State.scalarStore (core : Nat) (s : State) (q : QStore) : State :=
  let key := storeKey core q.id
  let gone (s : State) : State :=
    let s : State := { s with dies := s.dies.map (fun d => (d.1, { d.2 with resv := d.2.resv.filter (fun r => r.1 != key) })) }
    s.modCore core (fun c => { c with cst := c.cst.filter (fun w => w.id != q.id) })
  match q.segs with
  | [] => gone s
  | g :: _ =>
    -- a fence has stopped it on its way (17 R367)
    if s.kindRefusal g.place = some .destEclipsed then (gone s).trapOf ⟨core, .c⟩ .destEclipsed 0 0 else
    match s.writePlace g.place g.bytes (some g.va) none (some key) (.store core q.id) with
    | .done s => gone s
    | .refuse _ => gone s
    | .wait s => s
/-- Every scalar store that a core has on its way is performed at once: what makes its writes visible waits for no line
(10 R233, R236; 14 R305, R311). -/
def State.flushStores (s : State) (core : Nat) : State := (s.core core).cst.foldl (State.scalarStore core) s

/-! Engines (09 R191, 11 R258, 15 R338). -/

/-- The core's matrix commands: the one in progress finishes, its release included, the others and the holds go; the run closes
(09 R191). -/
def State.dropMatrix (s : State) (core : Nat) : State :=
  let tile := tileOf core
  let m := s.mx tile
  let cmds := m.cmds.filterMap (fun c =>
    if c.core ≠ core then some c
    else if c.st = .running ∨ c.st = .releasing then some { c with hold := false, ret := some s.now } else none)
  let waits := m.cmds.any (fun c => c.core == core && c.st == .acquiring)
  let s := if waits then (s.dropAsks (fun r => r == .matrix tile)).cancel (fun e => match e with
    | .matrixCommandStop t _ _ _ => t == tile | _ => false) else s
  let runs := m.runs.filterMap (fun r =>
    if r.core ≠ core then some r else if r.granted then some { r with closed := 2 } else none)
  ((s.setMx tile { m with cmds := cmds, runs := runs }).modCore core (fun c => { c with batch := Batches.fresh })).mxFree tile
/-- Commands of the context's runs keep running, and then the runs close (09 R191). -/
def State.closeRun (s : State) (core : Nat) : State :=
  let tile := tileOf core
  let m := s.mx tile
  let runs := m.runs.filterMap (fun r =>
    if r.core ≠ core then some r
    else if !r.granted && (m.pendingOf r.id).isEmpty then none else some { r with closed := if r.closed = 0 then 2 else r.closed })
  (s.setMx tile { m with runs := runs }).mxFree tile
/-- What is left of a core's commands and batches once every command has completed: a batch that stayed OPEN goes (09 R191, R206). -/
def State.forgetMatrix (s : State) (core : Nat) : State :=
  let tile := tileOf core
  let m := s.mx tile
  (s.setMx tile { m with cmds := m.cmds.filter (fun c => c.core != core) }).modCore core (fun c => { c with batch := Batches.fresh })

/-- The core's copy and tail commands are cancelled, running or not; a cancelled tail command gives its segment back. -/
def State.dropCopies (s : State) (core : Nat) : State :=
  let tile := tileOf core
  let e := s.cp tile
  let mine := e.cmds.filter (fun m => m.core == core)
  let s := mine.foldl (fun s m =>
    if !m.op.isTail then s else
    let d := s.seg tile m.part m.seg
    let st := match segState d with | 1 => 0 | 3 => 2 | 5 => 4 | n => n
    s.setSeg tile m.part m.seg (setField d 0 3 st)) s
  let chs := (List.range 4).filter (fun ch => (e.current ch).any (fun m => m.core == core))
  let s := (s.dropAsks (fun r => match r with | .copy t ch => t == tile && chs.contains ch | _ => false)).cancel (fun x =>
    match x with
    | .copyCommandStart t ch => t == tile && chs.contains ch
    | .copyCommandComplete t ch => t == tile && chs.contains ch
    | .copyCommandStop t ch _ => t == tile && chs.contains ch
    | .tailCommandComplete t ch => t == tile && chs.contains ch
    | _ => false)
  let s := (s.setCp tile { e with cmds := e.cmds.filter (fun m => m.core != core) }).leaveLines (fun w => match w with
    | .copy t ch => t == tile && chs.contains ch
    | _ => false)
  let s := s.modCore core (fun c => ((c.setSys 0x5D 0).setSys 0x5E 0).setSys 0x68 0)
  (List.range 4).foldl (fun s ch => s.at_ s.now (.copyChannelTake tile ch)) s

/-- Commands that the core has issued and that have not completed. -/
def State.commandsOf (s : State) (core : Nat) : Bool :=
  let tile := tileOf core
  (s.mx tile).cmds.any (fun c => c.core == core && c.st != .done) || (s.cp tile).cmds.any (fun c => c.core == core)
    || !(s.core core).q.wr.isEmpty || !(s.core core).cst.isEmpty

/-! Ends. -/

/-- A context leaves its core: its locks are poisoned, its record loses it, the core is free once its commands have completed
(14 R312). ALIGNED, ORBITSET, SC and the mail slots outlive it. -/
def State.endContext (s : State) (core : Nat) (fault : Option Cause) : State :=
  let s := (s.poisonLocks core (s.locksOf core)).closeRun core
  let s := s.leaveRec core fault
  let s := s.dropRequests core
  let s := s.modCore core (fun c =>
    let rest (o : Outer) : Outer := { o with dq := [], active := false, pos := Pos.idle }
    { c with mode := .ended, lr := none, c := { CStream.idle with p := c.c.p }, ao := rest c.ao, xo := rest c.xo, frame := none,
             traps := [], pend := [], wd := c.wd.hold s.now, preempt := false, before := [], load := none,
             sent := false, synced := false })
  s.at_ s.now (.allotmentReturn core)

/-- ALLOTMENT_RETURN: the last command has completed; the allotments are free with the core (14 R312). SCRPART, ACCALLOT and ALBGRANT
keep what the launch wrote until the next launch (16 R357). -/
def execAllotmentReturn (s : State) : Res :=
  match s.ev with
  | .allotmentReturn core =>
    let c := s.core core
    if c.mode ≠ .ended then .next s
    else if s.commandsOf core then .next (s.after 1 s.ev)
    else .next ((s.setCore core { c with mode := .free, ringSize := 0, spillSize := 0 }).forgetMatrix core)
  | _ => .next s

/-- The reset of a core (16 R349). -/
def State.resetCore (s : State) (core : Nat) (fault : Cause) : State :=
  let s := s.breakOrbit core
  let s := s.cancel (Event.ofStreams core)
  let s := (s.dropMatrix core).dropCopies core
  let s := s.modTile (tileOf core) (fun t => { t with ports := t.ports.filter (fun q => q.core != core) })
  let s := ((s.poisonLocks core (s.locksHeld core)).lateMerges core).leaveRec core (some fault)
  let s := (s.dropRequests core).dropAsks (fun r => match r with | .scale c _ => c == core | _ => false)
  let c := s.core core
  let f := { Core.fresh with mode := .ended, sc := Counter.from_ 0 s.now, cst := c.cst }
  let f := (((f.setSys 0x05 (c.sysReg 0x05)).setSys 0x60 (c.sysReg 0x60)).setSys 0x61 (c.sysReg 0x61)).setSys 0x62 (c.sysReg 0x62)
  let s := (s.setCore core f).leaveLines (fun w => match w with
    | .store n id => n == core && !c.cst.any (fun q => q.id == id)
    | .save n => n == core
    | _ => false)
  (s.at_ s.now (.allotmentReturn core)).at_ s.now (.matrixCommandStart (tileOf core))

end Sys2Proof.Machine
end

