-- ==== Sys2Proof/Machine/Commit.lean ====
section
/-! DEFINITION. The two phases of a C run's commit: local checks, requests to homes, held effects (05 R100, R101; 10 R222 to R236;
13 R295; 14 R304, R311, R317; 15 R326; 16 R345 to R351). -/

namespace Sys2Proof.Machine

/-! Translations of phase 1. -/

/-- What phase 1 has translated: pages by address and access, entries to install, the time of the walks. -/
structure P1 where
  got  : List (Nat × Place)
  fill : List TlbEntry
  time : Nat
  walked : Bool
  deriving DecidableEq, Repr

def accessCode : Access → Nat | .read => 0 | .write => 1 | .exec => 2
/-- A check of phase 1 that fails: the cause with what it reports, and the walks made up to it. -/
abbrev P1Fail := (Cause × Nat × Nat) × P1

/-- Translate an address, through what a walk has brought or the C TLB. A walk that fails has taken its time too. -/
def State.p1Place (s : State) (core : Nat) (sup : Bool) (known : List (Nat × Place)) (p : P1) (va : Nat) (acc : Access) :
    Except P1Fail (Place × P1) :=
  let key := va * 4 + accessCode acc
  match (known ++ p.got).find? (fun e => e.1 == key) with
  | some (_, pl) => .ok (pl, { p with got := p.got ++ [(key, pl)] })
  | none =>
    let r := s.translate (tileOf core) sup (p.fill ++ (s.core core).ctlb) va acc false
    let q := { p with time := p.time + r.time, walked := p.walked || r.walked }
    match r.res with
    | .error f => .error (f.trap va, q)
    | .ok pl => .ok (pl, { q with got := p.got ++ [(key, pl)], fill := p.fill ++ r.entry.toList })

/-! Overlays (14 R310, R311). -/

def up64 (n : Nat) : Nat := (n + 63) / 64 * 64
/-- Offsets in an image of the A code, the X code and the descriptor table. -/
def Overlay.aAt (o : Overlay) : Nat := 64 + up64 (2 * o.clen)
def Overlay.xAt (o : Overlay) : Nat := o.aAt + up64 (2 * o.alen)
def Overlay.dAt (o : Overlay) : Nat := o.xAt + up64 (2 * o.xlen)
/-- The header's limits. -/
def ovlHeader (va : Nat) (h : Nat) : Option Overlay :=
  let c := field h 0 16
  let a := field h 16 16
  let x := field h 32 16
  if c ≤ 8192 && a ≤ 8192 && x ≤ 16384 && field h 54 2 == 0 && h / 2 ^ 56 == 0 then some ⟨va, c, a, x, field h 48 6, [], 0⟩ else none
/-- Where byte k of an image lies whose pages have been translated. -/
def Overlay.placeAt (o : Overlay) (k : Nat) : Place :=
  let va := o.va + k
  match o.pages.find? (fun e => e.1 == va / 0x1_0000) with
  | some (_, .dram d) => .dram (d + va % 0x1_0000)
  | some (_, .packed d) => .packed (d + va % 0x1_0000)
  | some (_, .remote p d) => .remote p (d + va % 0x1_0000)
  | some (_, p) => p
  | none => .dram 0
/-- Byte k of an image. -/
def State.ovlByte (s : State) (o : Overlay) (k : Nat) : Byte := (s.readPlace (o.placeAt k) 1).headD 0
/-- An uncorrectable error in what a load reads after the header (12 R274, 18 R375). -/
def State.ovlEcc (s : State) (o : Overlay) : Bool :=
  (List.range ((o.dAt + 8192) / 64)).any (fun k => (s.placeEcc (o.placeAt (64 * k)) 64).isSome)
/-- Add the page of an address to an image. -/
def ovlPage (o : Overlay) (va : Nat) (pl : Place) : Overlay :=
  let back (d : Nat) : Nat := d - va % 0x1_0000
  let pl := match pl with | .dram d => Place.dram (back d) | .packed d => .packed (back d) | .remote p d => .remote p (back d) | p => p
  { o with pages := o.pages ++ [(va / 0x1_0000, pl)] }

/-- Where an image's header lies: alignment, then its page (14 R311). -/
def State.ovlHead (s : State) (core : Nat) (sup : Bool) (known : List (Nat × Place)) (p : P1) (va : Nat) : Except P1Fail (Place × P1) := do
  if va % 64 ≠ 0 then throw ((.align, 0, 0), p)
  -- the window's paths do not include the fetch of an overlay (10 R217)
  if inAccWindow va then throw ((.accBounds, 0, 0), p)
  s.p1Place core sup known p va .exec
/-- Every check that a load makes: alignment, header, pages (14 R310, R311). -/
def State.ovlCheck (s : State) (core : Nat) (sup : Bool) (known : List (Nat × Place)) (p : P1) (va : Nat) :
    Except P1Fail (Overlay × P1) := do
  let (pl, p) ← s.ovlHead core sup known p va
  match s.kindRefusal pl <|> s.placeEcc pl 64 with
  | some c => throw ((c, 0, 0), p)
  | none => pure ()
  match ovlHeader va (leNat (s.readPlace pl 64)) with
  | none => throw ((.overlayInvalid, 0, 0), p)
  | some o =>
    let o := ovlPage o va pl
    let size := o.dAt + 8192
    let pages := ((List.range (size / 0x1_0000 + 2)).drop 1).map (fun k => (va / 0x1_0000 + k) * 0x1_0000)
    let (o, p) ← (pages.filter (fun a => a < va + size)).foldlM (fun (x : Overlay × P1) a => do
      let (pl, p) ← s.p1Place core sup known x.2 a .exec
      match s.kindRefusal pl with
      | some c => throw ((c, 0, 0), p)
      | none => pure (ovlPage x.1 a pl, p)) (o, p)
    pure ({ o with time := s.accessTime (tileOf core) (o.placeAt 64) + (size - 64) / 64 }, p)

/-- Code and descriptor table go into the core; the call stack is empty (14 R311). -/
def State.loadCode (s : State) (core : Nat) (o : Overlay) : State :=
  let code (at_ n : Nat) : Map (BitVec 16) :=
    ((List.range n).map (fun k => (k, BitVec.ofNat 16 ((s.ovlByte o (at_ + 2 * k)).toNat + 256 * (s.ovlByte o (at_ + 2 * k + 1)).toNat)))).filter
      (fun e => e.2 != 0)
  let desc : Mem := ((List.range 8192).map (fun k => (k, s.ovlByte o (o.dAt + k)))).filter (fun e => e.2 != 0)
  s.modCore core (fun c =>
    { c with imemC := code 64 o.clen, imemA := code o.aAt o.alen, imemX := code o.xAt o.xlen, desc := desc, trailer := o.trailer,
             ovlBytes := o.dAt + 8192, c := { c.c with stack := [] } })

/-! Local checks of phase 1 (05 R101). -/

/-- What the local check of an operation answers beside a trap. -/
abbrev Chk := Except P1Fail P1

/-- A check that fails with a cause and nothing to report. -/
def bad {α : Type} (c : Cause) (p : P1) : Except P1Fail α := .error ((c, 0, 0), p)
def refuseIf (b : Bool) (c : Cause) (p : P1) : Chk := if b then bad c p else .ok p

/-- A store or a strong load: alignment, windows, translation, kind. -/
def State.memCheck (s : State) (core : Nat) (known : List (Nat × Place)) (p : P1) (ea size : Nat) (acc : Access) : Chk :=
  match scalarCheck ea size with
  | some c => bad c p
  | none => do
    let (pl, p) ← s.p1Place core (s.core core).sup known p ea acc
    match s.kindRefusal pl <|> (if acc = .read then s.placeEcc pl size else none) with
    | some c => bad c p
    | none => .ok p

/-- A record number that the context may use (13 R292, R293). -/
def albLocal (c : Core) (n : Word) (p : P1) : Chk :=
  if 2 ^ 16 ≤ n.toNat then bad .reservedField p else refuseIf (!c.albOk n.toNat) .privilege p
/-- A launch record that the context may use (14 R304). -/
def State.lrLocal (s : State) (c : Core) (r : Word) (p : P1) : Chk :=
  if 2 ^ 14 ≤ r.toNat then bad .reservedField p
  else
    let mine := match c.lr with | some n => recChild (s.rcd n).img r.toNat | none => false
    refuseIf (!c.sup && !mine) .privilege p

/-- A BIND against the slots as the run's earlier operations leave them (10 R229). -/
def bindNow (b : List (Nat × Nat × Nat × Nat)) (o base len : Nat) : Option (List (Nat × Nat × Nat × Nat)) :=
  if b.any (fun e => e.2 == (o, base, len)) then some b
  else ((List.range 64).find? (fun k => !b.any (fun e => e.1 == k))).map (fun k => b ++ [(k, o, base, len)])
def unbindNow (b : List (Nat × Nat × Nat × Nat)) (o : Nat) : List (Nat × Nat × Nat × Nat) := b.filter (fun e => e.2.1 != o)

/-- One held operation; `b` are the binding slots as the operations before it leave them. -/
def State.localCheck (s : State) (core : Nat) (known : List (Nat × Place)) (x : P1 × List (Nat × Nat × Nat × Nat)) (h : Held) :
    Except P1Fail (P1 × List (Nat × Nat × Nat × Nat)) :=
  let c := s.core core
  let (p, b) := x
  let keep (r : Chk) := r.map (fun p => (p, b))
  match h with
  | .st ea size _ _ => keep (s.memCheck core known p ea size .write)
  | .shst ea _ => keep (s.memCheck core known p ea 64 .write)
  | .lds ea wd _ => keep (s.memCheck core known p ea (memSize wd) .read)
  | .atomic op dw ea _ _ _ =>
    let size := if dw then 8 else 4
    if ea % size ≠ 0 then bad .align p
    else if !inAccWindow ea then bad .atomicTarget p
    else keep (refuseIf (!atomicPlaneOk c.sup dw op (minus ea accBase)) .accBounds p)
  | .bind o base len =>
    if 2 ^ 20 ≤ o.toNat then bad .reservedField p
    else if base.toNat % 128 ≠ 0 ∨ len.toNat % 128 ≠ 0 ∨ len = 0 ∨ 2 ^ 40 < len.toNat then bad .align p
    else match bindNow b o.toNat base.toNat len.toNat with
      | some b => .ok (p, b)
      | none => bad .bindFull p
  | .unbind o => if 2 ^ 20 ≤ o.toNat then bad .reservedField p else .ok (p, unbindNow b o.toNat)
  | .acq o _ => keep (refuseIf (2 ^ 20 ≤ o.toNat) .reservedField p)
  | .rel o _ => keep (refuseIf (2 ^ 20 ≤ o.toNat) .reservedField p)
  | .post addr _ lat =>
    let owner := field addr.toNat 6 10
    if 2 ^ 16 ≤ addr.toNat ∨ lat = 0 then bad .reservedField p
    else if !c.aligned || !(s.orbit core).contains owner || !(s.core owner).aligned then bad .orbitUnaligned p
    else keep (refuseIf (s.fencedC.contains (tileOf owner) || s.routerFenced (tileOf owner)) .destEclipsed p)
  | .mbrd addr _ =>
    if 2 ^ 16 ≤ addr.toNat then bad .reservedField p
    else keep (refuseIf (!c.aligned || field addr.toNat 6 10 != core) .orbitUnaligned p)
  | .lrpatch _ r _ => keep (s.lrLocal c r p)
  | .lrarm r => keep (s.lrLocal c r p)
  | .childq r => keep (s.lrLocal c r p)
  | .albinit n _ => keep (albLocal c n p)
  | .albsettle n => keep (albLocal c n p)
  | .albrd n _ _ => keep (albLocal c n p)
  | .seal put k =>
    match s.sealCheck core put k with
    | .ok _ => .ok (p, b)
    | .error e => .error (e, p)
  | _ => .ok (p, b)

/-! Homes (05 R101). -/

/-- The places of the run's stores, by what phase 1 has translated. -/
def storePlace (got : List (Nat × Place)) (ea : Nat) : Option Place := (got.find? (fun e => e.1 == ea * 4 + 1)).map (fun e => e.2)

/-- The home key of an operation with the home's tile. -/
def Held.home (got : List (Nat × Place)) : Held → Option (Nat × Nat)
  | .atomic _ _ ea _ _ _ => some ((minus ea accBase) / 8 * 8, accTile (minus ea accBase))
  | .acq o _ => some (syncOff o.toNat, o.toNat / 4096)
  | .rel o _ => some (syncOff o.toNat, o.toNat / 4096)
  | .albinit n _ => some (recOff n.toNat, n.toNat / 256)
  | .albsettle n => some (recOff n.toNat, n.toNat / 256)
  | .albrd n _ _ => some (recOff n.toNat, n.toNat / 256)
  | .lrpatch _ r _ => some (2 ^ 30 + r.toNat, 128 * (recDie r.toNat / 2) + 8 * (recDie r.toNat % 2))
  | .lrarm r => some (2 ^ 30 + r.toNat, 128 * (recDie r.toNat / 2) + 8 * (recDie r.toNat % 2))
  | .childq r => some (2 ^ 30 + r.toNat, 128 * (recDie r.toNat / 2) + 8 * (recDie r.toNat % 2))
  | .st ea _ _ _ => match storePlace got ea with
    | some (.packed a) => some (2 ^ 48 + a / 128 * 128, columnOf (homeOf a))
    | _ => none
  | .shst ea _ => match storePlace got ea with
    | some (.packed a) => some (2 ^ 48 + a / 128 * 128, columnOf (homeOf a))
    | _ => none
  | _ => none

/-- Insert a key once, ascending. -/
def askPut : List (Nat × Nat) → Nat × Nat → List (Nat × Nat)
  | [], k => [k]
  | j :: t, k => if j.1 = k.1 then j :: t else if j.1 < k.1 then j :: askPut t k else k :: j :: t

/-- An operation on an 8-byte word of accumulator SRAM, on the word as the run's earlier operations leave it. -/
def State.wordOp (s : State) (core key : Nat) (w : Nat) : Held → HomeAns
  | .atomic op dw ea opnd cmp _ =>
    let size := if dw then 8 else 4
    let sh := 8 * ((minus ea accBase) % 8)
    if s.badAcc.contains key then .refuse .eccAcc
    else
      let w := maskObject key w
      .done (maskObject key (setField w sh (8 * size) (atomicNew op size (field w sh (8 * size)) opnd cmp)))
  | .acq _ _ => if s.badAcc.contains key then .refuse .eccAcc else (SyncWord.ofNat w).acq core
  | .rel _ _ =>
    if s.badAcc.contains key then .refuse .eccAcc
    else if s.mergesJoined core then .wait else (SyncWord.ofNat w).rel core
  | _ => .done w

/-- The record operations of the run on one record, laid over each other (14 R304); `taken` entries are promised. -/
def State.recOp (s : State) (r taken : Nat) (img : BitVec 2048) : Held → Except Cause (BitVec 2048)
  | .lrpatch v _ f =>
    if patchBad f v.toNat then .error .reservedField
    else if !recOpen img then .error .launchRecordBusy else .ok (patchRec img f v.toNat)
  | .lrarm _ => match s.armRefusal r img false taken with | some c => .error c | none => .ok (armRec img (some 0))
  | .childq _ => match s.armRefusal r img true taken with | some c => .error c | none => .ok (armRec img (some 0))
  | _ => .ok img

/-- A home's answer to a run: accepted, with slots and blocks it promises; a wait; a refusal (05 R101). -/
inductive AskRes
  | ok (slots blocks : Nat)
  | wait
  | refuse (c : Cause)
  deriving DecidableEq, Repr

def State.ask (s : State) (core key : Nat) : AskRes :=
  let held := (s.core core).c.held
  let got := ((s.core core).c.walk.map (fun w => w.got)).getD []
  let mine := held.filter (fun h => (h.home got).map (fun e => e.1) == some key)
  if s.reservedFrom key (some core) then .wait
  else if 2 ^ 48 ≤ key then
    let ap := minus key (2 ^ 48)
    let home := homeOf ap
    let d := s.die (dieOf (columnOf home))
    let needs := s.idxOf home = 0
    let n := mine.length
    if d.freeSlots (some core) < n + ((d.resv.filter (fun r => r.1 == core)).map (fun r => r.2.1)).sum
        || (needs && d.freeBlocks (some core) ≤ ((d.resv.filter (fun r => r.1 == core)).map (fun r => r.2.2)).sum) then .wait
    else .ok n (b2n needs)
  else if 2 ^ 30 ≤ key then
    let r := minus key (2 ^ 30)
    let go (x : Except Cause (BitVec 2048)) (h : Held) : Except Cause (BitVec 2048) :=
      x.bind (fun img => s.recOp r (s.armsPromised (recDie r) (match h with | .childq _ => true | _ => false)) img h)
    match mine.foldl go (.ok (s.rcd r).img) with
    | .ok _ => .ok 0 0
    | .error c => .refuse c
  else if s.routerFenced (accTile key) then .refuse .destEclipsed
  else if accPlane key = 63 ∧ key % 0x1_0000 < 0x8000 then
    let n := accTile key * 256 + key % 0x1_0000 / 128
    -- an ALBINIT of the run allocates the record for the operations after it
    let go (x : Bool × Option Cause) (h : Held) : Bool × Option Cause :=
      match x.2, h with
      | some c, _ => (x.1, some c)
      | none, .albinit _ _ => (true, none)
      | none, .albsettle _ => (x.1, if x.1 || s.recAlloc n then none else some .albedoFree)
      | none, .albrd _ _ _ => (x.1, if x.1 then none else s.recRefusal n)
      | none, _ => x
    match (mine.foldl go (false, none)).2 with
    | some c => .refuse c
    | none => .ok 0 0
  else
    let go (x : HomeAns) (h : Held) : HomeAns := match x with | .done w => s.wordOp core key w h | r => r
    match mine.foldl go (.done (s.accWord key 8)) with
    | .done _ => .ok 0 0
    | .wait => .wait
    | .refuse c => .refuse c

/-- A home would answer a request otherwise than with a wait. -/
def State.homeAnswers (s : State) (w : Waiter) : Bool :=
  match w.who with
  | .run core => s.ask core w.key != .wait
  | .matrix _ => s.engineSync w.core w.key false != .wait
  | .copy tile ch => ((s.cp tile).current ch).all (fun m => s.copyAnswer m w.key != .wait)
  | .scale _ _ => !s.reservedFrom w.key none
  | .rescale => !s.reservedFrom w.key none
  | .outside _ => false

/-- An access to a launch record from a work queue, the host or firmware has its turn: no run has reserved the record, and what came before
it has been served (05 R101, 14 R301). -/
def State.recTurn (s : State) (r n : Nat) : Bool :=
  !s.reservedFrom (2 ^ 30 + r) none
    && !(s.waiters.takeWhile (fun w => w.who != .outside n)).any (fun w => w.key == 2 ^ 30 + r && w.at_ ≤ s.now)
/-- It waits at the record, or has been served. -/
def State.joinRec (s : State) (r n : Nat) : State :=
  if s.waiters.any (fun w => w.who == .outside n) then s
  else { s with waiters := waiterPut s.waiters ⟨2 ^ 30 + r, s.now, 1024, .outside n⟩ }
def State.leaveRecord (s : State) (r n : Nat) : State :=
  if s.waiters.any (fun w => w.who == .outside n) then (s.dropAsks (fun x => x == .outside n)).wake (2 ^ 30 + r) else s
/-- A request from outside that came to the record first has not been served. -/
def State.outsideFirst (s : State) (w : Waiter) : Bool :=
  (s.waiters.takeWhile (fun v => v != w)).any (fun v => v.key == w.key && (match v.who with | .outside _ => true | _ => false))

/-- One request at its home: it reserves, waits, or is refused; the reply travels back. -/
def State.serve (s : State) (w : Waiter) : State :=
  let gone (s : State) : State := { s with waiters := s.waiters.erase w }
  match w.who with
  | .matrix tile => s.matrixServe tile w.key
  | .copy tile ch => s.copyServe tile ch w.key
  | .scale core id => s.scaleServe core id
  | .rescale => s.rescaleServe w
  | .outside _ => s
  | .run core =>
    if s.outsideFirst w then s else
    let c := s.core core
    let home := (c.c.asks.headD (0, 0)).2
    let reply (s : State) (r : Option (Cause × Nat × Nat)) : State :=
      s.modCore core (fun c => { c with c := { c.c with refused := r, until_ := s.now + 6 + 2 * s.hops (tileOf core) home } })
    match s.ask core w.key with
    | .wait =>
      -- slots of an access point's die come free with no word of this home's (12 R281): the home looks again
      if w.key < 2 ^ 48 || s.agenda.any (fun e => e.1 == 2 * (s.now + 1) && e.2 == .syncAccept w.key) then s
      else s.after 1 (.syncAccept w.key)
    | .refuse cause => reply (gone s) (some (cause, 0, 0))
    | .ok slots blocks =>
      let s := gone { s with reserved := s.reserved ++ [(w.key, core)] }
      let s := if slots = 0 then s
        else s.modDie (dieOf (columnOf (homeOf (minus w.key (2 ^ 48))))) (fun d => { d with resv := d.resv ++ [(core, slots, blocks)] })
      reply s none

/-- The launch unit of a record, the die whose pool an access point of memory draws on. -/
def unitOf (key : Nat) : Nat := if 2 ^ 48 ≤ key then 4 + dieOf (columnOf (homeOf (minus key (2 ^ 48)))) else recDie (minus key (2 ^ 30))
/-- A home takes requests that have arrived. The port of a plane serves one in a cycle, the first to arrive of those that need not
wait, so that the others ask again in the next (10 R218, R228). A launch unit and a die's access points of memory take all that have
arrived, in the order of their arrival and then of their cores (14 R301, 12 R279, 01 R15). -/
def State.serveKey (s : State) (key : Nat) : State :=
  let due := s.waiters.filter (fun w => w.at_ ≤ s.now)
  if 2 ^ 30 ≤ key then (due.filter (fun w => 2 ^ 30 ≤ w.key && unitOf w.key == unitOf key)).foldl State.serve s
  else (match due.filter (fun (w : Waiter) => w.key < 2 ^ 30 && planeNo w.key == planeNo key && s.homeAnswers w) with
    | [] => s
    | w :: rest =>
      if s.planeTaken (planeNo key) then s.after 1 (.syncAccept w.key)
      else
        let s := (s.takePlane (planeNo key)).serve w
        match rest with
        | [] => s
        | v :: _ => s.after 1 (.syncAccept v.key)).lateScales (planeNo key)

/-- SYNC_ACCEPT: a home takes the requests that have arrived in their order (05 R101; 10 R218, R228). -/
def execSyncAccept (s : State) : Res :=
  match s.ev with
  | .syncAccept key => .next (s.serveKey key)
  | _ => .next s

/-- MATRIX_ACQUIRE: the request of a tile's array has come to its object's home (09 R214). -/
def execMatrixAcquire (s : State) : Res :=
  match s.ev with
  | .matrixAcquire tile =>
    match s.waiters.find? (fun w => w.who == .matrix tile) with
    | some w => .next (s.serveKey w.key)
    | none => .next s
  | _ => .next s

/-- HOME_REQUEST: the request of a QSCALE or a VQNT has come to a record's home (08 R176, R177). -/
def execHomeRequest (s : State) : Res :=
  match s.ev with
  | .homeRequest _ (.qscale _ _ _ _ n _) => .next (s.serveKey (recOff n))
  | .homeRequest _ (.rescale n) => .next (s.serveKey (recOff n))
  | _ => .next s

/-! Phase 1. -/

/-- The home has not answered the request that the run has sent. -/
def State.askOpen (s : State) (core : Nat) : Bool := s.waiters.any (fun w => w.who == Requester.run core)

/-- A run is refused: its reservations end and it traps, to be rolled back at delivery (05 R101, R102). -/
def State.commitTrap (s : State) (core : Nat) (cause : Cause) (i0 i1 : Nat) : State :=
  (s.dropRequests core).trapOf ⟨core, .c⟩ cause i0 i1

/-- Room in the dispatch queues; the requests in ascending order of their home keys. -/
def State.sendAsks (s : State) (core : Nat) (c : Core) (p : P1) : Res :=
  if 8 < c.xo.dq.length + heldDisps c.c.held true ∨ 8 < c.ao.dq.length + heldDisps c.c.held false then .next s else
  let asks := c.c.held.foldl (fun l h => match h.home p.got with | some k => askPut l k | none => l) []
  let w : Walk := ⟨p.got, none, [], none, s.now, true⟩
  let phase : Phase := if asks.isEmpty then .commit2 else .commit1
  let s := s.modCore core (fun c =>
    { c with c := { c.c with walk := some w, asks := asks, asked := false, pos := { c.c.pos with phase := phase } } })
  match asks with
  | [] => .next s
  | (key, tile) :: _ =>
    .next ((s.modCore core (fun c => { c with c := { c.c with asked := true, refused := none } })).sendAsk (tileOf core) tile key core
      (.run core) (.syncAccept key))

/-- What the checks of a run answer: a trap, or the translations, with the swap that its exit makes (14 R311): its header is to be read
first, or has been and the image is whole. -/
def State.runChecks (s : State) (core : Nat) (c : Core) (known : List (Nat × Place)) : Except P1Fail (P1 × Option (Place ⊕ Overlay)) := do
  let (p, _) ← c.c.held.foldlM (fun x h => s.localCheck core known x h) ((⟨[], [], 0, false⟩ : P1), c.binds)
  match c.c.pos.exit with
  | some (.overlay va) =>
    if c.c.ovl.isNone then
      let (pl, p) ← s.ovlHead core c.sup known p va
      pure (p, some (.inl pl))
    else
      let (o, p) ← s.ovlCheck core c.sup known p va
      pure (p, some (.inr o))
  | _ => pure (p, none)

/-- Checks, dispatch room, the waits of SEALOP and the header's read; then the requests, or the end of phase 1. The header of a swap is
read once its page is known: a header or a page that is refused after that traps when the read has ended (14 R311). -/
def State.finishLocal (s : State) (core : Nat) (c : Core) (known : List (Nat × Place)) : Res :=
  let sealWaits := c.c.held.any (fun h => match h with | .seal _ _ => true | _ => false) && !s.xIdle core
  if sealWaits then .next s else
  let setW (s : State) (w : Walk) (u : Nat) : State := s.modCore core (fun c => { c with c := { c.c with walk := some w, until_ := u } })
  -- phase 1 lasts the walks as well, the walk that fails among them
  let walk (p : P1) (fail : Option (Cause × Nat × Nat)) : Res :=
    .next (((setW s ⟨p.got, fail, p.fill, none, s.now + p.time, false⟩ 0).after p.time (.streamTlbWalkDone core 14)).raise core)
  let setOvl (s : State) (o : Overlay) : State := s.modCore core (fun c => { c with c := { c.c with ovl := some o } })
  match s.runChecks core c known with
  | .error ((cause, i0, i1), p) => if p.walked then walk p (some (cause, i0, i1)) else .next (s.commitTrap core cause i0 i1)
  | .ok (p, ov) =>
    if p.walked then walk p none
    else match ov with
      | some (.inl pl) =>
        let s := setW s ⟨p.got, none, [], none, s.now, true⟩ (s.now + s.accessTime (tileOf core) pl)
        .next (setOvl s ⟨0, 0, 0, 0, 0, [], 0⟩)
      | some (.inr o) => (setOvl s o).sendAsks core c p
      | none => s.sendAsks core c p

/-- COMMIT_PHASE_1 (05 R101). The request to the next home leaves in the cycle after the reply of the one before has come, which no rule
says (notes/assumptions/41.md, DESIGN CHOICE, unsafe). -/
def execCommitPhase1 (s : State) : Res :=
  match s.ev with
  | .commitPhase1 core =>
    let c := s.core core
    if c.c.pos.phase ≠ .commit1 then .next s else
    let modC (s : State) (f : CStream → CStream) : State := s.modCore core (fun c => { c with c := f c.c })
    match c.c.asks with
    | (key, tile) :: rest =>
      if !c.c.asked then
        .next ((modC s (fun x => { x with asked := true, refused := none })).sendAsk (tileOf core) tile key core (.run core)
          (.syncAccept key))
      else if s.askOpen core || s.now < c.c.until_ then .next s
      else match c.c.refused with
        | some (cause, i0, i1) => .next (s.commitTrap core cause i0 i1)
        | none =>
          if rest.isEmpty then .next (modC s (fun x => { x with asks := [], asked := false, pos := { x.pos with phase := .commit2 } }))
          else .next (modC s (fun x => { x with asks := rest, asked := false }))
    | [] =>
      -- the run's local checks, with what the walks of this phase have brought
      match c.c.walk with
      | some w =>
        if !w.done then .next s
        else if s.now < c.c.until_ then .next s
        else s.finishLocal core c w.got
      | none => s.finishLocal core c []
  | _ => .next s

/-! Phase 2 (05 R100, R101). -/

/-- A register result of a held operation. -/
def State.heldWrite (s : State) (core : Nat) (d : Reg) (v : Word) : State := s.modCore core (fun c => c.setS d v)

/-- A store of phase 2 leaves for its line: it is performed after the time of an unloaded read of the line, and follows earlier
stores of the core to the line (12 R268, 10 R225). The slot that phase 1 reserved on a compressed page becomes the store's own. -/
def State.commitStore (s : State) (core ea : Nat) (bytes : List Byte) (got : List (Nat × Place)) : State :=
  match storePlace got ea with
  | none => s
  | some pl =>
    let c := s.core core
    let g : SegWrite := ⟨pl, ea, bytes.map some⟩
    let id := c.q.nextId
    let t := max (s.now + s.accessTime (tileOf core) pl) (lastWrite (c.cst ++ c.q.wr) [g])
    let s := match pl with
      | .packed a => s.modDie (dieOf (columnOf (homeOf a))) (fun d =>
          { d with resv := d.resv ++ [(storeKey core id, 1, b2n (s.idxOf (homeOf a) = 0))] })
      | _ => s
    (s.setCore core { c with cst := c.cst ++ [⟨id, id, t, [g], none, none⟩], q := { c.q with nextId := id + 1 } }).at_ t (.scalarWrite core id)

/-- The value of a mailbox read (14 R317). -/
def Core.mailValue (c : Core) (slot sc : Nat) : Word :=
  let l := c.mail.filter (fun m => m.slot == slot && m.due ≤ sc)
  let best := l.foldl (fun (b : Option Mail) m => match b with
    | some x => if x.due < m.due ∨ (x.due = m.due ∧ x.poster < m.poster) then some m else some x
    | none => some m) none
  (best.map (fun m => m.value)).getD 0

/-- One held effect. -/
def State.perform (core : Nat) (got : List (Nat × Place)) (s : State) (h : Held) : State :=
  let c := s.core core
  match h with
  | .st ea size v strong =>
    let s := s.commitStore core ea (leBytes size v) got
    if strong then s.modCore core Core.setEffect else s
  | .shst ea v => s.commitStore core ea (leBytes 64 v.toNat) got
  | .lds ea wd d =>
    match (got.find? (fun e => e.1 == ea * 4)).map (fun e => e.2) with
    | some pl => s.heldWrite core d (memExtend wd (leNat (overlayStores c.cst pl (s.readPlace pl (memSize wd)))))
    | none => s
  | .atomic op dw ea opnd cmp d =>
    let size := if dw then 8 else 4
    let off := minus ea accBase
    let old := maskObject off (s.accWord off size)
    let s := (s.setAccWord off size (maskObject off (atomicNew op size old opnd cmp))).modCore core Core.setEffect
    s.heldWrite core d (if dw then BitVec.ofNat 64 old else sextTo 32 (BitVec.ofNat 64 old))
  | .bind o base len => match bindNow c.binds o.toNat base.toNat len.toNat with
    | some b => s.setCore core { c with binds := b }
    | none => s
  | .unbind o => s.setCore core { c with binds := unbindNow c.binds o.toNat }
  | .acq o _ =>
    let off := syncOff o.toNat
    match (SyncWord.ofNat (s.accWord off 8)).acq core with
    | .done w =>
      (s.setAccWord off 8 w).modCore core (fun c => { c with sh := c.sh.map (fun sh => takeVersion o.toNat w sh) })
    | _ => s
  | .rel o sc =>
    let off := syncOff o.toNat
    let s := s.flushStores core
    let s := if sc = .core then s else s.modCore core Core.setEffect
    match (SyncWord.ofNat (s.accWord off 8)).rel core with
    | .done w => s.setAccWord off 8 w
    | _ => s
  | .fence sc => if sc = .core then s else (s.flushStores core).modCore core Core.setEffect
  | .disp toX entry desc args =>
    let e : Disp := ⟨entry, desc, args, s.now + 1⟩
    if toX then s.setCore core { c with xo := { c.xo with dq := c.xo.dq ++ [e] } }
    else s.setCore core { c with ao := { c.ao with dq := c.ao.dq ++ [e] } }
  | .post addr v lat =>
    let sc := s.sc core
    let owner := field addr.toNat 6 10
    let p : Post := ⟨c.nextPost, owner, ⟨addr.toNat % 64, sc + lat, core, v⟩, false, none⟩
    let c := c.setEffect
    let s := s.setCore core { c with posts := c.posts ++ [p], nextPost := c.nextPost + 1 }
    let s := if s.muted (tileOf core) (tileOf owner) then s.dropFlit (tileOf core) (tileOf owner)
      else s.after (6 + 2 * s.hops (tileOf core) (tileOf owner)) (.mailArrival core p.id)
    s.after (lat - 17) (.mailLate core p.id)
  | .mbrd addr d => s.heldWrite core d (c.mailValue (addr.toNat % 64) (s.sc core))
  | .lrpatch v r f =>
    let x := s.rcd r.toNat
    s.setRcd r.toNat { x with img := patchRec x.img f v.toNat }
  | .lrarm r => ((s.flushStores core).armNow r.toNat false (some core) none).modCore core Core.setEffect
  | .childq r => ((s.flushStores core).armNow r.toNat true (some core) none).modCore core Core.setEffect
  | .lease => s.leaseNow core
  | .unlease => s.unleaseNow core
  | .albinit n trapen =>
    let n := n.toNat
    let s := { s with accum := s.accum.clear (recOff n) 128, badAcc := mendWords s.badAcc (recOff n) 128 }
    s.setRec n 24 4 (2 ^ 31 + b2n trapen * 2 ^ 29 + (c.lr.getD 0) * 2 ^ 10 + core)
  | .albrd n i d => s.heldWrite core d (BitVec.ofNat 64 (s.recNum n.toNat (8 * i) 8))
  | .safept orbit live =>
    let old := c.c.safept.getD (false, 0)
    let c := ({ c.setSys 0x0B 0 with wd := Counter.from_ 0 s.now } : Core).wdRule s.now
    s.setCore core { c with c := { c.c with safept := some (old.1 || orbit, old.2 ||| live) } }
  | .seal true k => s.sealPut core k
  | .unalign old => if bitOf old.toNat 21 then s.breakSet core (tgtCores old.toNat) else s
  | _ => s

/-- The word at a key of accumulator SRAM waits for the merges of its record (13 R295). -/
def State.settles (s : State) (core before : Nat) : Bool :=
  (s.core core).c.held.any (fun h => match h with
    | .albinit n _ => s.mergesTo n.toNat before
    | .albsettle n => s.mergesTo n.toNat before
    | _ => false)

/-- COMMIT_PHASE_2: every held effect in program order, the shapes written, the reservations released; the run ends in this
cycle (05 R101). ALBINIT and ALBSETTLE first wait for the merges issued before this cycle. A word or command of stream A or X reads a shape
whose SHLD has committed at its new value, delivered or not: no rule makes it wait (notes/assumptions/59.md, DESIGN CHOICE, unsafe). -/
def execCommitPhase2 (s : State) : Res :=
  match s.ev with
  | .commitPhase2 core =>
    let c := s.core core
    if c.c.pos.phase ≠ .commit2 then .next s else
    let since := c.c.settle.getD s.now
    if s.settles core since then
      .next ((s.setCore core { c with c := { c.c with settle := some since } }).after 1 (.albedoSettleDone core))
    else
      let got := (c.c.walk.map (fun w => w.got)).getD []
      -- the shapes first, so that an ACQ of the run finds the SYNC that the run wrote (10 R232)
      let s := s.modCore core (fun c => { c with sh := laidShapes c.c.shapes c.sh })
      let s := (c.c.held.foldl (State.perform core got) s).lateMerges core
      let s := s.modCore core (fun c =>
        { c with c := { c.c with shapes := [], undo := [], walk := none, settle := none, pos := { c.c.pos with phase := .runEnd } } })
      let pops := s.modCore core (fun c =>
        { c with q := { c.q with bq := (c.q.bq.set 2 (c.q.bq[2].drop c.c.peek2)).set 3 (c.q.bq[3].drop c.c.peek3) } })
      .next { pops.dropRequests core with turn := some ⟨core, .c⟩ }
  | _ => .next s

/-- ALBEDO_SETTLE_DONE: the merges that a run waits for have been applied; until then it looks again in the next cycle. -/
def execAlbedoSettleDone (s : State) : Res :=
  match s.ev with
  | .albedoSettleDone core =>
    match (s.core core).c.settle with
    | none => .next s
    | some t => if s.settles core t then .next (s.after 1 s.ev) else .next (s.modCore core (fun c => { c with c := { c.c with settle := some t } }))
  | _ => .next s

end Sys2Proof.Machine
end

