-- ==== Sys2Proof/Machine/Frame.lean ====
section
/-! DEFINITION. What a trap frame and a context save hold, the frame registers, and the save area's image (05 R114; 16 R342, R350,
R355, R357). -/

namespace Sys2Proof.Machine

def Core.saved (c : Core) : Saved := ⟨c.s, c.a, c.c, c.ao, c.xo, c.xr, c.q⟩
/-- The stream state of a frame; the seal, PREFDIST and the stream TLBs are the core's own (16 R342). -/
def Core.resumeFrom (c : Core) (f : Saved) : Core :=
  { c with s := f.s, a := f.a, c := f.c, ao := f.ao, xo := f.xo, xr := { f.xr with sealAcc := c.xr.sealAcc },
           q := { f.q with tlb := c.q.tlb, pref := c.q.pref, nextId := c.q.nextId } }
/-- The streams of a handler: registers 0, queues empty, A and X idle (16 R342). -/
def Core.emptyStreams (c : Core) : Core :=
  { c with s := Vector.replicate 32 0, a := Vector.replicate 32 0, aReady := [], c := CStream.idle, ao := Outer.idle, xo := Outer.idle,
           ecc := [], xr := { XRegs.zero with sealAcc := c.xr.sealAcc },
           q := { Queues.empty with tlb := c.q.tlb, pref := c.q.pref, nextId := c.q.nextId } }

/-! The frame registers as numbers (05 R96, R106, R114). -/

def seqctl (o : Outer) (rrb : Nat) : Nat :=
  o.pos.run % 2 ^ 16 * 2 ^ 24 + rrb % 16 * 2 ^ 20 + o.dq.length % 16 * 2 ^ 8 + b2n o.active * 2 ^ 7 + o.nlev % 8 * 2 ^ 4 + o.drain % 4 * 2 ^ 2
def setSeqctl (o : Outer) (v : Nat) (x : Bool) : Outer :=
  { o with pos := { o.pos with run := field v 24 16 }, rrb := if x then field v 20 4 else o.rrb, nlev := field v 4 3, drain := field v 2 2 }
def lcnt (o : Outer) (l : Nat) : Nat := o.idx.getD l 0 % 2 ^ 32 * 2 ^ 32 + o.cnt.getD l 0 % 2 ^ 32
def setLcnt (o : Outer) (l v : Nat) : Outer :=
  { o with idx := o.idx.setIfInBounds l (field v 32 32), cnt := o.cnt.setIfInBounds l (field v 0 32) }
def lstr (o : Outer) (i : Nat) : Nat := o.str.getD (2 * i + 1) 0 % 2 ^ 32 * 2 ^ 32 + o.str.getD (2 * i) 0 % 2 ^ 32
def setLstr (o : Outer) (i v : Nat) : Outer :=
  { o with str := (o.str.setIfInBounds (2 * i) (field v 0 32)).setIfInBounds (2 * i + 1) (field v 32 32) }

/-- Where a stream stands: the address of its next instruction, its prefix included. -/
def Pos.next (p : Pos) : Nat := if p.pfx.isSome then p.pfxAt else p.pc

/-- The frame registers: those whose SWR column is "Frame". -/
def isFrameReg (i : Nat) : Bool :=
  (0x10 ≤ i && i ≤ 0x16) || (0x18 ≤ i && i ≤ 0x1D) || (0x20 ≤ i && i ≤ 0x25) || (0x30 ≤ i && i ≤ 0x3B) || (0x40 ≤ i && i ≤ 0x4B)
def frameRegs : List Nat := (List.range 0x50).filter isFrameReg
def Saved.reg (f : Saved) (i : Nat) : Nat :=
  if i = 0x10 then (if f.c.pos.phase = .idle then 0 else f.c.pos.blk) else if i = 0x11 then f.c.pos.run % 2 ^ 16
  else if i = 0x12 then f.c.stack.length
  else if i = 0x13 then f.ao.pos.next else if i = 0x14 then f.xo.pos.next
  else if i = 0x15 then seqctl f.ao 0 else if i = 0x16 then seqctl f.xo f.xo.rrb
  else if i < 0x20 then lcnt f.ao (i - 0x18) else if i < 0x30 then lcnt f.xo (i - 0x20)
  else if i < 0x40 then lstr f.ao (i - 0x30) else lstr f.xo (i - 0x40)
/-- Write a frame register. Another CPC leads to the header at that address; another APC or XPC to that address. -/
def Saved.setReg (f : Saved) (i v : Nat) : Saved :=
  if f.reg i = v then f
  else if i = 0x10 then { f with c := { f.c with pos := { f.c.pos.enter v with run := f.c.pos.run } } }
  else if i = 0x11 then { f with c := { f.c with pos := { f.c.pos with run := v % 2 ^ 16 } } }
  else if i = 0x12 then { f with c := { f.c with stack := (f.c.stack ++ List.replicate (v % 32 - f.c.stack.length) 0).take (min 16 (v % 32)) } }
  else if i = 0x13 then { f with ao := { f.ao with pos := { f.ao.pos with pc := v, pfx := none } } }
  else if i = 0x14 then { f with xo := { f.xo with pos := { f.xo.pos with pc := v, pfx := none } } }
  else if i = 0x15 then { f with ao := setSeqctl f.ao v false } else if i = 0x16 then { f with xo := setSeqctl f.xo v true }
  else if i < 0x20 then { f with ao := setLcnt f.ao (i - 0x18) v } else if i < 0x30 then { f with xo := setLcnt f.xo (i - 0x20) v }
  else if i < 0x40 then { f with ao := setLstr f.ao (i - 0x30) v } else { f with xo := setLstr f.xo (i - 0x40) v }

/-! The words left in a block from an address (03 R46, 05 R103). -/

/-- The address of each word of a block, from its first, with the words left there. -/
def wordStarts (c : Core) (st : Stream) : Nat → Nat → Nat → List (Nat × Nat)
  | 0, _, _ => []
  | n + 1, lit, pc =>
    let h := (Map.get 0 (c.imem st) pc).toNat
    if 0 < lit then wordStarts c st n (lit - 1) (pc + 2)
    else if h < 2 ^ 15 then (pc, n + 1) :: wordStarts c st n 0 (pc + 1)
    else if st = .x && field h 9 6 = 0x3C then (pc, n + 1) :: wordStarts c st n 2 (pc + 2)
    else (pc, n + 1) :: wordStarts c st n 0 (pc + 2)
/-- A stream that resumes inside a block: the words left from its address; an address that is no word of the block is entered as
a header. -/
def Core.replace (c : Core) (st : Stream) : Core :=
  let p := c.pos st
  if p.phase ≠ .words then c
  else match (wordStarts c st p.len 0 (p.blk + 2)).find? (fun e => e.1 == p.pc) with
    | some (_, left) => c.setPos st { p with left := left }
    | none => c.setPos st (p.enter p.pc)

/-! The save area in memory (16 R355). -/

def predsByte (p : Vector Bool 8) : Nat := (List.range 8).foldl (fun r i => r + b2n (i == 0 || p.getD i false) * 2 ^ i) 0
def words8 (l : List Word) : List Byte := l.flatMap (fun w => leBytes 8 w.toNat)
def maskBytes (e : Mask) : List Byte := leBytes 32 e.toNat
def vecBytes (v : Vec) : List Byte := leBytes 256 v.toNat
def enAll : Mask := BitVec.ofNat 256 (2 ^ 256 - 1)
/-- The entries of q0 to q7, the oldest first. -/
def Queues.entries (q : Queues) (k : Nat) : List (Vec × Mask) :=
  if k < 6 then (q.ld.getD k []).map (fun e => (e.data, enAll)) else (q.st.getD (k - 6) []).map (fun e => (e.data, e.en))

/-- The regions a trap frame writes: offset and bytes. -/
def Saved.image (f : Saved) : List (Nat × List Byte) :=
  frameRegs.map (fun i => (8 * i, leBytes 8 (f.reg i)))
  ++ [(0x400, words8 f.s.toList), (0x500, words8 f.a.toList), (0x600, words8 f.xr.x.toList),
      (0x680, leBytes 8 (predsByte f.c.p + 256 * predsByte f.ao.p + 65536 * predsByte f.xo.p)),
      (0x688, (f.c.stack ++ List.replicate (16 - f.c.stack.length) 0).flatMap (leBytes 8)),
      (0x800, f.xr.m.toList.flatMap maskBytes)]
  ++ (List.range 4).map (fun k => let l := f.q.bq.getD k []
      (0x1300 + 64 * k, (BitVec.ofNat 8 l.length :: l.map (fun e => e.1))))
  ++ [(0x1A00, (List.range 8).map (fun k => BitVec.ofNat 8 (f.q.entries k).length)),
      (0x2000, (f.xr.v.toList.take 16).flatMap vecBytes), (0x3000, (f.xr.v.toList.drop 16).flatMap vecBytes),
      (0x4000, f.xr.l.toList.flatMap vecBytes)]
  ++ (List.range 8).map (fun k => (0x5000 + 0x1200 * k, (f.q.entries k).flatMap (fun e => vecBytes e.1 ++ maskBytes e.2)))

/-- The place of a byte of a core's save area; none where SAVEVA's page is not mapped. -/
def State.savePlace (s : State) (core off : Nat) (acc : Access) : Option Place :=
  let r := s.translate (tileOf core) true [] (((s.core core).sysReg 5).toNat + off) acc false
  match r.res with
  | .ok p => if (s.kindRefusal p).isSome then none else some p
  | .error _ => none

def Place.add (p : Place) (n : Nat) : Place :=
  match p with | .scratch o => .scratch (o + n) | .acc o => .acc (o + n) | .dram d => .dram (d + n) | .packed a => .packed (a + n) | .remote k d => .remote k (d + n)

/-- Write bytes at an offset of the save area, line by line. The error is the state in which a line waits for an overflow slot or an index
block: the lines before it are written (12 R280). -/
def State.saveWrite (s : State) (core : Nat) : Nat → Nat → List Byte → Except State State
  | 0, _, _ => .ok s
  | fuel + 1, off, bytes =>
    if bytes.isEmpty then .ok s else
    let n := 128 - off % 128
    let r : Except State State := match s.savePlace core off .write with
      | none => .ok s
      | some pl => match s.writePlace pl ((bytes.take n).map some) (some (((s.core core).sysReg 5).toNat + off)) none none (.save core) with
        | .done s => .ok s
        | .wait s => .error s
        | .refuse _ => .ok s
    r.bind (fun s => s.saveWrite core fuel (off + n) (bytes.drop n))
def State.saveImage (s : State) (core : Nat) (img : List (Nat × List Byte)) : Except State State :=
  img.foldlM (fun (s : State) e => s.saveWrite core 512 e.1 e.2) s

/-- The regions whose layout is private: offset and bytes; the first is part of a trap frame. -/
def privateFrame : List (Nat × Nat) := [(0x1400, 1024)]
def privateSave : List (Nat × Nat) := [(0x1400, 1024), (0xE000, 8192), (0x1_0000, 4096)]
/-- They are written with bytes of which nothing is known (notes/assumptions/4.md); what they stand for is in the state itself. -/
def State.savePrivate (s : State) (core : Nat) (rs : List (Nat × Nat)) : Except State State :=
  rs.foldlM (fun (s : State) r =>
    (s.saveWrite core 512 r.1 ((List.range r.2).map (fun k => Config.freeByte (s.freeCount + k)))).map (fun t =>
      { t with freeCount := s.freeCount + r.2 })) s

/-- An uncorrectable error in regions of the save area, offset and length, that are read back (12 R274, 18 R375). -/
def State.saveEcc (s : State) (core : Nat) (rs : List (Nat × Nat)) : Option Cause :=
  rs.findSome? (fun r => (List.range ((r.1 % 128 + r.2 + 127) / 128)).findSome? (fun k =>
    let off := max r.1 (r.1 / 128 * 128 + 128 * k)
    (s.savePlace core off .read).bind (fun pl => s.placeEcc pl (min (r.1 + r.2) (off / 128 * 128 + 128) - off))))
/-- The regions of an image. -/
def regionsOf (img : List (Nat × List Byte)) : List (Nat × Nat) := img.map (fun e => (e.1, e.2.length))

/-- Bytes of the save area, within a line of it at a time; the core's own stores to it count as written. -/
def State.saveRead (s : State) (core : Nat) : Nat → Nat → Nat → Option (List Byte)
  | 0, _, _ => some []
  | fuel + 1, off, n =>
    if n = 0 then some [] else
    let k := min n (128 - off % 128)
    match s.savePlace core off .read with
    | none => none
    | some pl => (s.saveRead core fuel (off + k) (n - k)).map (fun t => overlayStores (s.core core).cst pl (s.readPlace pl k) ++ t)
def State.saveNum (s : State) (core off n : Nat) : Option Nat := (s.saveRead core 512 off n).map leNat
/-- n numbers of w bytes from an offset, and where the area cannot be read the values that stand. -/
def State.saveVec {n : Nat} {α : Type} (s : State) (core off w : Nat) (f : Nat → α) (old : Vector α n) : Vector α n :=
  match s.saveRead core 512 off (w * n) with
  | none => old
  | some bs => Vector.ofFn (fun i => f (leNat ((bs.drop (w * i.val)).take w)))

/-- A frame as the software that could reach the save area has left it (16 R347): every public region is read back. -/
def State.readFrame (s : State) (core : Nat) (f : Saved) : Saved :=
  let f := frameRegs.foldl (fun f i => match s.saveNum core (8 * i) 8 with | some v => f.setReg i v | none => f) f
  let ps := (s.saveNum core 0x680 8).getD (predsByte f.c.p + 256 * predsByte f.ao.p + 65536 * predsByte f.xo.p)
  let pv (k : Nat) : Vector Bool 8 := Vector.ofFn (fun i => i.val == 0 || bitOf ps (8 * k + i.val))
  let stack := (s.saveVec core 0x688 8 id (Vector.ofFn (fun i : Fin 16 => f.c.stack.getD i.val 0))).toList.take f.c.stack.length
  let bq : Vector (List (Byte × Nat)) 4 := Vector.ofFn (fun k =>
    match s.saveRead core 4 (0x1300 + 64 * k.val) 64 with
    | none => f.q.bq[k]
    | some bs => ((bs.drop 1).take (min 32 (bs.headD 0).toNat)).zipIdx.map (fun (b, i) => (b, ((f.q.bq[k])[i]?.map (fun e => e.2)).getD s.now)))
  let counts := (s.saveRead core 1 0x1A00 8).getD ((List.range 8).map (fun k => BitVec.ofNat 8 (f.q.entries k).length))
  let entries (k : Nat) : Option (List (Vec × Mask)) :=
    let n := min 16 (counts.getD k 0).toNat
    (s.saveRead core 512 (0x5000 + 0x1200 * k) (288 * n)).map (fun bs => (List.range n).map (fun i =>
      (BitVec.ofNat 2048 (leNat ((bs.drop (288 * i)).take 256)), BitVec.ofNat 256 (leNat ((bs.drop (288 * i + 256)).take 32)))))
  let ld : Vector (List LoadEntry) 6 := Vector.ofFn (fun k => match entries k.val with
    | none => f.q.ld[k]
    | some es => es.zipIdx.map (fun (e, i) => ((f.q.ld[k])[i]?.map (fun o => { o with data := e.1 })).getD ⟨0, e.1, some s.now⟩))
  let st : Vector (List StoreEntry) 2 := Vector.ofFn (fun k => match entries (6 + k.val) with
    | none => f.q.st[k]
    | some es => es.zipIdx.map (fun (e, i) => ((f.q.st[k])[i]?.map (fun o => { o with data := e.1, en := e.2 })).getD ⟨0, e.1, e.2, some s.now⟩))
  { f with
    s := s.saveVec core 0x400 8 (BitVec.ofNat 64) f.s, a := s.saveVec core 0x500 8 (BitVec.ofNat 64) f.a,
    c := { f.c with p := pv 0, stack := stack }, ao := { f.ao with p := pv 1 }, xo := { f.xo with p := pv 2 },
    xr := { f.xr with x := s.saveVec core 0x600 8 (BitVec.ofNat 64) f.xr.x, m := s.saveVec core 0x800 32 (BitVec.ofNat 256) f.xr.m,
                      v := s.saveVec core 0x2000 256 (BitVec.ofNat 2048) f.xr.v, l := s.saveVec core 0x4000 256 (BitVec.ofNat 2048) f.xr.l },
    q := { f.q with bq := bq, ld := ld, st := st } }

/-! SRD and SWR of a frame register (16 R350). -/

/-- Bytes of a line of the save area that wait for an overflow slot: a store on its way (12 R280). -/
def State.lateSave (s : State) (core off : Nat) (bytes : List Byte) : State :=
  match s.savePlace core off .write with
  | none => s
  | some pl =>
    let c := s.core core
    let id := c.q.nextId
    let q : QStore := ⟨id, id, s.now, [⟨pl, (c.sysReg 5).toNat + off, bytes.map some⟩], none, none⟩
    ((s.leaveLines (fun w => w == .save core)).setCore core { c with cst := c.cst ++ [q], q := { c.q with nextId := id + 1 } }).after 1
      (.scalarWrite core id)

/-- In a handler the trapped context's image, otherwise the running stream's own. -/
def State.frameRead (s : State) (core i : Nat) : Nat :=
  let c := s.core core
  match c.inHandler, c.frame with
  | true, some f => match s.saveNum core (8 * i) 8 with
    | some v => (f.setReg i v).reg i
    | none => f.reg i
  | _, _ => c.saved.reg i
def State.frameWrite (s : State) (core i v : Nat) : State :=
  let c := s.core core
  match c.inHandler, c.frame with
  | true, some f =>
    let bytes := leBytes 8 ((f.setReg i v).reg i)
    match (s.setCore core { c with frame := some (f.setReg i v) }).saveWrite core 2 (8 * i) bytes with
    | .ok s => s
    | .error s => s.lateSave core (8 * i) bytes
  | _, _ => s.setCore core (c.resumeFrom (c.saved.setReg i v))

end Sys2Proof.Machine
end

