-- ==== Sys2Proof/Machine/Trap.lean ====
section
/-! DEFINITION. Taking a trap and returning from one: delivery, the trap registers and record, the frame, the handler, the die
management core (05 R102, R103; 12 R269; 16 R341 to R344, R347; 14 R311). -/

namespace Sys2Proof.Machine

/-! Rollback (05 R102). -/

/-- Give a system register its value; index 0x59 is the seal accumulator (15 R325). -/
def Core.putSys (c : Core) (i : Nat) (v : Word) : Core := if i = 0x59 then { c with xr := { c.xr with sealAcc := v } } else c.setSys i v
/-- The values before the run's first write of each register: the list has the newest write first. -/
def undoSys (c : Core) (l : List (Nat × Word)) : Core := l.foldl (fun c e => c.putSys e.1 e.2) c

/-- A C run that has not passed phase 1 leaves nothing behind; the stream stands at the block's header with the same run number. -/
def State.rollBack (s : State) (core : Nat) : State :=
  match (s.core core).c.pos.phase with
  | .words | .commit1 =>
    let s := (s.dropRequests core).cancel (fun e => e == .waitscDone core)
    s.modCore core (fun c =>
      let c := undoSys c c.c.undo
      let p := c.c.pos
      { c with s := c.c.s0, ecc := c.ecc.filter (fun r => !r.isS) ++ c.c.e0, c := { c.c with
          p := c.c.p0, held := [], undo := [], shapes := [], peek2 := 0, peek3 := 0, ready := [], until_ := 0, asks := [], asked := false,
          refused := none, settle := none, walk := none, ovl := none,
          pos := { p with phase := .header, pc := p.blk, left := 0, exit := none, pfx := none } } })
  | _ => s

/-! The trap registers and the trap record (16 R341, R355, R357). -/

/-- The 64-byte record in plane 62 of the core's tile. -/
def State.trapRecord (s : State) (core : Nat) : State :=
  let c := s.core core
  let off := tileOf core * 0x40_0000 + 62 * 0x1_0000 + 4096 * (core % 4)
  let vals : List Nat := [(c.sysReg 0).toNat, (c.sysReg 1).toNat, (c.sysReg 2).toNat, (c.sysReg 3).toNat, (c.sysReg 4).toNat,
    (c.sysReg 5).toNat, core, s.sc core]
  { s with accum := s.accum.setBytes off (vals.flatMap (leBytes 8)) }

/-! Entry (16 R342). -/

/-- Step 1 of a trap's entry: the A and X streams stop, the waiting A word is squashed, a C run before phase 2 is rolled back,
the stall wire is raised, the trap registers are written. The frame follows when everything issued has completed. -/
def State.takeTrap (s : State) (core : Nat) (t : TrapReq) : State :=
  let s := ((s.raise core).endWait core).rollBack core
  let s := s.cancel (fun e => e == .overlayLoadDone core || e == .taskBoundary core || e == .contextEnd core)
  -- an engine's trap stands at the A word that is squashed
  let t := if t.src = 1 ∨ t.src = 2 then { t with pc := (s.core core).ao.pos.next } else t
  let squash (p : Pos) : Pos :=
    { p with pc := p.next, left := if p.pfx.isSome then p.left + 1 else p.left, pfx := none }
  s.modCore core (fun c =>
    let c := c.setTrapRegs t
    let c := { c with mode := .trapped, load := none, ao := { c.ao with pos := squash c.ao.pos }, xo := { c.xo with pos := squash c.xo.pos },
                      xr := { c.xr with sbWait := false }, q := { c.q with walk := none } }
    c)

/-- Everything that the streams issued has completed (05 R103). -/
def Core.quiet (c : Core) : Bool :=
  c.xr.flights.isEmpty && c.q.wr.isEmpty && c.q.ld.toList.all (fun l => l.all (fun e => e.ready.isSome))
    && c.c.pos.phase != .commit2 && c.c.pos.phase != .runEnd

/-- Causes that always go to the die management core. -/
def Cause.toDmc (c : Cause) : Bool := c == .preempt || c == .hostKill || c == .watchdog || c == .doubleTrap

/-- The die management core takes the trap (16 R342). -/
def State.dmcTakes (s : State) (core : Nat) (cause : Cause) : State :=
  let s := s.modCore core (fun c => { c with mode := .held })
  s.modDie (dieOf (tileOf core)) (fun d => { d with notices := d.notices ++ [.trap core cause] })

/-- A trap in the handler: cause DOUBLE_TRAP, the handler's own cause in TRAPINFO1, 0 in TRAPINFO0; the frame stays (16 R341, R342). -/
def State.doubleTrap (s : State) (core : Nat) (t : TrapReq) : State :=
  let s := (s.rollBack core).cancel (fun e => e == .overlayLoadDone core || e == .taskBoundary core || e == .contextEnd core)
  let s := s.modCore core (fun c => { c.setTrapRegs { t with cause := .doubleTrap, info0 := 0, info1 := t.cause.code } with load := none })
  (s.trapRecord core).dmcTakes core .doubleTrap

/-- Start to load an overlay whose pages are checked at once; a failed check is a double trap (16 R342, R347). -/
def State.startLoad (s : State) (core va : Nat) (sup : Bool) : State :=
  match s.ovlCheck core sup [] ⟨[], [], 0, false⟩ va with
  | .error ((cause, i0, i1), _) => s.doubleTrap core ⟨0, 0, 0, cause, (s.core core).c.pos.blk, i0, i1⟩
  | .ok (o, p) =>
    let s := s.modCore core (fun c => { c with mode := .loading, load := some o, ctlb := p.fill.foldl tlbFill c.ctlb })
    s.after (p.time + o.time) (.overlayLoadDone core)

/-- HOVL of the context's record. -/
def State.hovl (s : State) (core : Nat) : Nat := match (s.core core).lr with | some r => recHovl (s.rcd r).img | none => 0

/-- Steps 2 to 4: the frame, once its lines have their slots (12 R280), the trap record, and the handler or the die management core. -/
def State.enterHandler (s : State) (core : Nat) : State :=
  let c := s.core core
  let w := (c.sysReg 2).toNat
  let cause := (Cause.ofCode ((c.sysReg 0).toNat % 128)).getD .doubleTrap
  -- a trap that no word of the context raised stands where the C stream resumes (14 R306)
  let c := if field w 2 2 = 3 || cause.toDmc then c.setSys 1 (BitVec.ofNat 64 c.c.pos.blk) else c
  let f := c.saved
  match (s.saveImage core f.image).bind (fun s => s.savePrivate core privateFrame) with
  | .error s => s.after 1 (.trapDelivery core)
  | .ok s =>
    let s := (s.setCore core { c with frame := some f }).trapRecord core
    let h := s.hovl core
    if h ≠ 0 && !cause.toDmc then s.startLoad core h true else s.dmcTakes core cause

/-- The handler's C stream enters halfword 0 at SUPERVISOR, unless what was loaded holds an uncorrectable error (18 R375). -/
def State.startHandler (s : State) (core : Nat) (o : Overlay) : State :=
  if s.ovlEcc o then s.doubleTrap core ⟨0, 0, 0, .eccDram, (s.core core).c.pos.blk, 0, 0⟩ else
  let s := s.modCore core (fun c =>
    let c := (c.emptyStreams).setSys 7 ((c.sysReg 7) ||| 3)
    { c with mode := .running, load := none })
  let s := s.loadCode core o
  s.modCore core (fun c => { c with c := { c.c with pos := c.c.pos.enter 0 } })

/-! Delivery (16 R342, R343). -/

/-- The order among traps of one cycle. -/
def TrapReq.rank (t : TrapReq) : Nat := if t.src = 1 then 3 else if t.src = 2 then 4 + t.ch else t.stream
/-- The trap of lowest rank, the first of equals. -/
def firstTrap : List TrapReq → Option TrapReq
  | [] => none
  | t :: ts => match firstTrap ts with
    | some u => if u.rank < t.rank then some u else some t
    | none => some t

/-- The command that raised an engine trap was issued by the handler (16 R343). -/
def State.fromHandler (s : State) (core : Nat) (t : TrapReq) : Bool :=
  let tile := tileOf core
  if t.src = 1 then (s.mx tile).cmds.any (fun m => m.core == core && m.st == .stopped && m.sup)
  else if t.src = 2 then (s.cp tile).cmds.any (fun m => m.core == core && m.st == .stopped && m.sup && m.tag.val % 4 == t.ch)
  else false

/-- A command whose context has gone stops for good: its trap is the die management core's (09 R209). -/
def State.abandonEngine (s : State) (core : Nat) (t : TrapReq) : State :=
  let s := s.modDie (dieOf (tileOf core)) (fun d => { d with notices := d.notices ++ [.trap core t.cause] })
  if t.src = 1 then (s.modCore core (fun c => c.setSys 0x67 (c.sysReg 0x67 ||| 2 ^ 62))).mxRestart core
  else if t.src = 2 then (s.modCore core (fun c => c.setSys 0x68 (c.sysReg 0x68 ||| 2 ^ 62))).copyRestart core
  else s

/-- TRAP_DELIVERY: one of the traps of a cycle is taken; engine traps beside it, or while the context waits or its handler runs,
stay pending; then, once everything issued has completed, the frame is written. -/
def execTrapDelivery (s : State) : Res :=
  match s.ev with
  | .trapDelivery core =>
    let c := s.core core
    match firstTrap c.traps with
    | none =>
      if c.mode = .trapped then (if c.quiet then .next (s.enterHandler core) else .next (s.after 1 s.ev)) else .next s
    | some t =>
      let others := (c.traps.erase t).filter (fun u => u.src ≠ 0)
      let waits := c.mode == .trapped || c.mode == .saving || c.mode == .restored || c.mode == .held || (c.frame.isSome && !c.inHandler)
      if t.cause = .watchdog ∨ t.cause = .hostKill then
        -- the die management core takes it, whatever the context is doing
        let s := s.setCore core { c with traps := [], pend := c.pend ++ others }
        if c.inHandler || waits then .next (((s.modCore core (fun c => c.setTrapRegs t)).trapRecord core).dmcTakes core t.cause)
        else .next ((s.takeTrap core t).late (.trapDelivery core))
      else if waits then
        .next (s.setCore core { c with traps := [], pend := c.pend ++ c.traps.filter (fun u => u.src ≠ 0) })
      else if c.inHandler then
        let bad := firstTrap (c.traps.filter (fun u => u.src = 0 || s.fromHandler core u))
        let s := s.setCore core { c with traps := [], pend := c.pend ++ c.traps.filter (fun u => u.src ≠ 0 && !s.fromHandler core u) }
        match bad with
        | some u => .next (s.doubleTrap core u)
        | none => .next s
      else match c.mode with
        | .running | .loading =>
          let s := (s.setCore core { c with traps := [], pend := c.pend ++ others }).takeTrap core t
          .next (if (s.core core).quiet then s.enterHandler core else s.after 1 s.ev)
        | _ => .next (c.traps.foldl (fun s u => s.abandonEngine core u) (s.setCore core { c with traps := [] }))
  | _ => .next s

/-! The return (16 R347). -/

/-- The core with a frame restored: the privilege returns to TASK, every stream stands at its saved place. -/
def Core.restoreFrame (c : Core) (f : Saved) : Core :=
  let c := (c.resumeFrom f).setSys 7 (BitVec.ofNat 64 ((c.sysReg 7).toNat / 4 * 4))
  let c := { c with mode := .running, load := none, frame := none }
  let p := c.c.pos
  let c := if p.phase = .words then { c with c := { c.c with pos := { p with phase := .header, pc := p.blk, left := 0 } } } else c
  (c.replace .a).replace .x

/-- Stopped engine commands go on, unless their trap is still to be delivered; it then is, before the next A word (16 R343). -/
def State.resumeEngines (s : State) (core : Nat) : State :=
  let pend := (s.core core).pend
  let s := if pend.any (fun t => t.src = 1) then s else s.mxRestart core
  let s := if pend.any (fun t => t.src = 2) then s else s.copyRestart core
  let s := s.modCore core (fun c => { c with traps := c.traps ++ pend, pend := [] })
  if pend.isEmpty then s else s.at_ s.now (.trapDelivery core)

/-- After the task overlay has been loaded: the frame is restored as the handler left it, the raise of the trap ends, every stream
resumes in this cycle. An uncorrectable error in the overlay or in the frame is a trap of the handler (12 R274; 16 R342; 18 R375). -/
def State.returnFromTrap (s : State) (core : Nat) (o : Overlay) : State :=
  match (s.core core).frame with
  | none => s
  | some f =>
    match (if s.ovlEcc o then some .eccDram else none) <|> s.saveEcc core (regionsOf f.image) with
    | some cause => s.doubleTrap core ⟨0, 0, 0, cause, (s.core core).c.pos.blk, 0, 0⟩
    | none =>
    let s := s.loadCode core o
    let f := s.readFrame core f
    (((s.modCore core (fun c => c.restoreFrame f)).lower core).resumeEngines core).takeBefore core

end Sys2Proof.Machine
end

