-- ==== Sys2Proof/Machine/SysRegs.lean ====
section
/-! DEFINITION. System register access and the system words of the C stream (07 R153; 15 R325, R326; 16 R344 to R351, R357). -/

namespace Sys2Proof.Machine

/-! The system register table (16 R357). -/

/-- The SWR column: 0 TASK, 1 SUPV, 2 Frame, 3 PRIV. -/
def swrColumn (i : Nat) : Nat :=
  if (0x50 ≤ i && i ≤ 0x58) || i == 0x5A then 0
  else if i == 0x59 || i == 0x63 || i == 0x64 || i == 0x67 || i == 0x68 then 1
  else if isFrameReg i then 2 else 3

/-- What SRD reads. -/
def State.sysValue (s : State) (core i : Nat) : Nat :=
  let c := s.core core
  if isFrameReg i then s.frameRead core i
  else if i = 0x08 then core
  else if i = 0x0A then s.sc core
  else if i = 0x0C then s.wdcnt core
  else if i = 0x59 then c.xr.sealAcc.toNat
  else if i = 0x5A ∨ i = 0x5B ∨ i = 0x5C then 0
  else if i = 0x65 then s.leaseStat core
  else if i = 0x66 then c.batch.stat
  else if i = 0x69 then (s.tile (tileOf core)).pgroot.toNat
  else if 0x70 ≤ i ∧ i ≤ 0x7D then c.q.pref.getD (i - 0x70) 0
  else (c.sysReg i).toNat

/-- The limit that a register's own rule sets on a value. -/
def swrBad (i v : Nat) : Bool :=
  if i = 0x54 then 2 ^ 16 ≤ v
  else if i = 0x55 then 2 ^ 5 ≤ v
  else if i = 0x56 then 2 ^ 45 ≤ v
  else if i = 0x57 then 4 ≤ v
  else if i = 0x58 then v % 2 ^ 16 != 0
  else if i = 0x5A then 2 ^ 17 ≤ v || field v 11 5 != 0
  else if i = 0x64 then v == 0 || 64 < v
  else false

/-- The value a register takes: reserved fields keep 0, read-only fields keep theirs. -/
def swrKeep (i old v : Nat) : Nat :=
  if i = 0x50 then v % 2
  else if i = 0x54 then field v 0 4 + field v 7 5 * 2 ^ 7 + field v 15 1 * 2 ^ 15
  else if i = 0x56 then field v 0 8 + field v 16 29 * 2 ^ 16
  else if i = 0x63 then v % 2 ^ 21
  else if i = 0x67 ∨ i = 0x68 then setBit old 62 (bitOf v 62)
  else v

/-! SRD (16 R350). -/

/-- SRD of SEAL waits until the X stream is idle (15 R326). -/
def execSealRead (g : Guard) (d : Reg) (s : State) : Res :=
  cWord s g [] (fun c => if !s.xIdle s.who.core then .next s else .next (s.cWrite d c.xr.sealAcc 1).retire)

/-- SRD of BQ2POP or BQ3POP reads the oldest entry that the run has not read; the pop is held (07 R153). -/
def execBqPopRead (g : Guard) (d : Reg) (bq3 : Bool) (s : State) : Res :=
  cWord s g [] (fun c =>
    let (l, k) := if bq3 then (c.q.bq[3], c.c.peek3) else (c.q.bq[2], c.c.peek2)
    match l[k]? with
    | some (v, t) =>
      if s.now < t || l.length ≤ k + c.bqOpen (if bq3 then 3 else 2) then .next s
      else
        let s := s.cWrite d (v.setWidth 64) 1
        let c := s.me
        let cs := if bq3 then { c.c with peek3 := k + 1 } else { c.c with peek2 := k + 1 }
        .next (s.setMe { c with c := cs }).retire
    | none => .next s)

def execSrd (g : Guard) (d : Reg) (idx : Fin 1024) (s : State) : Res :=
  if idx = 0x59 then execSealRead g d s
  else if idx = 0x5B then execBqPopRead g d false s
  else if idx = 0x5C then execBqPopRead g d true s
  else cWord s g [] (fun _ => .next (s.cWrite d (BitVec.ofNat 64 (s.sysValue s.who.core idx.val)) 1).retire)

/-! SWR (16 R350). -/

/-- SWR of SEALOP: the limits, then the operation is held (15 R325, R326). -/
def cSealop (s : State) (g : Guard) (a : Reg) : Res :=
  cWord s g [a] (fun c =>
    let v := (c.getS a).toNat
    if swrBad 0x5A v then s.trap .reservedField
    else .next (s.hold (.seal (!bitOf v 16) (field v 0 11))).retire)
def execSealopPut (g : Guard) (a : Reg) (s : State) : Res := cSealop s g a
def execSealopCheck (g : Guard) (a : Reg) (s : State) : Res := cSealop s g a

/-- A write at issue that a rollback undoes. -/
def State.swriteNow (s : State) (i : Nat) (v : Word) : State :=
  let c := s.me
  let old : Word := if i = 0x59 then c.xr.sealAcc else c.sysReg i
  s.setMe ({ c with c := { c.c with undo := (i, old) :: c.c.undo } }.putSys i v)

/-- SWR: the privilege its column asks for, the value's limits, then the write at issue, or a held write of a frame register. A
write of ORBITSET clears ALIGNED; the break of the orbit leaves the core with the run's commit. -/
def execSwr (g : Guard) (a : Reg) (idx : Fin 1024) (s : State) : Res :=
  let i := idx.val
  let col := swrColumn i
  if col = 3 ∨ (col ≠ 0 ∧ !s.me.sup) then s.encTrap .privilege
  else if i = 0x5A then cSealop s g a
  else cWord s g [a] (fun c =>
    let v := c.getS a
    if i = 0x50 ∧ c.aligned then s.trap .orbitUnaligned
    else if swrBad i v.toNat then s.trap .reservedField
    else if col = 2 then .next (s.hold (.swrFrame i v)).retire
    else
      let old := c.sysReg i
      let s := s.swriteNow i (BitVec.ofNat 64 (swrKeep i old.toNat v.toNat))
      .next (if i = 0x63 then s.hold (.unalign old) else s).retire)

/-! C major 0x3C (16 R345 to R349, R351). -/

/-- TRAP is held; a second one of the run that takes effect traps. -/
def execTrap (g : Guard) (code : BitVec 8) (s : State) : Res :=
  cWord s g [] (fun c =>
    if c.c.held.any (fun h => match h with | .trap _ => true | _ => false) then s.trap .reservedField
    else .next (s.hold (.trap code.toNat)).retire)

/-- RFT: SUPERVISOR in a handler; an exit word whose effect follows commit. -/
def execRft (g : Guard) (s : State) : Res :=
  if !s.me.sup || !s.me.inHandler then s.encTrap .privilege else cWord s g [] (fun _ => s.takeExit .rft)

def execSafept (g : Guard) (orbit : Bool) (live : BitVec 8) (s : State) : Res := cHold s g [] (fun _ => .safept orbit live.toNat)

/-- CORERST names a core of its own record's target set. -/
def execCorerst (g : Guard) (r : Reg) (s : State) : Res :=
  if !s.me.sup then s.encTrap .privilege
  else cWord s g [r] (fun c =>
    let n := (c.getS r).toNat
    let mine := match c.lr with | some l => (tgtCores (recTgt (s.rcd l).img)).contains n | none => false
    if 2 ^ 10 ≤ n then s.trap .reservedField
    else if !mine then s.trap .privilege
    else .next (s.hold (.corerst (c.getS r))).retire)

def execHalt (g : Guard) (s : State) : Res :=
  if !s.me.sup || !s.me.inHandler then s.encTrap .privilege else cHold s g [] (fun _ => .halt)

end Sys2Proof.Machine
end

