-- ==== Sys2Proof/Machine/Boundary.lean ====
section
/-! DEFINITION. The end of a run in each stream, task boundaries, overlay loads, the end of a context (05 R96 to R98, R106, R113;
14 R311, R312; 16 R346 to R349, R351 to R353). -/

namespace Sys2Proof.Machine

/-! The exit of a committed C run (05 R97, R98, R106). -/

/-- Where the stream goes: another run of the block, the next block, the target of an exit; an end, a swap or a handler's return
waits for its boundary. A swap enters halfword 0 of the next overlay's code, at run 0: CPC and CRUN name that place from the commit
on (14 R311, 16 R346). -/
def Core.afterRun (c : Core) : Core :=
  let p := c.c.pos
  match p.exit with
  | none => if p.run < p.rep then
      let c := c.setPos .c (p.again (p.run + 1))
      if c.c.pos.phase = .words then c.startRun else c
    else c.setPos .c (p.enter p.pc)
  | some (.block t) => c.setPos .c (p.enter t)
  | some (.call t) => { c with c := { c.c with stack := c.c.stack ++ [p.pc], pos := p.enter t } }
  | some .ret => { c with c := { c.c with stack := c.c.stack.dropLast, pos := p.enter (c.c.stack.getLastD 0) } }
  | some (.overlay _) => c.setPos .c { p with phase := .boundary, pc := 0, blk := 0, run := 0 }
  | some _ => c.setPos .c { p with phase := .boundary }

/-- A held effect that follows the commit (16 R346, R348, R349). -/
def State.followUp (core : Nat) (s : State) (h : Held) : State :=
  let c := s.core core
  match h with
  | .trap code => if c.mode == .running then s.post core ⟨0, 0, 0, .trapInstruction, c.c.pos.blk, code, 0⟩ else s
  | .corerst r => s.resetCore (r.toNat % 1024) .coreReset
  | .halt => s.resetCore core ((Cause.ofCode ((c.sysReg 0).toNat % 128)).getD .coreReset)
  | _ => s
/-- A held write of a frame register (16 R350). -/
def State.heldFrame (core : Nat) (s : State) (h : Held) : State :=
  match h with | .swrFrame i v => s.frameWrite core i v.toNat | _ => s

/-! Safe points (16 R351 to R353). -/

/-- Cycles of a message to a core: to its tile, and as long again for an answer (14 R317). -/
def State.mailTime (s : State) (a b : Nat) : Nat := 6 + 2 * s.hops (tileOf a) (tileOf b)

/-- A committed SAFEPT with a request pending: outside an orbit the context stops here; in an orbit only SAFEPT.O sends its
arrival and waits. -/
def State.safePoint (s : State) (core : Nat) : State :=
  let c := s.core core
  match c.c.safept with
  | none => s
  | some (orbit, _) =>
    let leave := s.setCore core { c with c := { c.c with safept := none } }
    if c.mode ≠ .running || c.inHandler || !c.preempt || !c.traps.isEmpty then leave
    else if !c.aligned then (s.setCore core { c with mode := .saving }).after 1 (.orbitSave core)
    else if !orbit then leave
    else
      let ms := s.orbit core
      let s := s.setCore core { c with sent := true }
      ms.foldl (fun s n => s.after (s.mailTime core n) (.orbitArrival n core true (BitVec.ofNat 64 (s.sc core)))) s

/-- The end of a committed C run. -/
def State.cRunEnd (s : State) (core : Nat) : State :=
  let held := (s.core core).c.held
  let s := held.foldl (State.heldFrame core) s
  let s := s.modCore core Core.afterRun
  let s := held.foldl (State.followUp core) s
  (s.safePoint core).takeBefore core

/-- BLOCK_RUN_END (05 R97, R110). -/
def execBlockRunEnd (s : State) : Res :=
  match s.ev with
  | .blockRunEnd ag =>
    if ((s.core ag.core).pos ag.st).phase ≠ .runEnd then .next s
    else match ag.st with
      | .c => .next (s.cRunEnd ag.core)
      | st => .next (s.modCore ag.core (fun c => outerRunEnd c st s.now))
  | _ => .next s

/-! Task boundaries (14 R311). -/

/-- Engine classes of a trailer mask that still have commands: matrix, copy, tail, offload. -/
def State.trailerBusy (s : State) (core : Nat) : Bool :=
  let c := s.core core
  let cmds := (s.cp (tileOf core)).cmds.filter (fun m => m.core == core)
  let has (p : COp → Bool) : Bool := cmds.any (fun m => p m.op)
  (bitOf c.trailer 2 && (c.batch.st.toList.any (fun v => v != 0)))
    || (bitOf c.trailer 3 && has (fun o => match o with | .cpy _ _ => true | .cpyg => true | .cpyr => true | _ => false))
    || (bitOf c.trailer 4 && has (fun o => match o with | .tailput => true | .tailget _ => true | _ => false))
    || (bitOf c.trailer 5 && has (fun o => match o with | .offload => true | .recall => true | _ => false))

/-- TASK_BOUNDARY: the outer streams are idle, the posted mail is acknowledged, the commands of the trailer's classes have
completed; the writes of the core are performed, so nothing is left to publish. The context then ends or its next overlay is
loaded. A handler's return waits for its A and X streams only, then loads the task overlay (16 R347). -/
def execTaskBoundary (s : State) : Res :=
  match s.ev with
  | .taskBoundary core =>
    let c := s.core core
    if c.mode ≠ .running || c.c.pos.phase ≠ .boundary || !s.xIdle core || !s.aIdle core then .next s
    else match c.c.pos.exit with
      | some .rft => .next (s.startLoad core (c.sysReg 6).toNat false)
      | some (.overlay _) =>
        if !c.posts.isEmpty || s.trailerBusy core then .next s
        else match c.c.ovl with
          | some o =>
            let load (c : Core) : Core := { c with mode := .loading, load := some o }
            .next (((s.flushStores core).modCore core load).after o.time (.overlayLoadDone core))
          | none => .next s
      | some .finish =>
        if !c.posts.isEmpty || s.trailerBusy core then .next s
        else .next ((s.flushStores core).at_ s.now (.contextEnd core))
      | _ => .next s
  | _ => .next s

/-- OVERLAY_LOAD_DONE: the C stream enters halfword 0 of the code that has arrived: a new context's, a swap's, a handler's; or a
trapped context resumes. -/
def execOverlayLoadDone (s : State) : Res :=
  match s.ev with
  | .overlayLoadDone core =>
    let c := s.core core
    match c.mode, c.load with
    | .loading, some o =>
      if c.frame.isSome && !c.inHandler then .next (s.startHandler core o)
      else if c.c.pos.exit = some .rft then .next (s.returnFromTrap core o)
      else
        let s := s.loadCode core o
        let s := s.modCore core (fun c =>
          let c := if c.inHandler then c else c.setSys 6 (BitVec.ofNat 64 o.va)
          { c with mode := .running, load := none, c := { c.c with ovl := none, pos := c.c.pos.enter 0 } })
        -- an uncorrectable error in what was read traps as the code is entered (12 R274, 18 R375)
        .next (if s.ovlEcc o then s.post core ⟨0, 0, 0, .eccDram, 0, 0, 0⟩ else s.takeBefore core)
    | _, _ => .next s
  | _ => .next s

/-- CONTEXT_END: an `exit end` after its boundary; or the end that firmware gives a context held by the die management core, as
HALT ends it (14 R312; 16 R348, R351). -/
def execContextEnd (s : State) : Res :=
  match s.ev with
  | .contextEnd core =>
    let c := s.core core
    if c.mode = .running ∧ c.c.pos.phase = .boundary ∧ c.c.pos.exit = some .finish then .next (s.endContext core none)
    else if c.mode = .held then .next (s.resetCore core ((Cause.ofCode ((c.sysReg 0).toNat % 128)).getD .coreReset))
    else .next s
  | _ => .next s

end Sys2Proof.Machine
end

