-- ==== Sys2Proof/Machine/Orbit.lean ====
section
/-! DEFINITION. Orbits: SYZY, the schedule counter, mail, stops; launch-record words; WIDF (12 R269, R270; 14 R303, R309, R313 to R317). -/

namespace Sys2Proof.Machine

/-! SYZY (14 R313). -/

/-- What an arrival carries: ORBITSET without ALIGNED, and SBMODE. -/
def Core.syzyWord (c : Core) : Nat := c.orbitset % 2 ^ 21 + (c.sysReg 0x50).toNat % 2 * 2 ^ 21

/-- The C stream stands at the SYZY word of its block, and has sent its arrival: not while the context is trapped, or its handler runs
another code. -/
def Core.atSyzy (c : Core) : Bool :=
  c.sent && c.mode == .running && c.c.pos.phase == .words && c.c.safept.isNone
    && decode .c (c.halfwords .c c.c.pos.pc 6) == .ok .syzy

/-- A C word that waited issues in this cycle; one that would take SPCNT past its limit traps instead (16 R351). -/
def State.issueLate (s t : State) (core : Nat) : State :=
  if (t.core core).pastLimit then s.trapOf ⟨core, .c⟩ .safeptLate 0 0 else t

/-- The word alone in its block: it issues in the cycle of the alignment, and its run ends there. -/
def State.syzyDone (s : State) (core : Nat) : State :=
  let t := s.modCore core (fun c =>
    let p := c.c.pos
    let c := c.countIssue .c
    { c with sent := false, synced := false,
             c := { c.c with pos := { p with pc := p.blk + 4, left := 0, last := s.now, phase := .runEnd } } })
  s.issueLate { t with turn := some ⟨core, .c⟩ } core

/-- SYZY waits for the outer streams and the posted mail, sends its arrival to every member, and waits for theirs. It is not
rolled back: re-entered after the alignment it waited for, it is done (notes/assumptions/36.md, DEDUCED). -/
def execSyzy (s : State) : Res :=
  let c := s.me
  let core := s.who.core
  let p := s.pos
  if p.len ≠ 1 ∨ p.rep ≠ 0 then s.trap .orbitUnaligned
  else if c.synced then .next (s.syzyDone core)
  else if c.sent then .next s
  else if !tgtOrb c.orbitset then s.trap .orbitUnaligned
  else if !s.xIdle core || !s.aIdle core || !c.posts.isEmpty then .next s
  else
    let s := s.setMe { c with sent := true }
    .next ((tgtCores c.orbitset).foldl (fun s n => s.after (s.mailTime core n) (.orbitArrival n core false (BitVec.ofNat 64 c.syzyWord))) s)

/-- Every member of a set has arrived. -/
def Core.allArrived (c : Core) (ms : List Nat) (safept : Bool) : Bool :=
  ms.all (fun n => c.arrivals.any (fun a => a.src == n && a.safept == safept))

/-- ORBIT_ARRIVAL: the last one ends the wait. For SYZY the members align 128 cycles after the last arrival was sent, or each traps
where one differs; for SAFEPT.O they save, or each traps (14 R313, 16 R353). -/
def execOrbitArrival (s : State) : Res :=
  match s.ev with
  | .orbitArrival core src safept w =>
    let c := s.core core
    let a : Arrival := ⟨src, s.now - s.mailTime src core, safept, w.toNat⟩
    let c := { c with arrivals := c.arrivals.filter (fun b => b.src != src || b.safept != safept) ++ [a] }
    let s := s.setCore core c
    let mine := c.arrivals.filter (fun b => b.safept == safept)
    let clear (s : State) : State := s.modCore core (fun c =>
      { c with sent := false, arrivals := c.arrivals.filter (fun b => b.safept != safept), c := { c.c with safept := none } })
    if !c.sent then .next s
    else if !safept then
      let ms := tgtCores c.orbitset
      if !c.allArrived ms false then .next s
      else if mine.any (fun b => ms.contains b.src && b.word != c.syzyWord) then
        -- a context that is trapped, or in its handler, meets the trap as its C stream comes back to the word
        .next (if c.atSyzy then (clear s).trapOf ⟨core, .c⟩ .orbitUnaligned 0 0 else (clear s).trapBefore core .orbitUnaligned 0)
      else
        let t := mine.foldl (fun m b => max m b.at_) 0 + 128
        .next { s with agenda := agendaPut s.agenda (2 * t + 1) (.orbitAlign core) }
    else
      let ms := s.orbit core
      if !c.allArrived ms true then .next s
      else if mine.any (fun b => ms.contains b.src && b.word != w.toNat) then
        .next ((clear s).post core ⟨0, 0, 0, .orbitUnaligned, c.c.pos.blk, 0, 0⟩)
      else .next (s.at_ s.now (.orbitSave core))
  | _ => .next s

/-- ORBIT_ALIGN: SC 0, ALIGNED 1, every mail slot 0; the next C word issues in the next cycle. -/
def execOrbitAlign (s : State) : Res :=
  match s.ev with
  | .orbitAlign core =>
    let c := s.core core
    let ok := c.atSyzy
    let c := { c.setAligned true with sc := Counter.from_ 0 s.now, mail := [], arrivals := c.arrivals.filter (fun a => a.safept),
                                      synced := !ok }
    let s := s.setCore core c
    .next (if ok then s.syzyDone core else s)
  | _ => .next s

/-! The schedule counter (14 R314). -/

def execRdsc (g : Guard) (d : Reg) (s : State) : Res := cAlu s g [] d 1 (fun _ => BitVec.ofNat 64 (s.sc s.who.core))

/-- WAITSC completes in the first cycle in which SC has reached the source. -/
def execWaitsc (g : Guard) (a : Reg) (s : State) : Res :=
  cWord s g [a] (fun c =>
    let core := s.who.core
    if s.agenda.any (fun e => e.2 == .waitscDone core) then .next s
    else
      let n := (c.getS a).toNat
      if n ≤ s.sc core then .next s.retire
      else .next { s with agenda := agendaPut s.agenda (2 * (s.now + (n - s.sc core)) + 1) (.waitscDone core) })

/-- WAITSC_DONE: the waiting word retires, unless SC has been held meanwhile. The word's source is read again. -/
def execWaitscDone (s : State) : Res :=
  match s.ev with
  | .waitscDone core =>
    let c := s.core core
    let s := { s with who := ⟨core, .c⟩ }
    match decode .c (c.halfwords .c c.c.pos.pc 6) with
    | .ok (.waitsc _ a) =>
      let n := (c.getS a).toNat
      if c.mode ≠ .running ∨ c.c.pos.phase ≠ .words then .next s
      else if n ≤ s.sc core && !c.stopped then .next (s.issueLate (s.setPos { c.c.pos with flen := 2, fwords := 1 }).retire core)
      else .next { s with agenda := agendaPut s.agenda (2 * (s.now + max 1 (n - s.sc core)) + 1) (.waitscDone core) }
    | _ => .next s
  | _ => .next s

/-! Stops (12 R269, R270; 14 R315). -/

def execOrbitStop (s : State) : Res :=
  match s.ev with
  | .orbitStop core =>
    let c := s.core core
    if !c.aligned || c.stopped then .next s
    else .next ((s.setCore core (({ c with stopped := true, sc := c.sc.hold s.now } : Core).wdRule s.now)).endWait core)
  | _ => .next s

/-- ORBIT_RESUME: the array and the channels that held at a command boundary look again. -/
def execOrbitResume (s : State) : Res :=
  match s.ev with
  | .orbitResume core =>
    let c := s.core core
    if !c.stopped then .next s
    else
      let tile := tileOf core
      let s := s.setCore core (({ c with stopped := false, sc := c.sc.resume s.now } : Core).wdRule s.now)
      .next ((List.range 4).foldl (fun s ch => s.at_ s.now (.copyChannelTake tile ch)) (s.at_ s.now (.matrixCommandStart tile)))
  | _ => .next s

/-! Mail (14 R317). -/

def execPost (g : Guard) (addr v : Reg) (lat : BitVec 11) (s : State) : Res :=
  cHold s g [addr, v] (fun c => .post (c.getS addr) (c.getS v) lat.toNat)
def execMbrd (g : Guard) (d addr : Reg) (s : State) : Res := cHold s g [addr] (fun c => .mbrd (c.getS addr) d)

/-- A post in its slot; of the posts of a slot that are due only the one that MBRD would return is kept. -/
def mailPut (l : List Mail) (m : Mail) (sc : Nat) : List Mail :=
  let beats (a b : Mail) : Bool := a.slot == b.slot && a.due ≤ sc && b.due ≤ sc && (b.due < a.due || (b.due == a.due && b.poster < a.poster))
  let l := l ++ [m]
  l.filter (fun b => !l.any (fun a => beats a b))

/-- MAIL_ARRIVAL: the post of a core reaches its owner's slot and is acknowledged; a post whose orbit has broken is discarded. -/
def execMailArrival (s : State) : Res :=
  match s.ev with
  | .mailArrival core id =>
    let c := s.core core
    match c.posts.find? (fun p => p.id == id) with
    | none => .next s
    | some p =>
      let s := s.setCore core { c with posts := c.posts.map (fun q => if q.id = id then { q with arrived := true } else q) }
      let s := s.modCore p.owner (fun o => { o with mail := mailPut o.mail p.mail (s.sc p.owner) })
      .next (s.after (s.mailTime core p.owner) (.mailAck core id))
  | _ => .next s

/-- MAIL_ACK: a late post's raise ends, and its cycles count as stalls. -/
def execMailAck (s : State) : Res :=
  match s.ev with
  | .mailAck core id =>
    let c := s.core core
    match c.posts.find? (fun p => p.id == id) with
    | none => .next s
    | some p =>
      let s := s.setCore core { c with posts := c.posts.filter (fun q => q.id != id) }
      match p.raised with
      | none => .next s
      | some t => .next ((s.modCore core (fun c => c.setSys 0x51 (c.sysReg 0x51 + BitVec.ofNat 64 (s.now - t)))).lower core)
  | _ => .next s

/-- MAIL_LATE: SC is 17 short of the due date and the acknowledgement is outstanding. -/
def execMailLate (s : State) : Res :=
  match s.ev with
  | .mailLate core id =>
    let c := s.core core
    match c.posts.find? (fun p => p.id == id) with
    | none => .next s
    | some p =>
      let sc := s.sc core
      if sc + 17 < p.mail.due then .next (s.after (max 1 (p.mail.due - 17 - sc)) s.ev)
      else if p.raised.isSome then .next s
      else if bitOf (c.sysReg 0x50).toNat 0 then .next (s.trapBefore core .scoreboardLate (p.owner * 64 + p.mail.slot))
      else
        let s := s.setCore core { c with posts := c.posts.map (fun q => if q.id = id then { q with raised := some s.now } else q) }
        .next (s.raise core)
  | _ => .next s

/-! Launch-record words and WIDF (14 R303, R309). -/

def execLrpatch (g : Guard) (v r : Reg) (f : Fin 31) (s : State) : Res :=
  cHold s g [v, r] (fun c => .lrpatch (c.getS v) (c.getS r) f.val)
def execLrarm (g : Guard) (r : Reg) (s : State) : Res := cHold s g [r] (fun c => .lrarm (c.getS r))
def execChildq (g : Guard) (r : Reg) (s : State) : Res := cHold s g [r] (fun c => .childq (c.getS r))

/-- One field of WID by the widths of the context's record; `lev` is the field. -/
def widField (img : BitVec 2048) (wid lev : Nat) : Nat :=
  let off := ((List.range lev).map (recWidw img)).sum
  field wid off (recWidw img lev)
def execWidf (g : Guard) (d : Reg) (lev : Fin 6) (s : State) : Res :=
  cAlu s g [] d 1 (fun c => BitVec.ofNat 64 (widField (match c.lr with | some r => (s.rcd r).img | none => 0) (c.sysReg 9).toNat lev.val))

end Sys2Proof.Machine
end

