-- ==== Sys2Proof/Machine/Launch.lean ====
section
/-! DEFINITION. The launch units: ready order, the start of a record and of its contexts, the child queue (14 R302, R306 to R308;
07 R142; 10 R216; 13 R292; 15 R331; 18 R380). -/

namespace Sys2Proof.Machine

/-! Allotments (14 R307). -/

/-- The lowest start of n free places among `total`; `used` are ranges: first and count. -/
def lowestRun (used : List (Nat × Nat)) (n total : Nat) : Option Nat :=
  if n = 0 then some 0 else
  let free (f : Nat) : Bool := f + n ≤ total && used.all (fun u => u.2 == 0 || f + n ≤ u.1 || u.1 + u.2 ≤ f)
  (0 :: used.map (fun u => u.1 + u.2)).foldl (fun b f => if free f && (match b with | some x => f < x | none => true) then some f else b) none

/-- SCRPART and ACCALLOT of everything on a tile: of its cores that are not free and of its saved contexts. -/
def State.allotted (s : State) (tile i : Nat) : List Nat :=
  (List.range 4).map (fun k => let c := s.core (4 * tile + k); if c.mode = .free then 0 else (c.sysReg i).toNat)
    ++ (s.saves.filter (fun v => tileOf v.core == tile)).map (fun v => (v.img.sysReg i).toNat)
def scrRange (part : Nat) : Nat × Nat := (partFirst part, partCount part)

/-- The n lowest planes that are free. -/
def lowestPlanes (used : List Nat) (n : Nat) : Option Nat :=
  let free := ((List.range 62).filter (fun p => used.all (fun m => !bitOf m p))).take n
  if free.length = n then some ((free.map (fun p => 2 ^ p)).sum) else none

/-- SCRPART and ACCALLOT of each target core, in ascending number. -/
def State.allotCores (s : State) (img : BitVec 2048) : List Nat → List (Nat × Nat × Nat) → Option (List (Nat × Nat × Nat))
  | [], done => some done
  | n :: rest, done =>
    let tile := tileOf n
    let mine := done.filter (fun d => tileOf d.1 == tile)
    let parts := s.allotted tile 0x60 ++ mine.map (fun d => d.2.1)
    let planes := s.allotted tile 0x61 ++ mine.map (fun d => d.2.2)
    match lowestRun (parts.map scrRange) (recScrg img) 128, lowestPlanes planes (recPlanes img) with
    | some f, some m => s.allotCores img rest (done ++ [(n, if recScrg img = 0 then 0 else f + 256 * recScrg img, m)])
    | _, _ => none

/-- The first albedo record of a new grant. -/
def State.albRun (s : State) (n : Nat) : Option Nat :=
  let live := (s.recs.filter (fun e => !e.2.live.isEmpty)).map (fun e => (e.2.albFirst, e.2.albCount))
  -- what an ended context was granted until its commands have stopped (14 R312, 16 R349)
  let left := (s.cores.filter (fun e => e.2.mode != .free)).map (fun e =>
    let g := (e.2.sysReg 0x62).toNat
    (g % 2 ^ 16, g / 2 ^ 16))
  lowestRun (live ++ left) n 65536

/-- A core that may start a context: free, not quarantined, its tile not fenced (14 R306, R312; 17 R366; 18 R380). -/
def State.quarantined (s : State) (n : Nat) : Bool := (s.tile (tileOf n)).susp.quar.getD (n % 4) false
def State.canStart (s : State) (n : Nat) : Bool :=
  (s.core n).mode == .free && !s.quarantined n && !s.fencedC.contains (tileOf n) && !s.fencedR.contains (tileOf n)

/-- The allotments of a record that can start now. -/
def State.startPlan (s : State) (r : Nat) : Option (List (Nat × Nat × Nat) × Nat) :=
  let img := (s.rcd r).img
  let cores := tgtCores (recTgt img)
  if !cores.all s.canStart then none
  else match s.allotCores img cores [], s.albRun (recAlbcnt img) with
    | some l, some f => some (l, f)
    | _, _ => none

/-! The scan (14 R306). -/

/-- Effective priority. -/
def effPrio (img : BitVec 2048) (a : Arm) : Nat := min 15 (recPrio img + a.age)
/-- The place of a ready record in the scan. -/
def State.scanKey (s : State) (a : Arm) : List Nat :=
  let img := (s.rcd a.r).img
  if recStart img ≠ 0 then [0, recStart img, a.at_, a.r] else [1, 15 - effPrio img a, a.at_, a.r]
def keyLe : List Nat → List Nat → Bool
  | a :: s, b :: t => a < b || (a == b && keyLe s t)
  | _, _ => true
def insertArm (s : State) (a : Arm) : List Arm → List Arm
  | [] => [a]
  | b :: t => if keyLe (s.scanKey a) (s.scanKey b) then a :: b :: t else b :: insertArm s a t
/-- The first scanned record that can start; one that cannot holds back later records that need its cores. -/
def State.firstStart (s : State) : List Arm → List Nat → Option Nat
  | [], _ => none
  | a :: rest, held =>
    let cores := tgtCores (recTgt (s.rcd a.r).img)
    if !cores.any (fun n => held.contains n) && (s.startPlan a.r).isSome then some a.r
    else s.firstStart rest (held ++ cores)

/-- A START-timed record whose counter has reached START and that has not been checked. -/
def State.timeReached (s : State) (a : Arm) : Bool :=
  let img := (s.rcd a.r).img
  recStart img ≠ 0 && a.ready.isNone
    && (match tgtCores (recTgt img) with | n :: _ => recStart img ≤ s.sc n | [] => false)

/-- A launch unit looks at its START = 0 records: those whose predecessors are DONE are ready; a ready one that names a quarantined
core is reported, once for each core it comes to name or that comes to be quarantined. -/
def State.lookDie (s : State) (k : Nat) : State :=
  let d := s.die k
  if d.arms.isEmpty then s else
  let look (a : Arm) : Arm :=
    let img := (s.rcd a.r).img
    if recStart img ≠ 0 then a
    else if s.predsDone img then { a with ready := some (a.ready.getD s.now) } else { a with ready := none, age := 0 }
  let arms := d.arms.map look
  let bad (a : Arm) : List Nat := (tgtCores (recTgt (s.rcd a.r).img)).filter s.quarantined
  let quar := arms.filter (fun a => a.ready.isSome && (bad a).any (fun n => !a.told.contains n))
  let arms := arms.map (fun a => { a with told := if a.ready.isSome then bad a else a.told.filter (bad a).contains })
  let fresh := arms.filter (fun a => a.ready == some s.now && !(d.arms.any (fun b => b.r == a.r && b.ready.isSome)))
  let s := s.setDie k { d with arms := arms, notices := d.notices ++ quar.map (fun a => .quarantined a.r) }
  fresh.foldl (fun s a => s.after (2 ^ 20) (.priorityAge a.r)) s

/-- What the launch units do next in a cycle. -/
inductive LaunchMove
  | event (e : Event)
  | look (s : State)
  | none

def State.launchMove (s : State) : LaunchMove :=
  let dies := List.range 4
  match dies.find? (fun k => !(s.die k).childq.isEmpty && 0 < s.armsLeft k) with
  | some k => .event (.childQueueMove k)
  | Option.none =>
  match dies.findSome? (fun k => (s.die k).arms.find? s.timeReached) with
  | some a => .event (.startTimeReached a.r)
  | Option.none =>
  let looked := dies.foldl State.lookDie s
  if looked.dies ≠ s.dies then .look looked
  else
    match dies.findSome? (fun k => s.firstStart (((s.die k).arms.filter (fun a => a.ready.isSome)).foldr (insertArm s) []) []) with
    | some r => .event (.recordStart r)
    | Option.none => .none

/-! Events of the launch units. -/

def State.dropArm (s : State) (r : Nat) : State := s.modDie (recDie r) (fun d => { d with arms := d.arms.filter (fun a => a.r != r) })

/-- CHILD_QUEUE_MOVE (14 R302): the oldest entry enters the arm list; that is its age. -/
def execChildQueueMove (s : State) : Res :=
  match s.ev with
  | .childQueueMove k =>
    let d := s.die k
    match d.childq with
    | r :: rest => if s.armsLeft k = 0 then .next s else .next (s.setDie k { d with childq := rest, arms := d.arms ++ [⟨r, s.now, none, 0, []⟩] })
    | [] => .next s
  | _ => .next s

/-- The arming context still runs (14 R306). -/
def State.armerRuns (s : State) (r : Nat) : Bool :=
  let v := s.rcd r
  let c := s.core (recArmer v.img)
  recArmv v.img && c.ctx == v.ctx && (match c.mode with | .loading | .running | .trapped | .saving | .held | .restored => true | _ => false)

/-- START_TIME_REACHED: the predecessors are checked once. -/
def execStartTimeReached (s : State) : Res :=
  match s.ev with
  | .startTimeReached r =>
    let d := s.die (recDie r)
    let img := (s.rcd r).img
    if !d.arms.any (fun a => a.r == r && s.timeReached a) then .next s
    else if s.predsDone img then
      .next (s.setDie (recDie r) { d with arms := d.arms.map (fun a => if a.r = r then { a with ready := some s.now } else a) })
    else
      let runs := s.armerRuns r
      let s := (s.dropArm r).finishRec r (some .predUnfinished)
      .next (if runs then s.post (recArmer img) ⟨0, 3, 0, .predUnfinished, 0, r, recStart img⟩
        else s.modDie (recDie r) (fun d => { d with notices := d.notices ++ [.record r .predUnfinished] }))
  | _ => .next s

/-- PRIORITY_AGE: another 2^20 cycles of being ready have passed. -/
def execPriorityAge (s : State) : Res :=
  match s.ev with
  | .priorityAge r =>
    let d := s.die (recDie r)
    match d.arms.find? (fun a => a.r == r) with
    | none => .next s
    | some a => match a.ready with
      | none => .next s
      | some t =>
        if s.now ≠ t + (a.age + 1) * 2 ^ 20 then .next s
        else
          let s := s.setDie (recDie r) { d with arms := d.arms.map (fun b => if b.r = r then { b with age := b.age + 1 } else b) }
          .next (if effPrio (s.rcd r).img { a with age := a.age + 1 } < 15 then s.after (2 ^ 20) s.ev else s)
  | _ => .next s

/-! The start of a context (14 R307, R308, R312). -/

/-- WID of an ordinal. -/
def widOf (img : BitVec 2048) (i : Nat) : Nat :=
  ((List.range 6).foldl (fun (x : Nat × Nat × Nat) l =>
    (x.1 / recExt img l, x.2.1 + x.1 % recExt img l * 2 ^ x.2.2, x.2.2 + recWidw img l)) (i, recWidbase img, 0)).2.1 % 2 ^ 64

/-- The registers of a new context: s1 to s16 the arguments, s17 the record, s18 WID, s19 the ordinal. -/
def startRegs (img : BitVec 2048) (r ordinal : Nat) : Vector Word 32 :=
  Vector.ofFn (fun k =>
    if 1 ≤ k.val ∧ k.val ≤ 16 then BitVec.ofNat 64 (recArg img (k.val - 1))
    else if k.val = 17 then BitVec.ofNat 64 r
    else if k.val = 18 then BitVec.ofNat 64 (widOf img ordinal)
    else if k.val = 19 then BitVec.ofNat 64 ordinal else 0)

/-- A core as a context of record r begins to load: everything of an earlier context is gone but SAVEVA, WDLIMIT, SC and the mail
slots. -/
def Core.begin_ (c : Core) (img : BitVec 2048) (r ordinal part planes alb now : Nat) (o : Overlay) (fill : List TlbEntry) : Core :=
  let keep := c.aligned && c.orbitset % 2 ^ 21 == recTgt img % 2 ^ 21
  let ring := recRegion img 0xE8 ordinal
  let spill := recRegion img 0xF0 ordinal
  let f : Core := { Core.fresh with
    mode := .loading, s := startRegs img r ordinal, ctlb := fill.foldl tlbFill c.ctlb, sc := c.sc, stopped := keep && c.stopped,
    wd := Counter.from_ 0 now, lr := some r, ordinal := ordinal, ringBase := ring.1, ringSize := ring.2, spillBase := spill.1,
    spillSize := spill.2, mail := c.mail, nextPost := c.nextPost, load := some o, ctx := now + 1 }
  let sys : List (Nat × Nat) := [(0x05, (c.sysReg 0x05).toNat), (0x06, recOvl img), (0x09, widOf img ordinal), (0x0D, (c.sysReg 0x0D).toNat),
    (0x50, b2n (recSbmode img)), (0x60, part), (0x61, planes), (0x62, alb + 2 ^ 16 * recAlbcnt img),
    (0x63, recTgt img % 2 ^ 21 + b2n keep * 2 ^ 21)]
  sys.foldl (fun f e => f.setSys e.1 (BitVec.ofNat 64 e.2)) f

/-- One context starts: an orbit that its TGT leaves breaks; its tail descriptors are reset; its overlay is on its way. -/
def State.startContext (s : State) (r ordinal part planes alb : Nat) (n : Nat) (o : Overlay) (p : P1) : State :=
  let img := (s.rcd r).img
  let c := s.core n
  let s := if c.aligned && c.orbitset % 2 ^ 21 != recTgt img % 2 ^ 21 then s.breakOrbit n else s
  let s := s.cancel (Event.ofStreams n)
  let s := s.modCore n (fun c => (c.begin_ img r ordinal part planes alb s.now o p.fill).wdRule s.now)
  let at_ := stagingAt (tileOf n) part
  let s := if (s.core n).hasTail then { s with scratch := s.scratch.clear at_ 0x8000, badScr := mendWords s.badScr at_ 0x8000 } else s
  (s.after (p.time + o.time) (.overlayLoadDone n)).after ((s.core n).sysReg 0x0D).toNat (.watchdog n)

/-- RECORD_START: the record starts on all its cores in one cycle; a failed check makes it FAULTED and no context runs. -/
def execRecordStart (s : State) : Res :=
  match s.ev with
  | .recordStart r =>
    let v := s.rcd r
    let img := v.img
    if !(s.die (recDie r)).arms.any (fun a => a.r == r && a.ready.isSome) then .next s
    else match s.startPlan r with
      | none => .next s
      | some (plan, alb) =>
        let check (x : Nat × Nat × Nat) : Except P1Fail (Overlay × P1) :=
          s.ovlCheck x.1 false [] ⟨[], [], 0, false⟩ (recOvl img)
        match plan.mapM check with
        | .error ((cause, _, _), _) => .next ((s.dropArm r).finishRec r (some cause))
        | .ok ovs =>
          let s := s.dropArm r
          let s := s.setRcd r { v with img := setRecState img 3, albFirst := alb, albCount := recAlbcnt img,
                                       live := v.live ++ plan.map (fun x => x.1) }
          .next ((plan.zip ovs).zipIdx.foldl (fun s (x, i) => s.startContext r i x.1.2.1 x.1.2.2 alb x.1.1 x.2.1 x.2.2) s)
  | _ => .next s

end Sys2Proof.Machine
end

