-- ==== Sys2Proof/Machine/Preempt.lean ====
section
/-! DEFINITION. Safe points, the watchdog, breakpoints, pre-emption: saving and restoring contexts (09 R191; 11 R258; 16 R351 to R355;
19 R390). -/

namespace Sys2Proof.Machine

/-! Traps that no word raises. -/

/-- SAFEPT_LATE: the word that would take SPCNT past 16,384 traps. -/
def execSafeptLate (s : State) : Res :=
  match s.ev with
  | .safeptLate core => .next (s.trapOf ⟨core, .c⟩ .safeptLate 0 0)
  | _ => .next s

/-- WATCHDOG: WDCNT has reached WDLIMIT. While it has not, since a safe point has cleared it or it was held, the event comes back. -/
def execWatchdog (s : State) : Res :=
  match s.ev with
  | .watchdog core =>
    let c := s.core core
    let limit := (c.sysReg 0x0D).toNat
    match c.mode with
    | .loading | .running | .trapped | .held =>
      if s.wdcnt core < limit then .next (s.after (limit - s.wdcnt core) s.ev)
      else if c.mode = .held ∧ (c.sysReg 0).toNat = Cause.code .watchdog then .next s
      else .next (s.post core ⟨0, 0, 0, .watchdog, c.c.pos.blk, 0, 0⟩)
    | .saving => .next (s.after 1 s.ev)
    | _ => .next s
  | _ => .next s

/-- Firmware writes WDLIMIT (16 R351): the watchdog looks at its counter anew. -/
def State.setWdLimit (s : State) (core v : Nat) : State :=
  let s := (s.cancel (fun e => e == .watchdog core)).modCore core (fun c => c.setSys 0x0D (BitVec.ofNat 64 v))
  s.at_ s.now (.watchdog core)

/-- DEBUG_BREAK: the instruction at the breakpoint does not issue; it issues after RFT without a second break (19 R390). -/
def execDebugBreak (s : State) : Res :=
  match s.ev with
  | .debugBreak ag =>
    let c := s.core ag.core
    let p := c.pos ag.st
    .next ((s.setCore ag.core (c.setPos ag.st { p with brk := true })).trapOf ag .debugBreak 0 0)
  | _ => .next s

/-- The breakpoint of a core is at the place a stream is about to issue. -/
def State.atBreak (s : State) (ag : Agent) : Bool :=
  let b := (s.tile (tileOf ag.core)).brk.getD (ag.core % 4) 0
  let p := (s.core ag.core).pos ag.st
  bitOf b 63 && field b 61 2 == streamCode ag.st && field b 0 14 == p.pc && !p.brk && p.pfx.isNone
    && (match ag.st with | .c => p.phase == .header && p.run == 0 | _ => p.phase == .words)

/-! Pre-emption (16 R352, R353). -/

/-- PREEMPT_REQUEST: it applies to the whole orbit of an aligned core. -/
def execPreemptRequest (s : State) : Res :=
  match s.ev with
  | .preemptRequest core =>
    let c := s.core core
    let ms := if c.aligned then s.orbit core else [core]
    .next (ms.foldl (fun s n => if (s.core n).lr.isSome then s.modCore n (fun c => { c with preempt := true }) else s) s)
  | _ => .next s

/-- The classes that a SAFEPT does not name are not saved: they read as zero (16 R352, R354). -/
def Core.keepLive (c : Core) (live : Nat) : Core :=
  let on (k : Nat) : Bool := bitOf live k
  let pred (p : Vector Bool 8) : Vector Bool 8 := if on 5 then p else preds0
  { c with
    s := if on 0 then c.s else Vector.replicate 32 0
    a := if on 1 then c.a else Vector.replicate 32 0
    xr := { c.xr with
      v := Vector.ofFn (fun k => if on (if k.val < 16 then 2 else 3) then c.xr.v[k] else 0)
      x := if on 4 then c.xr.x else Vector.replicate 16 0
      m := if on 6 then c.xr.m else Vector.replicate 8 0
      l := if on 7 then c.xr.l else Vector.replicate 8 0 }
    c := { c.c with p := pred c.c.p }
    ao := { c.ao with p := pred c.ao.p }
    xo := { c.xo with p := pred c.xo.p } }

/-- The regions of the save area that only a context save writes: every system register, shapes, binding slots, mail. -/
def State.saveRegions (s : State) (core : Nat) : List (Nat × List Byte) :=
  let c := s.core core
  let slot (k : Nat) : List Byte := match c.binds.find? (fun b => b.1 == k) with
    | some (_, o, b, n) => leBytes 8 o ++ leBytes 8 b ++ leBytes 8 n
    | none => leBytes 8 (2 ^ 64 - 1) ++ leBytes 16 0
  [(0x000, (List.range 128).flatMap (fun i => leBytes 8 (s.sysValue core i))),
   (0x900, c.sh.toList.flatMap (fun sh => leBytes 64 sh.toNat)),
   (0xD00, (List.range 64).flatMap slot),
   (0x1800, (List.range 64).flatMap (fun k => leBytes 8 (c.mailValue k (s.sc core)).toNat))]

/-- A region of the save area belongs to a class that is live, or to no class (16 R352, R355). -/
def regionLive (live off : Nat) : Bool :=
  let on (k : Nat) : Bool := bitOf live k
  if off = 0x400 then on 0 else if off = 0x500 then on 1 else if off = 0x2000 then on 2 else if off = 0x3000 then on 3
  else if off = 0x600 then on 4 else if off = 0x680 then on 5 else if off = 0x800 then on 6 else if off = 0x4000 then on 7 else true

/-- A command that has not started goes back to its place in the queue. -/
def CCmd.unstart (m : CCmd) : CCmd :=
  match m.st with
  | .taken | .acquiring => { m with st := .queued }
  | .ready | .turning | .turned => { m with st := .queued, ord := { m.ord with acq := false } }
  | _ => m
def MCmd.unstart (m : MCmd) : MCmd := match m.st with | .acquiring => { m with st := .queued } | _ => m

/-- The commands of a core leave the tile's engines: the matrix run closes, the copy channels go on (09 R191, 11 R258). -/
def State.takeCommands (s : State) (core : Nat) : State × List MRun × List MCmd × List CCmd :=
  let tile := tileOf core
  let m := s.mx tile
  let e := s.cp tile
  let runs := m.runs.filter (fun r => r.core == core)
  let cmds := (m.cmds.filter (fun c => c.core == core)).map MCmd.unstart
  let mine := e.cmds.filter (fun c => c.core == core)
  let owned := match m.owner with | some o => runs.any (fun r => r.id == o) | none => false
  let waitsFor (w : Waiter) : Bool := match w.who with
    | .copy t ch => t == tile && mine.any (fun c => (c.st == .acquiring || c.st == .turning) && c.tag.val % 4 == ch)
    | .matrix t => t == tile && m.cmds.any (fun c => c.core == core && c.st == .acquiring)
    | _ => false
  let s := ({ s with waiters := s.waiters.filter (fun w => !waitsFor w) } : State).cancel (fun x => match x with
    | .copyCommandStart t ch => t == tile && mine.any (fun c => c.st != .queued && c.tag.val % 4 == ch)
    | .matrixCommandStop t _ _ _ => t == tile && m.cmds.any (fun c => c.core == core && c.st == .acquiring)
    | _ => false)
  let s := s.setMx tile { m with runs := m.runs.filter (fun r => r.core != core), cmds := m.cmds.filter (fun c => c.core != core),
                                 owner := if owned then none else m.owner, freed := if owned then s.now else m.freed }
  let s := s.setCp tile { e with cmds := e.cmds.filter (fun c => c.core != core) }
  let s := if owned then s.after 1 (.leaseGrant tile) else s
  ((List.range 4).foldl (fun s ch => s.at_ s.now (.copyChannelTake tile ch)) s, runs, cmds, mine.map CCmd.unstart)

/-- The engines have finished what they were executing for the core. -/
def State.enginesQuiet (s : State) (core : Nat) : Bool :=
  let tile := tileOf core
  !(s.mx tile).cmds.any (fun c => c.core == core && (c.st == .running || c.st == .releasing)) && !(s.cp tile).cmds.any (fun c =>
    c.core == core && (c.st == .running || c.st == .releasing || c.st == .replying))

/-- The save area of one context is written. The trap registers report PREEMPT with the block that the run's exit enters; the classes that
no SAFEPT of the run names are not written (16 R341, R352, R355). The error is the state in which a line waits (12 R280). -/
def State.writeContext (s : State) (core : Nat) : Except State State :=
  let live := ((s.core core).c.safept.getD (false, 0)).2
  let c := (s.core core).keepLive live
  let c := c.setTrapRegs ⟨0, 0, 0, .preempt, c.c.pos.blk, 0, 0⟩
  let s := (s.setCore core c).trapRecord core
  let regions := (s.saveRegions core ++ c.saved.image).filter (fun e => regionLive live e.1)
  (s.saveImage core regions).bind (fun s => s.savePrivate core privateSave)
/-- A context whose save area is written leaves its core, with its commands and its LOCKs (16 R352; 10 R228). -/
def State.leaveCore (s : State) (core : Nat) : State :=
  let live := ((s.core core).c.safept.getD (false, 0)).2
  let s := s.modCore core (fun c => { c with c := { c.c with safept := none }, preempt := false, sent := false, arrivals := [] })
  let taken := s.takeCommands core
  let s : State := taken.1
  let runs := taken.2.1
  let cmds := taken.2.2.1
  let ccmds := taken.2.2.2
  let c := s.core core
  let img := { c with mode := .saving, stopped := false, raises := 0, sc := c.sc.hold s.now, wd := c.wd.hold s.now, ctlb := [],
                      q := { c.q with tlb := Vector.replicate 8 StreamTlb.empty, walk := none } }
  let id := 1 + s.saves.foldl (fun m v => max m v.id) 0
  let s := s.lower core
  let s := s.cancel (Event.ofStreams core)
  let free := { Core.fresh with sc := c.sc, ctlb := c.ctlb }
  let free := (free.setSys 0x05 (c.sysReg 0x05)).setSys 0x0D (c.sysReg 0x0D)
  let s := s.setCore core free
  let v : Save := ⟨id, core, live, img, runs, cmds, ccmds, s.locksOf core⟩
  let s : State := { s with saves := s.saves ++ [v] }
  s.modDie (dieOf (tileOf core)) (fun d => { d with notices := d.notices ++ [Notice.preempted core] })

/-- A member of an orbit waits at its SAFEPT.O with every arrival received and no post of its own in flight, and every post in its
slots is due (16 R353). -/
def State.memberReady (s : State) (ms : List Nat) (n : Nat) : Bool :=
  let c := s.core n
  c.mode == .running && c.sent && c.c.safept.isSome && c.allArrived ms true && c.posts.isEmpty && c.mail.all (fun m => m.due ≤ s.sc n)

/-- ORBIT_SAVE: a context that has stopped at a safe point, or every member of an orbit together, is saved when its streams and
engine commands have come to rest. The lowest member speaks for its orbit. -/
def execOrbitSave (s : State) : Res :=
  match s.ev with
  | .orbitSave core =>
    let c := s.core core
    let ms := if c.aligned then s.orbit core else [core]
    if ms.headD core ≠ core then .next s
    else if ms.all (fun n => (s.core n).mode == .saving) then
      if ms.all (fun n => (s.core n).quiet && (s.core n).cst.isEmpty && s.enginesQuiet n) then
        match ms.foldlM State.writeContext s with
        | .ok s => .next (ms.foldl State.leaveCore s)
        | .error t => .next (t.after 1 s.ev)
      else .next (s.after 1 s.ev)
    else if c.c.safept.isNone then .next s
    else if ms.all (s.memberReady ms) then
      .next ((ms.foldl (fun s n => s.modCore n (fun c => { c with mode := .saving })) s).after 1 s.ev)
    else .next (s.after 1 s.ev)
  | _ => .next s

/-! Restore (16 R354). -/

/-- The saved runs place new requests in their order, and their commands follow them. -/
def State.giveCommands (s : State) (v : Save) : State :=
  let tile := tileOf v.core
  let (m, ids) := v.runs.foldl (fun (x : Matrix × List (Nat × Nat)) r =>
    ({ x.1 with nextId := x.1.nextId + 1, runs := x.1.runs ++ [{ r with id := x.1.nextId, granted := false, req := s.now }] },
     x.2 ++ [(r.id, x.1.nextId)])) (s.mx tile, [])
  let cmds := v.cmds.map (fun c => { c with run := ((ids.find? (fun e => e.1 == c.run)).map (fun e => e.2)).getD c.run })
  let s := (s.setMx tile { m with cmds := m.cmds ++ cmds }).after 1 (.leaseGrant tile)
  let e := s.cp tile
  let s := s.setCp tile { e with cmds := e.cmds ++ v.ccmds }
  (List.range 4).foldl (fun s ch => s.at_ s.now (.copyChannelTake tile ch)) s

/-- The regions that software can reach are read back from the save area; classes not saved read as zero. -/
def State.readContext (s : State) (core live : Nat) : State :=
  let c := s.core core
  let c := (c.resumeFrom (s.readFrame core c.saved)).keepLive live
  let sh := s.saveVec core 0x900 64 (BitVec.ofNat 512) c.sh
  let binds := match s.saveRead core 512 0xD00 1536 with
    | none => c.binds
    | some bs => (List.range 64).filterMap (fun k =>
        let e (i : Nat) : Nat := leNat ((bs.drop (24 * k + 8 * i)).take 8)
        if e 0 = 2 ^ 64 - 1 then none else some (k, e 0, e 1, e 2))
  s.setCore core { c with sh := sh, binds := binds }

/-- Every page of a core's overlay is present with X, from the size of the image it runs: the check of a context that resumes
(12 R273, 16 R354). -/
def State.ovlPresent (s : State) (core : Nat) : Except (Cause × Nat × Nat) P1 :=
  let c := s.core core
  let va := (c.sysReg 6).toNat
  let pages := va :: ((List.range (c.ovlBytes / 0x1_0000 + 2)).drop 1).map (fun k => (va / 0x1_0000 + k) * 0x1_0000)
  ((pages.filter (fun a => a < va + c.ovlBytes)).foldlM (fun p a => (s.p1Place core false [] p a .exec).map (fun x => x.2))
    ⟨[], [], 0, false⟩).mapError (fun e => e.1)

/-- Every member of the orbit of a restored core has been restored: all leave the stopped state in this cycle (16 R354). -/
def State.leaveTogether (s : State) (core : Nat) : State :=
  let ms := if (s.core core).aligned then s.orbit core else [core]
  if ms.all (fun n => (s.core n).mode == .restored) then ms.foldl State.releaseCore s else s

/-- CONTEXT_RESTORE: the saved context goes on from its saved points on the core that saved it, an orbit's members together; where
its overlay's pages are absent or lack X, or what is read back holds an uncorrectable error, the die management core takes the trap (12
R273, R274). -/
def execContextRestore (s : State) : Res :=
  match s.ev with
  | .contextRestore core id =>
    match s.saves.find? (fun v => v.id == id && v.core == core) with
    | none => .next s
    | some v =>
      let now := s.core core
      if now.mode ≠ .free then .next s
      else
        let s := s.setCore core { v.img with mode := .restored, ctlb := now.ctlb }
        let s := { s with saves := s.saves.filter (fun w => w.id != id) }
        let regions := regionsOf ((s.saveRegions core ++ (s.core core).saved.image).filter (fun e => regionLive v.live e.1))
        let ecc := s.saveEcc core regions
        let s := (s.readContext core v.live).giveCommands v
        match (match ecc with | some c => Except.error (c, 0, 0) | none => s.ovlPresent core) with
        | .error (cause, i0, i1) =>
          let s := s.modCore core (fun c => c.setTrapRegs ⟨0, 0, 0, cause, c.c.pos.blk, i0, i1⟩)
          .next ((s.trapRecord core).dmcTakes core cause)
        | .ok _ => .next (s.leaveTogether core)
  | _ => .next s

end Sys2Proof.Machine
end

