-- ==== Sys2Proof/Machine/Memory.lean ====
section
/-! DEFINITION. The memory controllers' events and the invalidation of translations (12 R262, R268, R271, R277, R279). -/

namespace Sys2Proof.Machine

/-! Line accesses (12 R279). -/

/-- The place that a device physical address outside the register range names. -/
def dpaPlace (a : Nat) : Option Place :=
  if inDram a then some (.dram a) else if inAperture a then some (.packed a) else if inHost a then some (.dram a) else none

/-- LINE_ACCESS: one access to one line, performed whole; a write that needs a slot waits until one is free; a refused access does
nothing (12 R280, R281). A scalar store of a committed run is performed the same way (12 R268). -/
def execLineAccess (s : State) : Res :=
  match s.ev with
  | .lineAccess r =>
    match dpaPlace r.dpa with
    | none => if r.dpa < registerBase then .fault .noSuchAddress else .next s
    | some pl =>
      if r.bytes.isEmpty || (s.kindRefusal pl).isSome then .next s
      else match s.writePlace pl (r.bytes.take (128 - r.dpa % 128)) r.va r.gver none (.line r.dpa) with
        | .done s => .next s
        | .wait s => .next (s.after 1 s.ev)
        | .refuse _ => .next s
  | .scalarWrite core id =>
    match (s.core core).cst.find? (fun w => w.id == id) with
    | none => .next s
    | some w =>
      let t := s.scalarStore core w
      .next (if (t.core core).cst.any (fun w => w.id == id) then t.after 1 s.ev else t)
  | _ => .next s

/-- DRAM_READ_RETURN: the data of a load has arrived; the registers that waited for it are delivered. -/
def execDramReadReturn (s : State) : Res :=
  match s.ev with
  | .dramReadReturn core _ =>
    .next (s.modCore core (fun c => { c with c := { c.c with ready := c.c.ready.filter (fun e => s.now < e.2) } }))
  | _ => .next s

/-- DRAM_REFRESH takes time that the unloaded times of 12 R268 hold already; no line changes. -/
def execDramRefresh (s : State) : Res := .next s

/-! Homes (12 R277). -/

/-- HOME_CREATE: firmware writes KIND 1 or 2; a unit that was no home becomes one with 512 ZERO lines. -/
def execHomeCreate (s : State) : Res :=
  match s.ev with
  | .homeCreate unit kind =>
    let dpa := unit * 0x8000
    if !inDram dpa || (s.die (dieOf (columnOf dpa))).idxcnt = 0 || !(kind = 1 || kind = 2) then .next s
    else if s.kindOf dpa = 0 then .next (s.makeHome dpa kind)
    else .next { s with dram := s.dram.setNum (sizeEntry s dpa) 1 kind }
  | _ => .next s

/-- HOME_RELEASE: firmware writes KIND 0; the home's slots and index block are freed. -/
def execHomeRelease (s : State) : Res :=
  match s.ev with
  | .homeRelease unit =>
    let dpa := unit * 0x8000
    if !inDram dpa || s.kindOf dpa = 0 then .next s else .next (s.freeHome dpa)
  | _ => .next s

/-! Invalidation (12 R271). -/

def invGo (v : Nat) : Bool := bitOf v 127
/-- An entry that TLBINV names. -/
def invHits (v : Nat) (e : TlbEntry) : Bool :=
  let vpn := field v 16 39
  let n := field v 64 32
  let lo := if e.large then e.vpn * 0x2000 else e.vpn
  let hi := if e.large then lo + 0x2000 else lo + 1
  e.space == field v 112 8 && (bitOf v 126 || (vpn < hi && lo < vpn + n))
def StreamTlb.drop (t : StreamTlb) (v : Nat) : StreamTlb :=
  { t with cur := t.cur.filter (fun e => !invHits v e), nxt := t.nxt.filter (fun e => !invHits v e) }
def Walk.drop (w : Walk) (v : Nat) : Walk :=
  { w with fill := w.fill.filter (fun e => !invHits v e), stlb := w.stlb.map (fun t => t.drop v) }
/-- Every C TLB and stream TLB of a core, and what a walk in progress would install, drops its matching entries. -/
def Core.invalidate (c : Core) (v : Nat) : Core :=
  { c with ctlb := c.ctlb.filter (fun e => !invHits v e), c := { c.c with walk := c.c.walk.map (fun w => w.drop v) },
           q := { c.q with tlb := c.q.tlb.map (fun t => t.drop v), walk := c.q.walk.map (fun w => w.drop v) } }

/-- The C stream has made translations that it has not used up: in phase 1 of commit, for its next overlay, in a load (14 R311). -/
def Core.holdsPages (c : Core) : Bool := c.c.walk.isSome || c.c.ovl.isSome || c.load.isSome

/-- The elements that a copy command moves next are reckoned again where a page of its ends is dropped. -/
def CCmd.invalidate (m : CCmd) (v : Nat) : CCmd :=
  if m.pages.any (fun g => g.entry.any (invHits v)) then
    { m with due := 0, pages := m.pages.filter (fun g => !g.entry.any (invHits v)) }
  else m
/-- The cycle until which data come that a core's C loads, and the matrix array of its tile, have read: the array reads its operands in the
start cycle of a command (notes/assumptions/21.md). -/
def State.dataTill (s : State) (core : Nat) : Nat :=
  let loads := (s.core core).c.ready.map (fun e => e.2)
  let mx := ((s.mx (tileOf core)).cmds.filter (fun m => m.st == .running)).map (fun m => m.start + (m.dur - m.length))
  (loads ++ mx).foldl max 0

/-- TLBINV_GO: the entries are dropped on every tile of SPACE, in the stream TLBs of its load pipes and copy channels and in the pages of
its copy commands too; GO stays while accesses translated before are under way. -/
def execTlbinvGo (s : State) : Res :=
  match s.ev with
  | .tlbinvGo k =>
    let v := (s.die k).tlbinv
    if !invGo v then .next s
    else
      let s : State := { s with tiles := s.tiles.map (fun (n, t) =>
        (n, if t.space == field v 112 8 then
            { t with etlb := t.etlb.map (fun x => x.drop v), cp := { t.cp with cmds := t.cp.cmds.map (fun m => m.invalidate v) } }
          else t)) }
      let ours := s.cores.filter (fun e => (s.tile (tileOf e.1)).space == field v 112 8)
      let s := ours.foldl (fun s e => s.modCore e.1 (fun c => c.invalidate v)) s
      let under := ours.map (fun e => (e.1, e.2.q.nextId + (if e.2.q.walk.isSome then 2 else 0), e.2.holdsPages, e.2.q.walk.isSome))
      let till := ours.foldl (fun t e => max t (s.dataTill e.1)) 0
      .next ((s.modDie k (fun d => { d with inval := under, invTill := till })).after 1 (.tlbinvComplete k))
  | _ => .next s

/-- The accesses of a core that an invalidation waits for have completed: scalar stores and queue accesses issued before, a queue
word, a C run and an overlay load that had translated. -/
def State.invDone (s : State) (x : Nat × Nat × Bool × Bool) : Bool :=
  let c := s.core x.1
  (c.cst ++ c.q.wr).all (fun w => x.2.1 ≤ w.id) && c.q.ld.toList.all (fun l => l.all (fun e => x.2.1 ≤ e.id || e.ready.isSome))
    && (!x.2.2.1 || !c.holdsPages) && (!x.2.2.2 || c.q.walk.isNone)

/-- TLBINV_COMPLETE: GO falls. -/
def execTlbinvComplete (s : State) : Res :=
  match s.ev with
  | .tlbinvComplete k =>
    let d := s.die k
    if !invGo d.tlbinv then .next s
    else if d.invTill ≤ s.now && d.inval.all s.invDone then .next (s.setDie k { d with tlbinv := minus d.tlbinv (2 ^ 127), inval := [] })
    else
      let d := { d with inval := d.inval.filter (fun x => !s.invDone x) }
      .next ((s.setDie k d).after 1 s.ev)
  | _ => .next s

end Sys2Proof.Machine
end

