-- ==== Sys2Proof/Machine/Beats.lean ====
section
/-! DEFINITION. Heartbeats, votes, quorum, fences, appeals (17), and suspect scores (18 R378 to R380). -/

namespace Sys2Proof.Machine

/-! The mesh (17 R359). -/

def neighbours (t : Nat) : List Nat := (List.range 4).filterMap (neighbour t)
/-- The direction in which a tile sees its neighbour. -/
def dirTo (t u : Nat) : Option Nat := (List.range 4).find? (fun d => neighbour t d == some u)

def State.hb (s : State) (t : Nat) : Hbu := (s.tile t).hb
def State.setHb (s : State) (t : Nat) (h : Hbu) : State := s.modTile t (fun ti => { ti with hb := h })
def Hbu.at_ (h : Hbu) (d : Nat) : Nbr := h.nbr.getD d Nbr.fresh
def Hbu.put (h : Hbu) (d : Nat) (n : Nbr) : Hbu := { h with nbr := h.nbr.setIfInBounds d n }
def Hbu.missmax (h : Hbu) : Nat := field h.cfg 0 4
def Hbu.injcap (h : Hbu) : Nat := field h.cfg 4 18
def Hbu.veto (h : Hbu) (d : Nat) : Bool := bitOf h.cfg (24 + d)
/-- HBC (17 R358). -/
def State.hbc (s : State) : Nat := match s.hbc0 with | some z => s.now - z | none => 0
def State.eclipsed (s : State) (t : Nat) : Bool := s.fencedC.contains t || s.fencedR.contains t

/-! The beat flit (17 R359). -/

/-- Bits [511:32] of a beat in their places. -/
def beatBody (b : Beat) : Nat :=
  b.sig * 2 ^ 448 + b.acc * 2 ^ 112 + b.lift * 2 ^ 108 + b.inj * 2 ^ 86 + b.susp * 2 ^ 78 + b.status * 2 ^ 70 + b.seq * 2 ^ 48
    + b.tile * 2 ^ 40 + b.kind * 2 ^ 32
/-- CRC-32C over bits [511:32], 60 bytes little-endian. -/
def flitCrc (v : Nat) : Nat := (crc32c ((List.range 60).map (fun i => BitVec.ofNat 8 (v / 2 ^ (32 + 8 * i))))).toNat
/-- The 64-byte flit. -/
def beatFlit (b : Beat) : Nat := beatBody b + flitCrc (beatBody b)
/-- What a receiver reads from a flit; `crcOk` also says that the reserved fields are zero. -/
def beatOfFlit (v : Nat) : Beat :=
  { tile := field v 40 8, kind := field v 32 8, seq := field v 48 16, acc := field v 112 8, lift := field v 108 4,
    status := field v 70 8, susp := field v 78 8, inj := field v 86 18, sig := field v 448 64,
    crcOk := field v 0 32 == flitCrc v && field v 120 328 == 0 && field v 104 4 == 0 && field v 64 6 == 0 && field v 73 5 == 0 }

/-! Beats (17 R358 to R360). -/

/-- ACC and LIFT of a unit's beat. -/
def Hbu.acc (h : Hbu) : Nat := ((List.range 4).map (fun d => (if (h.at_ d).vote = 2 then (h.at_ d).level else 0) * 4 ^ d)).sum
def Hbu.lift (h : Hbu) : Nat := ((List.range 4).map (fun d => b2n (h.at_ d).lift * 2 ^ d)).sum
/-- The tile asks to be fenced: its matrix array, its copy engine or all its cores are quarantined (18 R380). -/
def Suspects.fenceReq (p : Suspects) : Bool :=
  p.quar.getD 4 false || p.quar.getD 5 false || (List.range 4).all (fun k => p.quar.getD k false)
/-- FENCEREQ is in the beats from the epoch after the quarantine (18 R380). -/
def Suspects.asks (p : Suspects) (now : Nat) : Bool := p.fenceReq && p.reqAt ≤ now
/-- Nothing but the heartbeat units sends flits: no context has started since the start, and no engine, home or launch unit has anything to
do. -/
def State.silent (s : State) : Bool :=
  s.cores.all (fun e => e.2.mode == .free && e.2.ctx == 0) && s.waiters.isEmpty && s.saves.isEmpty
    && s.tiles.all (fun e => e.2.cp.cmds.isEmpty && e.2.mx.cmds.isEmpty && e.2.merges.isEmpty)
    && s.dies.all (fun e => e.2.arms.isEmpty && e.2.childq.isEmpty)
/-- The flits that the model does not make, of a class group of a tile in the last 65,536 cycles: a free number (notes/assumptions/16.md). -/
def State.moreFlits (s : State) (k : Nat) : Nat := if s.silent then 0 else (Config.freeFlits k s.now).toNat
/-- INJ: the unit's own beats and vote flits of the last 65,536 cycles with the tile's other flits, saturating (17 R359). -/
def State.injOf (s : State) (t : Nat) : Nat :=
  min (2 ^ 18 - 1) ((((s.hb t).sent.filter (fun e => s.now < e.1 + 65536)).map (fun e => e.2)).sum + s.moreFlits t)
/-- The beat of a tile. -/
def State.beatOf (s : State) (t : Nat) : Beat :=
  let h := s.hb t
  let p := (s.tile t).susp
  { tile := t, kind := if h.appealing then 2 else 1, seq := h.seqOut, acc := h.acc, lift := h.lift,
    status := b2n h.selfFail + 2 * b2n (p.asks s.now) + 4 * b2n (h.self ≠ 0),
    susp := p.score.toList.foldl max 0, inj := s.injOf t, sig := if h.appealing then h.sigOut else 0, crcOk := true }

/-- A port that is closed: a unit on one of its sides has fenced the other at router level (17 R366). -/
def State.closed (s : State) (t d : Nat) : Bool :=
  match neighbour t d with
  | some u => ((s.hb t).at_ d).fence = 2 || ((s.hb u).at_ ((d + 2) % 4)).fence = 2
  | none => true
/-- Tiles that a flit of t reaches in at most n hops through open ports, passing through no tile of a list (17 R360, R366). -/
def State.flood (s : State) (bad : List Nat) (t : Nat) : Nat → List Nat
  | 0 => [t]
  | n + 1 =>
    let r := s.flood bad t n
    (List.range 256).filter (fun u => r.contains u || (List.range 4).any (fun d =>
      match neighbour u d with | some v => r.contains v && (v == t || !bad.contains v) && !s.closed u d | none => false))
/-- The route of a vote flit from t to u: its hops and the direction from which u receives it. -/
def State.voteRoute (s : State) (bad : List Nat) (t u : Nat) : Option (Nat × Nat) :=
  match (List.range 32).find? (fun n => (s.flood bad t (n + 1)).contains u) with
  | none => none
  | some n =>
    let r := s.flood bad t n
    ((List.range 4).find? (fun d =>
      match neighbour u d with | some v => r.contains v && (v == t || !bad.contains v) && !s.closed u d | none => false)).map
      (fun d => (n + 1, d))
/-- The tiles that a beat accuses. -/
def beatAccused (b : Beat) : List Nat := (List.range 4).filterMap (fun d => if b.acc / 4 ^ d % 4 = 0 then none else neighbour b.tile d)
/-- The direction in which a tile last passes a flit on, x first, to u: where u receives it from. -/
def lastHop (t u : Nat) : Nat :=
  if tileY t < tileY u then 3 else if tileY u < tileY t then 1 else if tileX t < tileX u then 2 else 0
/-- Where a vote flit of a tile arrives: its time, the tile, the port. Without a route it reaches the closed port of a neighbour
and goes no further. -/
def State.voteTo (s : State) (b : Beat) (t u : Nat) : Option (Nat × Nat × Nat) :=
  let bad := beatAccused b ++ s.fencedR
  if bad.isEmpty then some (6 + 2 * Machine.hops t u, u, lastHop t u)
  else
    match s.voteRoute bad t u with
    | some (n, d) => some (6 + 2 * n, u, d)
    | none =>
      ((List.range 4).find? (fun d => (neighbour t d).isSome && ((s.hb t).at_ d).fence ≠ 2 && s.closed t d)).bind (fun d =>
        (neighbour t d).map (fun m => (8, m, (d + 2) % 4)))

/-- The direction in which a vote flit of a tile leaves it. -/
def State.firstPort (s : State) (b : Beat) (t u : Nat) : Option Nat :=
  let bad := beatAccused b ++ s.fencedR
  if bad.isEmpty then some (firstHop t u)
  else (s.voteRoute bad t u).bind (fun r => (List.range 4).find? (fun d =>
    match neighbour t d with | some v => !s.closed t d && !bad.contains v && (s.flood bad v (r.1 - 1)).contains u | none => false))
/-- A neighbour passes on a vote flit: its port counts a flit that the tile originates, eight cycles after it left (17 R361). -/
def State.passOn (s : State) (t d : Nat) : State :=
  match neighbour t d with
  | none => s
  | some m => let n := (s.hb m).at_ ((d + 2) % 4); s.setHb m ((s.hb m).put ((d + 2) % 4) { n with injS := n.injS ++ [s.now + 8] })

/-- BEAT_SEND: the beats of an epoch, tile after tile in one cycle, to each neighbour that the tile has not fenced at router level,
and the vote flits to every tile within three hops. After the last tile come the epoch's judge point and the next epoch. -/
def execBeatSend (s : State) : Res :=
  match s.ev with
  | .beatSend t =>
    let h := s.hb t
    let b := s.beatOf t
    let flit := beatFlit b
    let vote := beatFlit { b with kind := 3 }
    let sends := (List.range 4).filterMap (fun d =>
      match neighbour t d with
      | some u => if (h.at_ d).fence = 2 then none else some (8, Event.beatReceive u ((d + 2) % 4) flit)
      | none => none)
    let votes := ((List.range 256).filter (fun u => u != t && hops t u ≤ 3)).filterMap (fun u =>
      (s.voteTo b t u).map (fun e => (e.1, Event.beatReceive e.2.1 e.2.2 vote)))
    let s := (sends ++ votes).foldl (fun s e => s.after e.1 e.2) s
    let far := ((List.range 256).filter (fun u => 1 < hops t u && hops t u ≤ 3)).filterMap (s.firstPort b t)
    let s := far.foldl (fun s d => s.passOn t d) s
    let sent := (h.sent.filter (fun e => s.now < e.1 + 65536)) ++ [(s.now, sends.length + votes.length)]
    let s := s.setHb t { h with seqOut := (h.seqOut + 1) % 2 ^ 16, sent := sent }
    .next (if t < 255 then s.at_ s.now (.beatSend (t + 1)) else (s.after 2048 .judgePoint).after 4096 (.beatSend 0))
  | _ => .next s

/-- ACC 3 means nothing. -/
def beatAccOk (b : Beat) : Bool := (List.range 4).all (fun d => b.acc / 4 ^ d % 4 != 3)

/-- BEAT_RECEIVE: a flit of a heartbeat unit on a port. The port counts what its neighbour originates (17 R361); a closed port takes
an APPEAL and drops and counts the rest (17 R366, R370); what comes after the judge point is discarded (17 R358); a malformed vote
flit is dropped and accuses nobody (17 R360). -/
def execBeatReceive (s : State) : Res :=
  match s.ev with
  | .beatReceive t dir flit =>
    let b := beatOfFlit flit
    let h := s.hb t
    let n := h.at_ dir
    let n := if neighbour t dir == some b.tile then { n with injS := n.injS ++ [s.now] } else n
    let ok := b.crcOk && 1 ≤ b.kind && b.kind ≤ 3 && beatAccOk b
    if n.fence = 2 ∧ b.kind ≠ 2 then .next (s.setHb t (h.put dir { n with drops := min 65535 (n.drops + 1) }))
    else if 2048 ≤ s.hbc % 4096 then .next (s.setHb t (h.put dir n))
    else if b.kind = 3 then .next (s.setHb t { h.put dir n with votes := if ok then h.votes ++ [b] else h.votes })
    else
      let ok := ok && neighbour t dir == some b.tile
      .next (s.setHb t (h.put dir { n with beats := n.beats ++ [{ b with crcOk := ok }] }))
  | _ => .next s

/-! Judging a neighbour (17 R361, R363). -/

/-- What an epoch's evidence says: levels 0 none, 1 compute, 2 router. -/
structure Judged where
  level : Nat
  miss  : Bool
  clean : Bool
  deriving DecidableEq, Repr

/-- The most flits a link carries in 65,536 cycles (17 R362). -/
def linkFlits : Nat := 0x2_0000
/-- The beats of a neighbour against its sequence, its flits and the limits; `miss` is its count with this epoch. `more` is what the
neighbour has sent of the compute and of the service classes beside the flits that the model makes; no link carries more than it can. -/
def judge (h : Hbu) (n : Nbr) (now : Nat) (more : Nat × Nat) : Judged :=
  let wf := n.beats.filter (fun b => b.crcOk)
  let inSeq := match n.seq, wf with | some q, b :: _ => b.seq == (q + 1) % 2 ^ 16 | _, _ => true
  let many (l : List Nat) (x : Nat) : Bool :=
    let own := (l.filter (fun c => now < c + 65536)).length
    h.injcap < max own (min linkFlits (own + x))
  let router := n.beats.any (fun b => !b.crcOk) || !inSeq || 1 < n.beats.length || n.badR || many n.injS more.2
    || (wf.isEmpty && h.missmax ≤ n.miss + 1)
  let compute := n.badC || many n.injC more.1 || wf.any (fun b => bitOf b.status 0 || bitOf b.status 1)
  ⟨if router then 2 else if compute then 1 else 0, wf.isEmpty, !router && !compute && wf.length == 1⟩

/-- The vote toward a neighbour after an epoch. -/
def Nbr.vote_ (n : Nbr) (j : Judged) : Nbr :=
  let miss := if j.clean then 0 else if j.miss then min 15 (n.miss + 1) else n.miss
  let clean := if j.clean then min 64 (n.clean + 1) else 0
  let n := { n with miss := miss, clean := if n.fence = 0 then clean else n.clean }
  if 0 < j.level then { n with vote := 2, level := max j.level (if n.vote = 2 then n.level else 0) }
  else if n.held then n
  else match n.vote with
    | 0 => if j.miss then { n with vote := 1 } else n
    | 1 => if j.clean then { n with vote := 0 } else n
    | _ => if j.clean && 16 ≤ clean && n.fence = 0 then { n with vote := 0, level := 0 } else n

/-- Probation of a fenced neighbour (17 R371). The first APPEAL beat whose signature matches starts it, and its epoch counts when it
is clean; a mismatch ends the appeal. From then on a clean epoch with such a beat counts, and anything else ends the appeal: its
later beats start nothing (notes/assumptions/28.md, DEDUCED). -/
def Nbr.probation (h : Hbu) (d : Nat) (n : Nbr) (j : Judged) : Nbr :=
  if n.fence = 0 then n else
  let expect := if n.fence = 2 then field h.sigs 64 64 else field h.sigs 0 64
  let appeal := n.beats.any (fun b => b.crcOk && b.kind == 2)
  let good := n.beats.any (fun b => b.crcOk && b.kind == 2 && b.sig == expect)
  if good && !n.spent && (j.clean || !n.prob) then
    let clean := min 64 ((if n.prob then n.clean else 0) + b2n j.clean)
    { n with prob := true, clean := clean, lift := clean = 64 && !h.veto d }
  else { n with prob := false, clean := 0, lift := false, spent := n.spent || n.prob || appeal }

/-- The evidence of an epoch is gone; the last beat sets the expected sequence. -/
def Nbr.clear (n : Nbr) (now : Nat) : Nbr :=
  let last := (n.beats.filter (fun b => b.crcOk)).getLast?
  { n with seq := match last with | some b => some b.seq | none => n.seq, beats := [], badC := false, badR := false,
           injC := n.injC.filter (fun c => now < c + 65536), injS := n.injS.filter (fun c => now < c + 65536) }

/-! Quorum (17 R364, R365, R371). -/

/-- What a tile knows of an epoch's beats: its neighbours', the vote flits it received, and its own. -/
def State.known (s : State) (h : Nat) : List Beat :=
  let u := s.hb h
  (s.beatOf h) :: (u.votes ++ u.nbr.toList.flatMap (fun n => n.beats.filter (fun b => b.crcOk)))
/-- The tiles, of a list, whose beat holds a field toward U that satisfies p. -/
def saying (known : List Beat) (ms : List Nat) (u : Nat) (p : Beat → Nat → Bool) : List Nat :=
  ms.filter (fun m => match dirTo m u with | some d => known.any (fun b => b.tile == m && p b d) | none => false)
def accuses (b : Beat) (d : Nat) : Bool := 0 < b.acc / 4 ^ d % 4
def accusesRouter (b : Beat) (d : Nat) : Bool := b.acc / 4 ^ d % 4 == 2
def lifts (b : Beat) (d : Nat) : Bool := bitOf b.lift d
def quorum (a l : List Nat) : Bool := l.length < 2 * a.length && 2 ≤ a.length
/-- Neighbours that exist and are not eclipsed. -/
def State.live (s : State) (u : Nat) : List Nat := (neighbours u).filter (fun m => !s.eclipsed m)

/-- The judgement of T by what a tile knows: 0 not eclipsed, 1 compute, 2 router. -/
def State.verdict (s : State) (known : List Beat) (t : Nat) : Nat :=
  let pre (u : Nat) : Bool := quorum (saying known (s.live u) u accuses) (s.live u)
  if !pre t then 0 else
  let out := (s.live t).filter (fun m => m < t && pre m)
  let l := (s.live t).filter (fun m => !out.contains m)
  let a := (saying known (s.live t) t accuses).filter (fun m => !out.contains m)
  if !quorum a l then 0 else if quorum (saying known a t accusesRouter) l then 2 else 1
/-- A quorum votes to readmit T. -/
def State.readmits (s : State) (known : List Beat) (t : Nat) : Bool := quorum (saying known (s.live t) t lifts) (s.live t)

/-! Resets and notices (17 R366 to R369). -/

/-- A tile that learns of its eclipse resets itself: every core as CORERST; for a router fence the whole tile, but for its appeal
counter and suspect scores. -/
def State.selfReset (s : State) (t level : Nat) : State :=
  let s := (List.range 4).foldl (fun s k => s.resetCore (4 * t + k) .coreReset) s
  if level < 2 then s
  else
    let s := { s with scratch := s.scratch.clear (t * 0x80_0000) 0x80_0000, accum := s.accum.clear (t * 0x40_0000) 0x40_0000 }
    s.modTile t (fun ti => { Tile.fresh with susp := ti.susp, merges := ti.merges, hb := { Hbu.fresh with appeals := ti.hb.appeals } })

def State.noticeTime (s : State) (t die : Nat) : Nat := 6 + 2 * s.hops t (128 * (die / 2) + 8 * (die % 2))
/-- A fence notice to all four die management cores. -/
def State.notify (s : State) (from_ t lev : Nat) : State :=
  (List.range 4).foldl (fun s k => s.after (s.noticeTime from_ k) (.fenceNotice k t lev (s.hbc / 4096))) s

/-- One tile's part of a judge point; `ver` and `back` are the verdict on, and the readmission of, the neighbour in a direction, by
the state before the judge point. -/
def State.judgeTile (s : State) (t : Nat) (live : Bool) (plan : List (Nat × Nat × Nat × Bool × Bool)) : State :=
  plan.foldl (fun s (d, u, ver, back, few) =>
    let h := s.hb t
    let n := h.at_ d
    let j := judge h n s.now (s.moreFlits (256 + u), s.moreFlits (512 + u))
    let m := (n.vote_ j).probation h d j
    let fence := if live then max n.fence ver else n.fence
    -- a unit whose own tile is eclipsed accuses what is eclipsed, and applies no fence
    let m := if n.fence < fence || (!live && 0 < ver && !n.held) then
        { m with fence := fence, held := true, vote := 2, level := if n.vote = 2 then max m.level 1 else max m.level ver,
                 prob := false, clean := 0, lift := false, spent := false }
      else m
    let m := if back && (0 < n.fence || n.held) then
        { m with fence := 0, held := false, vote := 0, level := 0, prob := false, clean := 0, lift := false, miss := 0 } else m
    let m := m.clear s.now
    let m := if back && (0 < n.fence || n.held) then { m with seq := none, spent := false } else m
    -- a neighbour that cannot be judged is reported once, while it is accused
    let lone := few && m.vote = 2 && m.fence = 0
    let s := s.setHb t (h.put d { m with told := lone })
    let s := if n.fence < fence && !back then s.notify t u fence else s
    if lone && !n.told then s.notify t u 0 else s) s

/-- A tile that has become unreachable: loads whose data were to come from its column fault at their streams' next words, and a matrix command
that still reads operands there stops; how far a response has come on its route no rule tells (17 R367; notes/assumptions/56.md, DESIGN
CHOICE, unsafe). -/
def State.cutOff (s : State) (t : Nat) : State :=
  let hit (l : List (Nat × Nat)) : Bool := l.any (fun e => e.1 == t && s.now < e.2)
  let s := s.cores.foldl (fun (s : State) e =>
    let s := if hit e.2.c.air then s.trapOf ⟨e.1, .c⟩ .destEclipsed 0 0 else s
    if hit e.2.q.air then s.trapOf ⟨e.1, .a⟩ .destEclipsed 0 0 else s) s
  s.tiles.foldl (fun (s : State) e =>
    match e.2.mx.cmds.find? (fun m => m.st == .running && s.now < m.start + (m.dur - m.length)
        && m.watch.any (fun w => t != e.1 &&
          ((w.1 == 2 && columnOf w.2.1 == t) || (w.1 == 3 && columnOf (homeOf w.2.1) == t)))) with
    | some m => s.at_ s.now (.matrixCommandStop e.1 Cause.destEclipsed.code m.kdone m.rowg)
    | none => s) s

/-- JUDGE_POINT: every heartbeat unit judges its neighbours from the epoch's beats and votes; fences fall and are lifted; a tile
that its neighbours' beats accuse learns it. -/
def execJudgePoint (s : State) : Res :=
  let tiles := List.range 256
  -- only a live neighbour applies a fence or reports one that it cannot judge
  let plans := tiles.map (fun t =>
    let known := s.known t
    let live := !s.eclipsed t
    (t, (List.range 4).filterMap (fun d => (neighbour t d).map (fun u =>
      (d, u, s.verdict known u, s.readmits known u, live && decide ((s.live u).length < 2)))),
     s.verdict known t, s.readmits known t))
  let s' := plans.foldl (fun t p => t.judgeTile p.1 (!s.eclipsed p.1) p.2.1) s
  -- what the fencing neighbours have agreed
  let fenced := plans.flatMap (fun p => p.2.1.filterMap (fun x => if 0 < x.2.2.1 && !s.eclipsed p.1 then some (x.2.1, x.2.2.1) else none))
  let lifted := plans.flatMap (fun p => p.2.1.filterMap (fun x =>
    if x.2.2.2.1 && s.eclipsed x.2.1 && !s.eclipsed p.1 then some x.2.1 else none))
  let levelOf (t : Nat) : Nat :=
    let was := if s.fencedR.contains t then 2 else if s.fencedC.contains t then 1 else 0
    if lifted.contains t then 0 else fenced.foldl (fun m e => if e.1 = t then max m e.2 else m) was
  let s' := { s' with fencedC := tiles.filter (fun t => levelOf t == 1), fencedR := tiles.filter (fun t => levelOf t == 2) }
  -- requests that wait at a home that has become unreachable are refused
  let lost := ((s'.waiters.map (fun w => w.key)).eraseDups).filter (fun k => k < 2 ^ 30 && s'.routerFenced (accTile k))
  let s' := lost.foldl State.wake s'
  let s' := (s'.fencedR.filter (fun t => !s.fencedR.contains t)).foldl State.cutOff s'
  let s' := plans.foldl (fun (s : State) p =>
    let t := p.1
    let h := s.hb t
    let s : State := s.setHb t { h with votes := [], self := if lifted.contains t then 0 else h.self, appealing := h.appealing && !lifted.contains t }
    let lev := p.2.2.1
    if (s.hb t).self < lev then
      let s := s.selfReset t lev
      s.setHb t { s.hb t with self := lev }
    else s) s'
  .next s'

/-- FENCE_NOTICE: it is kept for the die management core; the first of its kind acts (17 R369). -/
def execFenceNotice (s : State) : Res :=
  match s.ev with
  | .fenceNotice k t lev epoch =>
    let note := Notice.fence t lev epoch
    let seen := (List.range 4).any (fun d => (s.die d).notices.contains note)
    let s := s.modDie k (fun d => { d with notices := d.notices ++ [note] })
    if seen || lev = 0 then .next s
    else .next ((List.range 4).foldl (fun s i =>
      let core := 4 * t + i
      ((s.poisonLocks core (s.locksHeld core)).breakOrbit core).leaveRec core (some .coreReset)) s)
  | _ => .next s

/-- A request or a reply that a fence has stopped: DEST_ECLIPSED, precise for a run in phase 1 of its commit, at the stream's next
word for a load in flight, asynchronous for an engine (17 R367). -/
def State.returned (s : State) : FlitSender → State
  | .run core => if (s.core core).c.pos.phase == .commit1 then s.commitTrap core .destEclipsed 0 0 else s
  | .loadC core => s.trapOf ⟨core, .c⟩ .destEclipsed 0 0
  | .loadA core => s.trapOf ⟨core, .a⟩ .destEclipsed 0 0
  | .loadX core => s.trapOf ⟨core, .x⟩ .destEclipsed 0 0
  | .copy tile ch =>
    match (s.cp tile).current ch with
    | some m =>
      (s.cancel (fun e => e == .tailCommandComplete tile ch)).copyStop tile m .destEclipsed 0 m.elem
    | none => s
  | .matrix tile =>
    match (s.mx tile).cmds.find? (fun c => c.st == .running || c.st == .acquiring) with
    | some c => s.at_ s.now (.matrixCommandStop tile Cause.destEclipsed.code c.kdone c.rowg)
    | none => s

/-- FABRIC_FLIT_ARRIVAL: the port counts what a neighbour originates and what is malformed, and drops what a fence stops; a request
to what is fenced goes back to its sender (17 R361, R366, R367). -/
def execFabricFlitArrival (s : State) : Res :=
  match s.ev with
  | .fabricFlitArrival f =>
    let h := s.hb f.at_
    let n := h.at_ f.dir
    let comp := match f.cls with | .core | .copy => true | _ => false
    let n := if f.wellFormed then n else if comp then { n with badC := true } else { n with badR := true }
    let n := if neighbour f.at_ f.dir == some f.origin then
        (if comp then { n with injC := n.injC ++ [s.now] } else { n with injS := n.injS ++ [s.now] }) else n
    let dropped := n.fence = 2 || (n.fence = 1 && comp && neighbour f.at_ f.dir == some f.origin)
    let n := if dropped then { n with drops := min 65535 (n.drops + 1) } else n
    let s := s.setHb f.at_ (h.put f.dir n)
    let unreach := s.fencedR.contains f.dest || (f.toCompute && s.fencedC.contains f.dest)
    match f.sender with
    | some who => if dropped || unreach then .next (s.returned who) else .next s
    | none => .next s
  | _ => .next s

/-- SELF_TEST_DONE: an eclipsed tile appeals with its signature while its counter holds less than 3; with 3 it sends no APPEAL beats.
Its neighbours take what follows for a new appeal (17 R370, R372; notes/assumptions/28.md, DEDUCED). -/
def execSelfTestDone (s : State) : Res :=
  match s.ev with
  | .selfTestDone t sig =>
    let h := s.hb t
    if h.self = 0 then .next s
    else if 3 ≤ h.appeals then .next (s.setHb t { h with appealing := false, sigOut := 0 })
    else
      let s := s.setHb t { h with appeals := h.appeals + 1, appealing := true, sigOut := sig % 2 ^ 64 }
      .next ((List.range 4).foldl (fun s d =>
        match neighbour t d with
        | some u => let n := s.hb u; s.setHb u (n.put ((d + 2) % 4) { n.at_ ((d + 2) % 4) with spent := false, prob := false, clean := 0 })
        | none => s) s)
  | _ => .next s

/-! Suspect scores (18 R378, R379). -/

/-- A unit whose score is at or above the threshold is quarantined. -/
def Suspects.mark (p : Suspects) (now : Nat) : Suspects :=
  let q := { p with quar := Vector.ofFn (fun u => p.quar[u] || p.thresh ≤ p.score[u]) }
  if q.fenceReq && !p.fenceReq then { q with reqAt := now + 1 } else q

/-- SUSPCTL_INC: the score rises, saturating. -/
def execSuspctlInc (s : State) : Res :=
  match s.ev with
  | .suspctlInc t u inc =>
    if 6 ≤ u then .next s
    else .next (s.modTile t (fun ti =>
      let p := ti.susp
      { ti with susp := { p with score := p.score.setIfInBounds u (min 255 (p.score.getD u 0 + inc % 256)) }.mark s.now }))
  | _ => .next s

/-- SUSPCTL_CLRQ: the quarantine ends when the score is below the threshold. -/
def execSuspctlClrq (s : State) : Res :=
  match s.ev with
  | .suspctlClrq t u =>
    .next (s.modTile t (fun ti =>
      let p := ti.susp
      if u < 6 && p.score.getD u 0 < p.thresh then { ti with susp := { p with quar := p.quar.setIfInBounds u false } } else ti))
  | _ => .next s

/-- SUSPCFG_WRITE: the threshold is 1 to 200. -/
def execSuspcfgWrite (s : State) : Res :=
  match s.ev with
  | .suspcfgWrite t v =>
    let n := v.toNat % 256
    .next (s.modTile t (fun ti => { ti with susp := { ti.susp with thresh := if n = 0 then 1 else min 200 n }.mark s.now }))
  | _ => .next s

/-- SCORE_DECAY: every score that is not 0 falls by 1; quarantine stays. -/
def execScoreDecay (s : State) : Res :=
  match s.ev with
  | .scoreDecay =>
    let s := { s with tiles := s.tiles.map (fun (e : Nat × Tile) =>
      (e.1, { e.2 with susp := { e.2.susp with score := e.2.susp.score.map (fun n => n - 1) }.mark s.now })) }
    .next (s.after (2 ^ 30) .scoreDecay)
  | _ => .next s

end Sys2Proof.Machine
end

