-- ==== Sys2Proof/Machine/HostLink.lean ====
section
/-! DEFINITION. The host link, device registers, work queues, span links, starts and the clock (17 R362, R370, R373; 18 R378; 19 R381 to
R390; 12 R271, R277; 14 R302). -/

namespace Sys2Proof.Machine

/-! Functions and what they reach (19 R382, R383, R390). 0 is PF, 1 + v is VF v, 257 is die firmware (notes/assumptions/17.md). -/

def firmwareFn : Nat := 257
def Package.tilesOf (p : Package) (v : Nat) : Nat := Map.get 0 p.vftiles v
/-- The virtual function that owns a record. -/
def Package.recordVf (p : Package) (r : Nat) : Option Nat :=
  (List.range 256).find? (fun v => vfLrFirst (p.res v) ≤ r && r < vfLrFirst (p.res v) + vfLrCount (p.res v))

/-- Blocks of the register range (19 R382). -/
inductive Block
  | die (d off : Nat)
  | tile (t off : Nat)
  | queue (q off : Nat)
  | record (r off : Nat)
  | package (off : Nat)
  deriving DecidableEq, Repr

def blockOf (a : Nat) : Option Block :=
  if a < registerBase then none
  else
    let o := minus a registerBase
    if o < 4 * 0x100_0000 then some (.die (o / 0x100_0000) (o % 0x100_0000))
    else if 0x1_0000_0000 ≤ o ∧ o < 0x1_0000_0000 + 256 * 0x1_0000 then some (.tile ((minus o 0x1_0000_0000) / 0x1_0000) (o % 0x1_0000))
    else if 0x2_0000_0000 ≤ o ∧ o < 0x2_0000_0000 + 1024 * 0x100 then some (.queue ((minus o 0x2_0000_0000) / 0x100) (o % 0x100))
    else if 0x3_0000_0000 ≤ o ∧ o < 0x3_0000_0000 + 16384 * 0x100 then some (.record ((minus o 0x3_0000_0000) / 0x100) (o % 0x100))
    else if 0x4_0000_0000 ≤ o ∧ o < 0x4_0000_0000 + 0x5000 then some (.package (minus o 0x4_0000_0000))
    else none

/-- The reason a function may not reach an address: 2 outside its BARs, 4 a block not assigned to it. -/
def State.barReason (s : State) (fn a : Nat) : Option Nat :=
  if fn = firmwareFn then none
  else if fn = 0 then
    if a < apertureEnd then (if (dpaPlace a).isSome then none else some 2)
    else if (blockOf a).isSome then none else some 2
  else
    let mine (t : Nat) : Bool := bitOf (s.pkg.tilesOf (fn - 1)) t
    if inDram a then (if mine (columnOf a) then none else some 2)
    else if inAperture a then (if mine (columnOf (homeOf a)) then none else some 2)
    else match blockOf a with
      | some (.queue q _) => if s.pkg.queueVf q = some (fn - 1) then none else some 4
      | some (.record r _) => if s.pkg.recordVf r = some (fn - 1) then none else some 4
      | some _ => some 4
      | none => some 2

/-- HOSTERR logs the first refusal since VALID was cleared, and OVER stands until a one is written to it; every refusal completes with
Completer Abort (19 R381, R390). -/
def State.refuseHost (s : State) (fn a reason : Nat) : State :=
  if fn = firmwareFn then s else
  let e := s.pkg.hosterr
  let e := if bitOf e 63 then setField e 62 1 1 else 2 ^ 63 + field e 62 1 * 2 ^ 62 + reason * 2 ^ 57 + fn % 512 * 2 ^ 48 + a % 2 ^ 48
  ({ s with pkg := { s.pkg with hosterr := e } }).tellHost (.abort fn)

/-- While a start is in progress, and in the safe state, only the package block answers the host link (19 R386, R390); firmware goes its
own way (17 R373). -/
def State.answers (s : State) (a : Nat) : Bool :=
  !(s.pkg.go || s.pkg.safe) || (match blockOf a with | some (.package _) => true | _ => false)

/-! Registers, in words of 64 bits. -/

def half (n k : Nat) : Nat := field n (64 * k) 64
def setHalf (n k v : Nat) : Nat := setField n (64 * k) 64 v

/-- A neighbour's entry of HBSTAT (17 R373). -/
def Nbr.stat (n : Nbr) : Nat :=
  n.vote + 4 * n.level + 16 * n.fence + 64 * b2n n.prob + 256 * (n.miss % 16) + 4096 * (n.clean % 128)
def Hbu.stat (h : Hbu) : Nat :=
  ((List.range 4).map (fun d => (h.at_ d).stat * 2 ^ (24 * d))).sum + h.appeals * 2 ^ 96 + b2n (h.self ≠ 0) * 2 ^ 98 + h.self * 2 ^ 99
def Hbu.dropWord (h : Hbu) : Nat := ((List.range 4).map (fun d => (h.at_ d).drops * 2 ^ (16 * d))).sum
def Suspects.word (p : Suspects) : Nat :=
  ((List.range 6).map (fun u => p.score.getD u 0 * 2 ^ (8 * u) + b2n (p.quar.getD u false) * 2 ^ (48 + u))).sum
/-- LCFG with ARMFREE (14 R302). -/
def Die.lcfgWord (d : Die) : Nat := setField d.lcfg 16 11 d.armFree
/-- The third failure forces the next start to be cold; BOOTSTAT (19 R386). -/
def Package.bootstat (p : Package) : Nat := p.fails + 4 * b2n p.safe
def Package.rstctl (p : Package) : Nat := b2n p.warm + 2 * b2n p.keep + b2n p.go * 2 ^ 63

/-- A register word as read; offsets that hold no register read as zero (notes/assumptions/17.md). -/
def State.regWord (s : State) : Block → Nat
  | .die d off =>
    let k := off % 16 / 8
    match off / 16 with
    | 0 => half (s.die d).tlbinv k
    | 1 => half (s.die d).cmpcfg k
    | 2 => half (s.die d).lcfgWord k
    | 3 => if k = 0 then (s.die d).albdrop else 0
    | _ => 0
  | .tile t off =>
    let ti := s.tile t
    match off / 8 with
    | 0 => ti.pgroot.toNat
    | 1 => ti.hb.cfg
    | 2 => half ti.hb.sigs 0
    | 3 => half ti.hb.sigs 1
    | 4 => half ti.hb.stat 0
    | 5 => half ti.hb.stat 1
    | 6 => ti.hb.dropWord
    | 7 => ti.susp.word
    | 9 => ti.susp.thresh
    | 10 => ti.brk.getD 0 0
    | 11 => ti.brk.getD 1 0
    | 12 => ti.brk.getD 2 0
    | 13 => ti.brk.getD 3 0
    | _ => 0
  | .queue q off =>
    let w := s.wq q
    match off / 8 with
    | 0 => w.base
    | 1 => w.log
    | 2 => w.sub
    | 3 => w.cons
    | 4 => b2n w.stop * 2 ^ 63 + w.cause * 2 ^ 32 + w.rcd
    | 5 => w.done
    | _ => 0
  | .record r off => recNumOf (s.rcd r).img (off / 8 * 8) 8
  | .package off =>
    match off / 8 with
    | 0 => s.pkg.pkgid
    | 1 => s.pkg.rstctl
    | 2 => s.pkg.bootstat
    | 3 => s.pkg.pwrcap
    | 4 => s.pkg.spanstat
    | 5 => s.pkg.hosterr
    | 6 => s.pkg.routebase
    | _ =>
      if 0x3000 ≤ off ∧ off < 0x4000 then half (s.pkg.res ((off - 0x3000) / 16)) (off % 16 / 8)
      else if 0x1000 ≤ off ∧ off < 0x3000 then half (s.pkg.tilesOf ((off - 0x1000) / 32)) (off % 32 / 8)
      else 0

/-- The word holds no field that a write may change (19 R381). -/
def readOnly : Block → Bool
  | .die _ off => off / 8 == 6
  | .tile _ off => off / 8 == 4 || off / 8 == 5 || off / 8 == 7
  | .queue _ off => off / 8 == 3 || off / 8 == 5
  | .record _ _ => false
  | .package off => off / 8 == 2 || off / 8 == 4

/-- What a byte that a narrower write leaves out counts as: the word's own bytes, or zero where a one is a command. -/
def State.writeBase (s : State) (b : Block) : Nat :=
  match b with
  | .queue _ off => if off / 8 = 4 then 0 else s.regWord b
  | .package off => if off / 8 = 5 then 0 else s.regWord b
  | _ => s.regWord b

/-! Writes of the blocks. -/

def State.postNow (s : State) (e : Event) : State := s.at_ s.now e

/-- TLBINV, CMPCFG and LCFG (12 R271, R277; 14 R302). A write of TLBINV during an invalidation has no effect. -/
def State.writeDie (s : State) (k off v : Nat) : State :=
  let d := s.die k
  match off / 8 with
  | 0 => if invGo d.tlbinv then s else s.setDie k { d with tlbinv := setHalf d.tlbinv 0 (field v 16 39 * 2 ^ 16) }
  | 1 =>
    if invGo d.tlbinv then s
    else
      let s := s.setDie k { d with tlbinv := setHalf d.tlbinv 1 (field v 0 32 + field v 48 8 * 2 ^ 48 + field v 62 2 * 2 ^ 62) }
      if bitOf v 63 then s.postNow (.tlbinvGo k) else s
  | 2 => s.setDie k { d with cmpcfg := setHalf d.cmpcfg 0 (setField v 10 6 0) }.checkLow
  | 3 => s.setDie k { d with cmpcfg := setHalf d.cmpcfg 1 v }.checkLow
  | 4 => s.setDie k { d with lcfg := setHalf d.lcfg 0 (field v 0 1 + field v 32 16 * 2 ^ 32) }
  | 5 => s.setDie k { d with lcfg := setHalf d.lcfg 1 v }
  | _ => s

/-- HBCFG: MISSMAX 2 to 15, INJCAP at least 1 (17 R362). -/
def hbcfgWord (v : Nat) : Nat := max 2 (field v 0 4) + max 1 (field v 4 18) * 2 ^ 4 + field v 24 4 * 2 ^ 24

def State.writeTile (s : State) (t off v : Nat) : State :=
  let hb (f : Hbu → Hbu) : State := s.modTile t (fun ti => { ti with hb := f ti.hb })
  let brk (c : Nat) : State :=
    s.modTile t (fun ti => { ti with brk := ti.brk.setIfInBounds c (field v 0 14 + field v 61 3 * 2 ^ 61) })
  match off / 8 with
  | 0 => s.modTile t (fun ti => { ti with pgroot := BitVec.ofNat 64 (field v 16 40 * 2 ^ 16) })
  | 1 => hb (fun h => { h with cfg := hbcfgWord v })
  | 2 => hb (fun h => { h with sigs := setHalf h.sigs 0 v })
  | 3 => hb (fun h => { h with sigs := setHalf h.sigs 1 v })
  | 6 => hb (fun h => { h with nbr := h.nbr.map (fun n => { n with drops := 0 }) })
  | 8 =>
    if field v 12 52 ≠ 0 ∨ 6 ≤ field v 8 3 then s
    else
      let s := s.postNow (.suspctlInc t (field v 8 3) (field v 0 8))
      if bitOf v 11 then s.postNow (.suspctlClrq t (field v 8 3)) else s
  | 9 => s.postNow (.suspcfgWrite t (BitVec.ofNat 64 v))
  | 10 => brk 0
  | 11 => brk 1
  | 12 => brk 2
  | 13 => brk 3
  | _ => s

def State.writeQueue (s : State) (fn q off v : Nat) : State :=
  let w := s.wq q
  match off / 8 with
  | 0 => s.setWq q { w with base := field v 6 42 * 2 ^ 6 }
  | 1 => s.setWq q { w with log := field v 0 5 }
  | 2 => s.postNow (.workQueueSubmit fn q (field v 0 32))
  | 4 => if bitOf v 63 then s.postNow (.workQueueResume q) else s
  | _ => s

/-- A record as the host and firmware write it. One that becomes ARMED enters its die's arm list, one that is no longer ARMED
leaves it; one that becomes DONE or FAULTED counts, once, for the queue that armed it (14 R297, R301, R302; 19 R384). Firmware rolls back
no record of which a context has had EFFECT set: the record stays as it is, on the way over another state too (16 R356, 19 R388;
notes/assumptions/17.md). -/
def State.writeRecord (s : State) (fn r off v : Nat) : State :=
  let x := s.rcd r
  let was := recState x.img
  let img := setRecNum x.img (off / 8 * 8) 8 v
  let effect := x.effect || x.live.any (fun n => bitOf ((s.core n).sysReg 7).toNat 2)
  let img := if fn = firmwareFn && effect && recState img != was && (was == 5 || recState img == 2) then setRecState img was else img
  let is_ := recState img
  let counts := x.wq.isSome && was != is_ && (is_ == 4 || is_ == 5)
  let s := s.setRcd r (if was ≠ 2 ∧ is_ = 2 then { x with img := img, wq := none, effect := false }
    else { x with img := img, wq := if counts then none else x.wq, effect := x.effect && is_ != 4 })
  let s :=
    if was ≠ 2 ∧ is_ = 2 then s.modDie (recDie r) (fun d => { d with arms := d.arms ++ [⟨r, s.now, none, 0, []⟩] })
    else if was = 2 ∧ is_ ≠ 2 then
      s.modDie (recDie r) (fun d => { d with arms := d.arms.filter (fun a => a.r != r), childq := d.childq.filter (fun c => c != r) })
    else s
  match x.wq with
  | some q => if counts then s.wqDone q else s
  | none => s

def State.setPkg (s : State) (p : Package) : State := { s with pkg := p }
def State.writePackage (s : State) (off v : Nat) : State :=
  let p := s.pkg
  match off / 8 with
  | 0 => s.setPkg { p with pkgid := field v 0 12 }
  | 1 =>
      let p := { p with warm := bitOf v 0, keep := bitOf v 1 }
      if bitOf v 63 && !p.go then (s.setPkg { p with go := true }).postNow (if p.warm && p.fails < 3 then .warmStart else .coldStart)
      else s.setPkg p
  | 3 => s.postNow (.pwrcapWrite (field v 0 16))
  | 5 =>
    let e := p.hosterr
    let e := if bitOf v 62 then setField e 62 1 0 else e
    s.setPkg { p with hosterr := if bitOf v 63 then setField e 63 1 0 else e }
  | 6 => s.setPkg { p with routebase := field v 12 36 * 2 ^ 12 }
  | _ =>
    if 0x3000 ≤ off ∧ off < 0x4000 then
      let i := (off - 0x3000) / 16
      let k := off % 16 / 8
      s.setPkg { p with vfres := Map.put 0 p.vfres i (setHalf (p.res i) k (if k = 0 then field v 0 21 else field v 0 29)) }
    else if 0x1000 ≤ off ∧ off < 0x3000 then
      let i := (off - 0x1000) / 32
      s.setPkg { p with vftiles := Map.put 0 p.vftiles i (setHalf (p.tilesOf i) (off % 32 / 8) v) }
    else s

/-- One word of a register block is written. -/
def State.writeReg (s : State) (fn : Nat) (b : Block) (v : Nat) : State :=
  match b with
  | .die d off => s.writeDie d off v
  | .tile t off => s.writeTile t off v
  | .queue q off => s.writeQueue fn q off v
  | .record r off => s.writeRecord fn r off v
  | .package off => s.writePackage off v

/-- SAVEVA and WDLIMIT of a core, which firmware alone writes (16 R350, R351), at addresses of the model's own past 48 bits
(notes/assumptions/17.md): core in bits 12 up, system register index in bits 3 up. -/
def State.writeCoreReg (s : State) (a v : Nat) : State :=
  let core := a % 2 ^ 22 / 2 ^ 12
  let i := a % 2 ^ 12 / 8
  if i = 0x05 then s.modCore core (fun c => c.setSys i (BitVec.ofNat 64 v))
  else if i = 0x0D then s.setWdLimit core v
  else if i = 0x1FF then s.resetCore core .coreReset
  else s
/-- The host or firmware initialises a sync object, at addresses of the model's own from 2^49 up: the object's number in bits 3 up
(10 R227; notes/assumptions/17.md). -/
def State.writeObject (s : State) (a v : Nat) : State :=
  let off := syncOff (field a 3 20)
  (s.setAccWord off 8 (SyncWord.ofNat v).toNat).wake off

/-- One aligned word of a register, written by the host or by firmware. -/
def State.regWrite (s : State) (fn a v : Nat) : State :=
  if (fn = firmwareFn ∨ fn = 0) ∧ 2 ^ 49 ≤ a then s.writeObject a v
  else if fn = firmwareFn ∧ 2 ^ 48 ≤ a then s.writeCoreReg a v
  else if fn ≠ firmwareFn ∧ !s.answers a then s
  else match s.barReason fn a with
    | some k => s.refuseHost fn a k
    | none => match blockOf (a / 8 * 8) with
      | none => s
      | some b => if readOnly b then s.refuseHost fn a 3 else s.writeReg fn b v

/-- The launch record that a write names. -/
def recordOf (a : Nat) : Option Nat := match blockOf (a / 8 * 8) with | some (.record r _) => some r | _ => none
/-- Who a function is at a record's launch unit. -/
def outsideOf (fn : Nat) : Nat := if fn = firmwareFn then 1025 else 1024
/-- Look again at what stands behind a write that waits. -/
def heldReq : HostReq := ⟨.held, 0, false, 0, 0, []⟩
/-- A write of a register; one of a launch record waits for its turn there, and what the host sends later stands behind it (05 R101,
14 R301, 19 R384). -/
def State.regWriteTurn (s : State) (fn a v : Nat) : State :=
  match recordOf a with
  | none => s.regWrite fn a v
  | some r =>
    let n := outsideOf fn
    if s.recTurn r n then (s.regWrite fn a v).leaveRecord r n
    else
      let s := s.joinRec r n
      if fn = firmwareFn then s.after 1 (.hostRegisterWrite fn a (BitVec.ofNat 64 v))
      else { s with fromHost := .hostRegisterWrite fn a (BitVec.ofNat 64 v) :: s.fromHost }.after 1 (.hostRequest heldReq)

/-- HOST_REGISTER_WRITE. What the host sends stands behind a write of its that waits (19 R384). -/
def execHostRegisterWrite (s : State) : Res :=
  match s.ev with
  | .hostRegisterWrite fn a v =>
    if fn ≠ firmwareFn ∧ s.fromHost ≠ [] then .next { s with fromHost := s.fromHost ++ [s.ev] }
    else .next (s.regWriteTurn fn a v.toNat)
  | _ => .next s

/-! Requests for memory (19 R381; 11 R248; 12 R281, R282). -/

/-- The pieces of a range that lie in one line each: start and length. -/
def linePieces : Nat → Nat → Nat → List (Nat × Nat)
  | 0, _, _ => []
  | fuel + 1, a, n => if n = 0 then [] else
      let k := min n (128 - a % 128)
      (a, k) :: linePieces fuel (a + k) (n - k)

/-- Register words of a range; a word is read whole. -/
def State.readRegs (s : State) (a n : Nat) : List Byte :=
  (List.range n).map (fun i => match blockOf ((a + i) / 8 * 8) with
    | some b => BitVec.ofNat 8 (s.regWord b / 256 ^ ((a + i) % 8))
    | none => 0)
/-- A write of registers, word after word; each goes its own way as HOST_REGISTER_WRITE. -/
def State.writeRegs (s : State) (fn a : Nat) (bytes : List Byte) : State :=
  let first := a / 8
  let last := (a + bytes.length - 1) / 8
  (List.range (last + 1 - first)).foldl (fun s i =>
    let w := (first + i) * 8
    match blockOf w with
    | none => s
    | some b =>
      let old := leBytes 8 (s.writeBase b)
      let new := old.zipIdx.map (fun x => if a ≤ w + x.2 ∧ w + x.2 < a + bytes.length then bytes.getD (w + x.2 - a) 0 else x.1)
      s.postNow (.hostRegisterWrite fn w (BitVec.ofNat 64 (leNat new)))) s

/-- The refusal of a request for memory: an address no BAR maps, a compressed home reached the wrong way. A fenced column answers as
an address no BAR maps (notes/assumptions/17.md). -/
def State.hostReason (s : State) (fn : Nat) (pieces : List (Nat × Nat)) : Option (Nat × Nat) :=
  pieces.findSome? (fun p =>
    match s.barReason fn p.1 with
    | some k => some (p.1, k)
    | none => match dpaPlace p.1 with
      | none => none
      | some pl => match s.kindRefusal pl with
        | some .compressedAccess => some (p.1, 1)
        | some _ => some (p.1, 2)
        | none => none)

/-- Write the pieces of a host write until one waits: a write to DRAM sets version 0, one through the aperture keeps it. The rest of
a write that waits comes first of what the host has sent. -/
def State.hostWrite (s : State) (fn a : Nat) (bytes : List Byte) : List (Nat × Nat) → State
  | [] => s.tellHost (.done fn)
  | (b, k) :: t =>
    match dpaPlace b with
    | none => s.hostWrite fn a bytes t
    | some pl =>
      let gver := match pl with | .dram _ => some 0 | _ => none
      match s.writePlace pl (((bytes.drop (b - a)).take k).map some) none gver none (.line b) with
      | .done s => s.hostWrite fn a bytes t
      | .refuse _ => s.hostWrite fn a bytes t
      | .wait s => { s with fromHost := .hostRequest ⟨.memory, fn, true, b, bytes.length - (b - a), bytes.drop (b - a)⟩ :: s.fromHost }.after 1
          (.hostRequest heldReq)

/-- A read of up to 4,096 bytes, a write of up to 512. -/
def State.memRequest (s : State) (r : HostReq) : State :=
  let n := if r.write then r.bytes.length else r.len
  if n = 0 ∨ (if r.write then 512 else 4096) < n ∨ (r.fn ≠ firmwareFn ∧ !s.answers r.dpa) then s
  else
    let pieces := linePieces n r.dpa n
    match s.hostReason r.fn pieces with
    | some (a, k) => s.refuseHost r.fn a k
    | none =>
      if registerBase ≤ r.dpa then
        if r.write then s.writeRegs r.fn r.dpa r.bytes else s.tellHost (.data r.fn (s.readRegs r.dpa n))
      else if r.write then s.hostWrite r.fn r.dpa r.bytes pieces
      else s.tellHost (.data r.fn (pieces.flatMap (fun p => match dpaPlace p.1 with
        | some pl => s.readPlace pl p.2
        | none => List.replicate p.2 0)))

/-- A configuration request, which always answers. The spec gives configuration space no contents: a read returns bytes of which nothing
is known, and a write of PF to the address of a tile's PGROOT writes it (12 R261, 19 R381; notes/assumptions/17.md). -/
def State.configRequest (s : State) (r : HostReq) : State :=
  if r.write then
    let s := match blockOf r.dpa with
      | some (.tile t 0) => if r.fn = 0 ∧ r.bytes.length = 8 then s.writeTile t 0 (leNat r.bytes) else s
      | _ => s
    s.tellHost (.done r.fn)
  else { s with freeCount := s.freeCount + r.len }.tellHost (.data r.fn ((List.range r.len).map (fun k => Config.freeByte (s.freeCount + k))))

/-- The oldest of what stands behind a write that waited. -/
def State.nextHeld (s : State) : State :=
  match s.fromHost with
  | [] => s
  | e :: rest =>
    let s := { s with fromHost := rest }
    let t : State := match e with
      | .hostRegisterWrite fn a v => s.regWriteTurn fn a v.toNat
      | .hostRequest r => s.memRequest r
      | _ => s
    if t.fromHost ≠ [] ∧ t.fromHost = rest then t.postNow (.hostRequest heldReq) else t

/-- HOST_REQUEST: a request of the host link. What the host sends stands behind a write of its that waits (19 R384). -/
def execHostRequest (s : State) : Res :=
  match s.ev with
  | .hostRequest r =>
    match r.kind with
    | .held => .next s.nextHeld
    | .config => .next (s.configRequest r)
    | .memory =>
      if r.fn ≠ firmwareFn ∧ s.fromHost ≠ [] then .next { s with fromHost := s.fromHost ++ [s.ev] }
      else .next (s.memRequest r)
  | _ => .next s

/-! Work queues (19 R384). -/

def State.armSoon (s : State) (q delay : Nat) : State :=
  (s.cancel (fun e => e == .workQueueEntryArm q)).after delay (.workQueueEntryArm q)

/-- WORK_QUEUE_SUBMIT: WQSUB is written. -/
def execWorkQueueSubmit (s : State) : Res :=
  match s.ev with
  | .workQueueSubmit _ q v => .next ((s.setWq q { s.wq q with sub := v % 2 ^ 32 }).armSoon q 0)
  | _ => .next s

/-- The ring entry at an index, or the refusal of its read. -/
def State.ringEntry (s : State) (w : WorkQueue) (i : Nat) : Except Cause Nat :=
  let a := w.base + 8 * (i % 2 ^ w.log)
  match dpaPlace a with
  | none => .error .reservedField
  | some pl => match s.kindRefusal pl <|> s.placeEcc pl 8 with
    | some c => .error c
    | none => .ok (leNat (s.readPlace pl 8))

/-- An entry of a virtual function's queue names a record out of its range, or one whose target lies outside its tiles. -/
def State.entryForeign (s : State) (q r : Nat) : Bool :=
  match s.pkg.queueVf q with
  | some v =>
    !(vfLrFirst (s.pkg.res v) ≤ r && r < vfLrFirst (s.pkg.res v) + vfLrCount (s.pkg.res v))
      || (tgtCores (recTgt (s.rcd r).img)).any (fun n => !bitOf (s.pkg.tilesOf v) (tileOf n))
  | none => false
/-- What an entry of a queue meets, ownership first: the cause that stops the queue, or nothing; a full arm list is a wait. -/
def State.entryRefusal (s : State) (q e : Nat) : Option Cause :=
  let r := field e 0 14
  if s.entryForeign q r then some .privilege
  else if field e 14 50 ≠ 0 then some .reservedField
  else s.armRefusal r (s.rcd r).img false (s.armsPromised (recDie r) false)

/-- The queue stops; the entry is consumed. -/
def State.stopQueue (s : State) (q : Nat) (c : Cause) (r : Nat) : State :=
  let w := s.wq q
  s.setWq q { w with stop := true, cause := c.code, rcd := r, cons := (w.cons + 1) % 2 ^ 32 }

/-- WORK_QUEUE_ENTRY_ARM: the launch unit takes the next entry: ownership first, then the fill of the ring. A record that an accepted run has
reserved, or at which others wait, lets it wait for its turn (05 R101, 14 R301). -/
def execWorkQueueEntryArm (s : State) : Res :=
  match s.ev with
  | .workQueueEntryArm q =>
    let w := s.wq q
    if w.stop ∨ w.cons = w.sub then .next s
    else if w.log < 4 ∨ 16 < w.log then .next (s.stopQueue q .reservedField 0)
    else match s.ringEntry w w.cons with
      | .error c => .next (s.stopQueue q c 0)
      | .ok e =>
        let r := field e 0 14
        if s.entryForeign q r then .next (s.stopQueue q .privilege r)
        else if 2 ^ w.log < (w.sub + 2 ^ 32 - w.cons) % 2 ^ 32 then .next (s.stopQueue q .reservedField r)
        else if !s.recTurn r q then .next ((s.joinRec r q).armSoon q 1)
        else
          let s := s.leaveRecord r q
          match s.entryRefusal q e with
          | some .launchPoolEmpty => .next (s.armSoon q 1)
          | some c => .next (s.stopQueue q c r)
          | none => .next (((s.armNow r false none (some q)).setWq q { w with cons := (w.cons + 1) % 2 ^ 32 }).armSoon q 1)
  | _ => .next s

/-- WORK_QUEUE_RESUME: STOP is cleared, the queue goes on at the next entry. -/
def execWorkQueueResume (s : State) : Res :=
  match s.ev with
  | .workQueueResume q => .next ((s.setWq q { s.wq q with stop := false }).armSoon q 0)
  | _ => .next s

/-- MSI_X_HOLDOFF_END: a change of WQDONE that waited sends the vector, and the hold begins again. -/
def execMsixHoldoffEnd (s : State) : Res :=
  match s.ev with
  | .msixHoldoffEnd q =>
    let w := s.wq q
    if s.now < w.hold ∨ !w.owed then .next s
    else
      let v := s.pkg.queueVector q
      .next (((s.setWq q { w with hold := s.now + 4096, owed := false }).tellHost (.msix v.1 v.2)).after 4096 s.ev)
  | _ => .next s

/-! Span links (19 R385; 11 R248, R252). -/

/-- SPAN_FLIT_RECEIVE: a flit whose CRC fails is sent again and does nothing; a write carries no virtual address and the version of
the sending command; an addition is a CPYR's, and so is the setting of a flag word (11 R252). -/
def execSpanFlitReceive (s : State) : Res :=
  match s.ev with
  | .spanFlitReceive f =>
    if !f.crcOk then .next s
    else match f.flag with
    | some off =>
      if s.routerFenced (accTile off) then .next s
      else .next { s with accum := s.accum.setNum off 4 (s.accum.num off 4 ||| 1) }
    | none => match f.add with
      | some (fp, off, v) =>
        if s.routerFenced (accTile off) then .next s
        else
          let cell := s.accum.num off 4
          let sum := if fp then promote cell (fp32.decode v) else wrapTo 32 (signedOf 32 cell + signedOf 32 v)
          .next { s with accum := s.accum.setNum off 4 sum }
      | none =>
        .next ((linePieces f.bytes.length f.dpa f.bytes.length).foldl (fun s p =>
          let piece := (f.bytes.drop (p.1 - f.dpa)).take p.2
          match dpaPlace p.1 with
          | none => s
          | some pl =>
            if (s.kindRefusal pl).isSome || inHost p.1 then s
            else match s.writePlace pl (piece.map some) none (match pl with | .packed _ => none | _ => some f.gver) none (.line p.1) with
              | .done s => s
              | .refuse _ => s
              | .wait s => s.after 1 (.spanFlitReceive { f with dpa := p.1, bytes := piece })) s)
  | _ => .next s

/-- The edge tile to which a span link attaches (01 R20). -/
def spanTile (link : Nat) : Nat :=
  let k := link % 8
  match link / 8 with
  | 0 => 2 * k
  | 1 => 16 * (2 * k) + 15
  | 2 => 16 * 15 + 2 * k + 1
  | _ => 16 * (2 * k + 1)
/-- SPAN_LINK_STATE: one of the 32 links is trained or is lost (01 R20). -/
def execSpanLinkState (s : State) : Res :=
  match s.ev with
  | .spanLinkState link up => if 32 ≤ link then .next s else .next (s.setPkg { s.pkg with spanstat := setField s.pkg.spanstat link 1 (b2n up) })
  | _ => .next s

/-! Starts (19 R386). -/

/-- The memory of a start: host memory and other packages stay; DRAM with its metadata and records stays where it is kept. A start that
keeps the suspect scores is a warm one; a cold one leaves WARM and KEEP at their reset values (00 R8). -/
def State.started (s : State) (keepDram keepSuspects : Bool) : State :=
  let tiles := s.tiles.map (fun (e : Nat × Tile) => (e.1, { Tile.fresh with
    hb := { Hbu.fresh with appeals := e.2.hb.appeals }
    -- cycles count from the start (01 R16)
    susp := if keepSuspects then { e.2.susp with reqAt := 0 } else Tile.fresh.susp }))
  let dies := if keepDram then s.dies.map (fun (e : Nat × Die) => (e.1, { Die.fresh with slots := e.2.slots, blocks := e.2.blocks })) else []
  let p := s.pkg
  { State.reset with
    agenda := []
    ev := s.ev
    freeCount := s.freeCount
    dram := if keepDram then s.dram else s.dram.filter (fun c => !inDram c.1)
    remote := s.remote
    lines := if keepDram then s.lines else []
    tiles := tiles
    dies := dies
    badDram := if keepDram then s.badDram else []
    recs := if keepDram then s.recs.map (fun (e : Nat × Rec) => (e.1, { Rec.fresh with img := e.2.img })) else []
    saves := if keepDram then s.saves else []
    pkg := { Package.fresh with warm := keepSuspects && p.warm, keep := keepSuspects && p.keep, go := true, fails := p.fails, safe := false, pwrcap := p.pwrcap, clock := p.clock }
    hbc0 := none
    toHost := s.toHost }

/-- POWER_ON: a cold start; appeal counters and failures are gone with the power. -/
def execPowerOn (s : State) : Res :=
  match s.ev with
  | .powerOn =>
    let t := s.started false false
    .next { t with tiles := [], pkg := { Package.fresh with go := true } }
  | _ => .next s

/-- COLD_START: DRAM is zeroed. -/
def execColdStart (s : State) : Res :=
  match s.ev with
  | .coldStart => .next (s.started false false)
  | _ => .next s

/-- WARM_START: suspect scores stay, and DRAM with KEEP; after three failures the start is cold. -/
def execWarmStart (s : State) : Res :=
  match s.ev with
  | .warmStart => .next (if s.pkg.fails < 3 then s.started s.pkg.keep true else s.started false false)
  | _ => .next s

/-- START_COMPLETE: the die management cores are ready, and heartbeats begin (17 R358); or the start has failed. A failed start that
three failures had forced to be cold leaves the safe state. -/
def execStartComplete (s : State) : Res :=
  match s.ev with
  | .startComplete ok =>
    let p := s.pkg
    if !p.go then .next s
    else if ok then
      let s := s.setPkg { p with go := false, fails := 0, safe := false }
      .next ((({ s with hbc0 := some s.now }).postNow (.beatSend 0)).postNow .scoreDecay)
    else .next (s.setPkg { p with go := false, fails := min 3 (p.fails + 1), safe := p.fails = 3 })
  | _ => .next s

/-! Power (19 R389). -/

/-- PWRCAP_WRITE: 1,200 to 2,900 watts; other values store 2,900. -/
def execPwrcapWrite (s : State) : Res :=
  match s.ev with
  | .pwrcapWrite v => .next (s.setPkg { s.pkg with pwrcap := if 1200 ≤ v ∧ v ≤ 2900 then v else 2900 })
  | _ => .next s

/-- ARITHMETIC_CLOCK_STEP: 25 MHz down, not below 425, or up, not above 850; cycle counts do not change. -/
def execArithmeticClockStep (s : State) : Res :=
  match s.ev with
  | .arithmeticClockStep up =>
    let c := s.pkg.clock
    .next (s.setPkg { s.pkg with clock := if up then min 850 (c + 25) else max 425 (c - 25) })
  | _ => .next s

end Sys2Proof.Machine
end

