-- ==== Sys2Proof/Machine/Dispatch.lean ====
section
/-! DEFINITION. One arm per row of the opcode table, each a direct call of its meaning. -/

namespace Sys2Proof.Machine

open Sys2Proof

def exec (i : Instr) (s : State) : Host.Outcome State Fault Refusal :=
  match i with
  | .add g d a b => Sys2Proof.Machine.execAdd g d a b s
  | .sub g d a b => Sys2Proof.Machine.execSub g d a b s
  | .mul g d a b => Sys2Proof.Machine.execMul g d a b s
  | .mulh g d a b => Sys2Proof.Machine.execMulh g d a b s
  | .mulhu g d a b => Sys2Proof.Machine.execMulhu g d a b s
  | .div g d a b => Sys2Proof.Machine.execDiv g d a b s
  | .divu g d a b => Sys2Proof.Machine.execDivu g d a b s
  | .rem g d a b => Sys2Proof.Machine.execRem g d a b s
  | .remu g d a b => Sys2Proof.Machine.execRemu g d a b s
  | .and g d a b => Sys2Proof.Machine.execAnd g d a b s
  | .or g d a b => Sys2Proof.Machine.execOr g d a b s
  | .xor g d a b => Sys2Proof.Machine.execXor g d a b s
  | .andn g d a b => Sys2Proof.Machine.execAndn g d a b s
  | .shl g d a b => Sys2Proof.Machine.execShl g d a b s
  | .shr g d a b => Sys2Proof.Machine.execShr g d a b s
  | .sra g d a b => Sys2Proof.Machine.execSra g d a b s
  | .min g d a b => Sys2Proof.Machine.execMin g d a b s
  | .max g d a b => Sys2Proof.Machine.execMax g d a b s
  | .minu g d a b => Sys2Proof.Machine.execMinu g d a b s
  | .maxu g d a b => Sys2Proof.Machine.execMaxu g d a b s
  | .clz g d a => Sys2Proof.Machine.execClz g d a s
  | .ctz g d a => Sys2Proof.Machine.execCtz g d a s
  | .popc g d a => Sys2Proof.Machine.execPopc g d a s
  | .sext g d a wd => Sys2Proof.Machine.execSext g d a wd s
  | .zext g d a wd => Sys2Proof.Machine.execZext g d a wd s
  | .sel g p d a b => Sys2Proof.Machine.execSel g p d a b s
  | .aadd g d a b => Sys2Proof.Machine.execAadd g d a b s
  | .asub g d a b => Sys2Proof.Machine.execAsub g d a b s
  | .amul g d a b => Sys2Proof.Machine.execAmul g d a b s
  | .aand g d a b => Sys2Proof.Machine.execAand g d a b s
  | .aor g d a b => Sys2Proof.Machine.execAor g d a b s
  | .amin g d a b => Sys2Proof.Machine.execAmin g d a b s
  | .amax g d a b => Sys2Proof.Machine.execAmax g d a b s
  | .addi g d a imm => Sys2Proof.Machine.execAddi g d a imm s
  | .andi g d a imm => Sys2Proof.Machine.execAndi g d a imm s
  | .ori g d a imm => Sys2Proof.Machine.execOri g d a imm s
  | .xori g d a imm => Sys2Proof.Machine.execXori g d a imm s
  | .shli g d a sh => Sys2Proof.Machine.execShli g d a sh s
  | .shri g d a sh => Sys2Proof.Machine.execShri g d a sh s
  | .srai g d a sh => Sys2Proof.Machine.execSrai g d a sh s
  | .li g d imm => Sys2Proof.Machine.execLi g d imm s
  | .lui g d imm => Sys2Proof.Machine.execLui g d imm s
  | .aaddi g d a imm => Sys2Proof.Machine.execAaddi g d a imm s
  | .ashli g d a sh => Sys2Proof.Machine.execAshli g d a sh s
  | .ashri g d a sh => Sys2Proof.Machine.execAshri g d a sh s
  | .ali g d imm => Sys2Proof.Machine.execAli g d imm s
  | .alui g d imm => Sys2Proof.Machine.execAlui g d imm s
  | .addiShort d imm => Sys2Proof.Machine.execAddiShort d imm s
  | .liShort d imm => Sys2Proof.Machine.execLiShort d imm s
  | .addShort d b => Sys2Proof.Machine.execAddShort d b s
  | .subShort d b => Sys2Proof.Machine.execSubShort d b s
  | .aaddiShort d imm => Sys2Proof.Machine.execAaddiShort d imm s
  | .aliShort d imm => Sys2Proof.Machine.execAliShort d imm s
  | .cmp g cc pd a b => Sys2Proof.Machine.execCmp g cc pd a b s
  | .cmpi g cc pd a imm => Sys2Proof.Machine.execCmpi g cc pd a imm s
  | .acmp g cc pd a b => Sys2Proof.Machine.execAcmp g cc pd a b s
  | .acmpi g cc pd a imm => Sys2Proof.Machine.execAcmpi g cc pd a imm s
  | .pand g pd pa pb => Sys2Proof.Machine.execPand g pd pa pb s
  | .por g pd pa pb => Sys2Proof.Machine.execPor g pd pa pb s
  | .pxor g pd pa pb => Sys2Proof.Machine.execPxor g pd pa pb s
  | .pnot g pd pa => Sys2Proof.Machine.execPnot g pd pa s
  | .pmov g pd pa => Sys2Proof.Machine.execPmov g pd pa s
  | .ld g wd r b disp => Sys2Proof.Machine.execLd g wd r b disp s
  | .st g wd r b disp => Sys2Proof.Machine.execSt g wd r b disp s
  | .lds g wd r b disp => Sys2Proof.Machine.execLds g wd r b disp s
  | .sts g wd r b disp => Sys2Proof.Machine.execSts g wd r b disp s
  | .exitC g off => Sys2Proof.Machine.execExitC g off s
  | .exitCShort g off => Sys2Proof.Machine.execExitCShort g off s
  | .exits g a => Sys2Proof.Machine.execExits g a s
  | .call g off => Sys2Proof.Machine.execCall g off s
  | .ret g => Sys2Proof.Machine.execRet g s
  | .retShort => Sys2Proof.Machine.execRetShort s
  | .dispA g narg desc entry => Sys2Proof.Machine.execDispA g narg desc entry s
  | .dispX g narg desc entry => Sys2Proof.Machine.execDispX g narg desc entry s
  | .djoin g x a => Sys2Proof.Machine.execDjoin g x a s
  | .ovswap g a => Sys2Proof.Machine.execOvswap g a s
  | .amadd g dw d a b => Sys2Proof.Machine.execAmadd g dw d a b s
  | .ammin g dw d a b => Sys2Proof.Machine.execAmmin g dw d a b s
  | .ammax g dw d a b => Sys2Proof.Machine.execAmmax g dw d a b s
  | .amand g dw d a b => Sys2Proof.Machine.execAmand g dw d a b s
  | .amor g dw d a b => Sys2Proof.Machine.execAmor g dw d a b s
  | .amxor g dw d a b => Sys2Proof.Machine.execAmxor g dw d a b s
  | .amswp g dw d a b => Sys2Proof.Machine.execAmswp g dw d a b s
  | .amcas g dw d a b => Sys2Proof.Machine.execAmcas g dw d a b s
  | .bind g o b len => Sys2Proof.Machine.execBind g o b len s
  | .unbind g o => Sys2Proof.Machine.execUnbind g o s
  | .acq g o sc => Sys2Proof.Machine.execAcq g o sc s
  | .rel g o sc => Sys2Proof.Machine.execRel g o sc s
  | .fence g sc => Sys2Proof.Machine.execFence g sc s
  | .syzy => Sys2Proof.Machine.execSyzy s
  | .rdsc g d => Sys2Proof.Machine.execRdsc g d s
  | .waitsc g a => Sys2Proof.Machine.execWaitsc g a s
  | .post g addr v lat => Sys2Proof.Machine.execPost g addr v lat s
  | .mbrd g d addr => Sys2Proof.Machine.execMbrd g d addr s
  | .lrpatch g v r f => Sys2Proof.Machine.execLrpatch g v r f s
  | .lrarm g r => Sys2Proof.Machine.execLrarm g r s
  | .childq g r => Sys2Proof.Machine.execChildq g r s
  | .widf g d lev => Sys2Proof.Machine.execWidf g d lev s
  | .lease g => Sys2Proof.Machine.execLease g s
  | .unlease g => Sys2Proof.Machine.execUnlease g s
  | .shld g sh b disp => Sys2Proof.Machine.execShld g sh b disp s
  | .shst g sh b disp => Sys2Proof.Machine.execShst g sh b disp s
  | .shset g v sh f => Sys2Proof.Machine.execShset g v sh f s
  | .shget g v sh f => Sys2Proof.Machine.execShget g v sh f s
  | .albinit g n trapen => Sys2Proof.Machine.execAlbinit g n trapen s
  | .albsettle g n => Sys2Proof.Machine.execAlbsettle g n s
  | .albrd g d n idx => Sys2Proof.Machine.execAlbrd g d n idx s
  | .trap g code => Sys2Proof.Machine.execTrap g code s
  | .rft g => Sys2Proof.Machine.execRft g s
  | .safept g orbit live => Sys2Proof.Machine.execSafept g orbit live s
  | .corerst g r => Sys2Proof.Machine.execCorerst g r s
  | .halt g => Sys2Proof.Machine.execHalt g s
  | .nop g => Sys2Proof.Machine.execNop g s
  | .srd g d idx => Sys2Proof.Machine.execSrd g d idx s
  | .swr g a idx => Sys2Proof.Machine.execSwr g a idx s
  | .sealopPut g a => Sys2Proof.Machine.execSealopPut g a s
  | .sealopCheck g a => Sys2Proof.Machine.execSealopCheck g a s
  | .bqPopRead g d bq3 => Sys2Proof.Machine.execBqPopRead g d bq3 s
  | .sealRead g d => Sys2Proof.Machine.execSealRead g d s
  | .blockHeader rot atom len rep => Sys2Proof.Machine.execBlockHeader rot atom len rep s
  | .pfx rnd msel iq sat => Sys2Proof.Machine.execPfx rnd msel iq sat s
  | .pfxGuarded g rnd iq => Sys2Proof.Machine.execPfxGuarded g rnd iq s
  | .nop16 => Sys2Proof.Machine.execNop16 s
  | .ldq g q b disp => Sys2Proof.Machine.execLdq g q b disp s
  | .ldqShort q b disp => Sys2Proof.Machine.execLdqShort q b disp s
  | .ldqs g q b src => Sys2Proof.Machine.execLdqs g q b src s
  | .ldqb g q b disp => Sys2Proof.Machine.execLdqb g q b disp s
  | .gathq g q b x => Sys2Proof.Machine.execGathq g q b x s
  | .stq g q b disp => Sys2Proof.Machine.execStq g q b disp s
  | .stqShort q b disp => Sys2Proof.Machine.execStqShort q b disp s
  | .stqs g q b src => Sys2Proof.Machine.execStqs g q b src s
  | .scatq g q b x => Sys2Proof.Machine.execScatq g q b x s
  | .exitA g off => Sys2Proof.Machine.execExitA g off s
  | .exitAShort g off => Sys2Proof.Machine.execExitAShort g off s
  | .bqputA g op q => Sys2Proof.Machine.execBqputA g op q s
  | .bqputAShort q p => Sys2Proof.Machine.execBqputAShort q p s
  | .bqgetA g op q => Sys2Proof.Machine.execBqgetA g op q s
  | .pgdist g ch a => Sys2Proof.Machine.execPgdist g ch a s
  | .tagwany g m => Sys2Proof.Machine.execTagwany g m s
  | .tagwall g m => Sys2Proof.Machine.execTagwall g m s
  | .tagwallShort m => Sys2Proof.Machine.execTagwallShort m s
  | .tagffr g d m => Sys2Proof.Machine.execTagffr g d m s
  | .tagclr g m => Sys2Proof.Machine.execTagclr g m s
  | .cpy g d src t ord guardChk expand => Sys2Proof.Machine.execCpy g d src t ord guardChk expand s
  | .cpyg g d tab t idx => Sys2Proof.Machine.execCpyg g d tab t idx s
  | .cpyr g d src t ord => Sys2Proof.Machine.execCpyr g d src t ord s
  | .tailput g sh r t => Sys2Proof.Machine.execTailput g sh r t s
  | .tailget g sh r t => Sys2Proof.Machine.execTailget g sh r t s
  | .offload g r t => Sys2Proof.Machine.execOffload g r t s
  | .recall g r t => Sys2Proof.Machine.execRecall g r t s
  | .mma f sa sb d hold ord sq => Sys2Proof.Machine.execMma f sa sb d hold ord sq s
  | .mmas f sa sb d hold ord sq => Sys2Proof.Machine.execMmas f sa sb d hold ord sq s
  | .mzero sh d ord => Sys2Proof.Machine.execMzero sh d ord s
  | .mdrain m dst mul d ord => Sys2Proof.Machine.execMdrain m dst mul d ord s
  | .mcommit g b => Sys2Proof.Machine.execMcommit g b s
  | .mwaitb g b => Sys2Proof.Machine.execMwaitb g b s
  | .mstat g pd fault b => Sys2Proof.Machine.execMstat g pd fault b s
  | .vadd f dly d a b me => Sys2Proof.Machine.execVadd f dly d a b me s
  | .vsub f dly d a b me => Sys2Proof.Machine.execVsub f dly d a b me s
  | .vmul f dly d a b me => Sys2Proof.Machine.execVmul f dly d a b me s
  | .vfma f dly d a b me => Sys2Proof.Machine.execVfma f dly d a b me s
  | .vfms f dly d a b me => Sys2Proof.Machine.execVfms f dly d a b me s
  | .vfnma f dly d a b me => Sys2Proof.Machine.execVfnma f dly d a b me s
  | .vmin f dly d a b me => Sys2Proof.Machine.execVmin f dly d a b me s
  | .vmax f dly d a b me => Sys2Proof.Machine.execVmax f dly d a b me s
  | .vabs f dly d a me => Sys2Proof.Machine.execVabs f dly d a me s
  | .vneg f dly d a me => Sys2Proof.Machine.execVneg f dly d a me s
  | .viadd f dly d a b me => Sys2Proof.Machine.execViadd f dly d a b me s
  | .visub f dly d a b me => Sys2Proof.Machine.execVisub f dly d a b me s
  | .vimul f dly d a b me => Sys2Proof.Machine.execVimul f dly d a b me s
  | .vimulh f dly d a b me => Sys2Proof.Machine.execVimulh f dly d a b me s
  | .vshl f dly d a b me => Sys2Proof.Machine.execVshl f dly d a b me s
  | .vshr f dly d a b me => Sys2Proof.Machine.execVshr f dly d a b me s
  | .vsra f dly d a b me => Sys2Proof.Machine.execVsra f dly d a b me s
  | .vand dly d a b me => Sys2Proof.Machine.execVand dly d a b me s
  | .vor dly d a b me => Sys2Proof.Machine.execVor dly d a b me s
  | .vxor dly d a b me => Sys2Proof.Machine.execVxor dly d a b me s
  | .viabs f dly d a me => Sys2Proof.Machine.execViabs f dly d a me s
  | .vnot dly d a me => Sys2Proof.Machine.execVnot dly d a me s
  | .vcmp f dly cc md a b me => Sys2Proof.Machine.execVcmp f dly cc md a b me s
  | .vsel f dly d a b => Sys2Proof.Machine.execVsel f dly d a b s
  | .mand dly md ma mb => Sys2Proof.Machine.execMand dly md ma mb s
  | .mor dly md ma mb => Sys2Proof.Machine.execMor dly md ma mb s
  | .mxor dly md ma mb => Sys2Proof.Machine.execMxor dly md ma mb s
  | .mnot dly md ma => Sys2Proof.Machine.execMnot dly md ma s
  | .mpop dly x ma => Sys2Proof.Machine.execMpop dly x ma s
  | .mff dly x ma => Sys2Proof.Machine.execMff dly x ma s
  | .mset dly md x => Sys2Proof.Machine.execMset dly md x s
  | .vmov f dly d a me => Sys2Proof.Machine.execVmov f dly d a me s
  | .vmovShort d a => Sys2Proof.Machine.execVmovShort d a s
  | .vmovl f dly d l me => Sys2Proof.Machine.execVmovl f dly d l me s
  | .vbcast f dly d x me => Sys2Proof.Machine.execVbcast f dly d x me s
  | .vli f dly d imm me => Sys2Proof.Machine.execVli f dly d imm me s
  | .vimin f dly d a b me => Sys2Proof.Machine.execVimin f dly d a b me s
  | .vimax f dly d a b me => Sys2Proof.Machine.execVimax f dly d a b me s
  | .vcvt dly d a sf df me => Sys2Proof.Machine.execVcvt dly d a sf df me s
  | .vqnt dly d a qf xs me => Sys2Proof.Machine.execVqnt dly d a qf xs me s
  | .vdqnt dly d a qf xs me => Sys2Proof.Machine.execVdqnt dly d a qf xs me s
  | .qscale dly xd xn qf h => Sys2Proof.Machine.execQscale dly xd xn qf h s
  | .qfix dly d a sh me => Sys2Proof.Machine.execQfix dly d a sh me s
  | .qflt dly d a sh me => Sys2Proof.Machine.execQflt dly d a sh me s
  | .revadd dly d a b me => Sys2Proof.Machine.execRevadd dly d a b me s
  | .revsub dly d a b me => Sys2Proof.Machine.execRevsub dly d a b me s
  | .sealclr dly => Sys2Proof.Machine.execSealclr dly s
  | .sealget dly xd => Sys2Proof.Machine.execSealget dly xd s
  | .vexp2 f dly d a me => Sys2Proof.Machine.execVexp2 f dly d a me s
  | .vlog2 f dly d a me => Sys2Proof.Machine.execVlog2 f dly d a me s
  | .vrcp f dly d a me => Sys2Proof.Machine.execVrcp f dly d a me s
  | .vrsqrt f dly d a me => Sys2Proof.Machine.execVrsqrt f dly d a me s
  | .vtanh f dly d a me => Sys2Proof.Machine.execVtanh f dly d a me s
  | .vrnd raw dly d xs xb me => Sys2Proof.Machine.execVrnd raw dly d xs xb me s
  | .vredsum f dly d a me => Sys2Proof.Machine.execVredsum f dly d a me s
  | .vredmax f dly d a me => Sys2Proof.Machine.execVredmax f dly d a me s
  | .vredmin f dly d a me => Sys2Proof.Machine.execVredmin f dly d a me s
  | .vredarg f dly d a mn me => Sys2Proof.Machine.execVredarg f dly d a mn me s
  | .vscan f dly d a me => Sys2Proof.Machine.execVscan f dly d a me s
  | .vsortk f dly d a b me => Sys2Proof.Machine.execVsortk f dly d a b me s
  | .vperm f dly d a b me => Sys2Proof.Machine.execVperm f dly d a b me s
  | .vslide f dly d a b me => Sys2Proof.Machine.execVslide f dly d a b me s
  | .acld hi dly v p row => Sys2Proof.Machine.execAcld hi dly v p row s
  | .acst hi dly v p row => Sys2Proof.Machine.execAcst hi dly v p row s
  | .acsta hi int dly v p row => Sys2Proof.Machine.execAcsta hi int dly v p row s
  | .xli x imm => Sys2Proof.Machine.execXli x imm s
  | .xaddi x a imm => Sys2Proof.Machine.execXaddi x a imm s
  | .xaddiShort x imm => Sys2Proof.Machine.execXaddiShort x imm s
  | .xlane x v wd lane => Sys2Proof.Machine.execXlane x v wd lane s
  | .katchk dly v k => Sys2Proof.Machine.execKatchk dly v k s
  | .bqputX g op q => Sys2Proof.Machine.execBqputX g op q s
  | .bqgetX g op q => Sys2Proof.Machine.execBqgetX g op q s
  | .exitX g off => Sys2Proof.Machine.execExitX g off s
  | .exitXShort g off => Sys2Proof.Machine.execExitXShort g off s
  | .commitPhase1 => Sys2Proof.Machine.execCommitPhase1 s
  | .commitPhase2 => Sys2Proof.Machine.execCommitPhase2 s
  | .blockRunEnd => Sys2Proof.Machine.execBlockRunEnd s
  | .dispatchStart => Sys2Proof.Machine.execDispatchStart s
  | .xResultLand => Sys2Proof.Machine.execXResultLand s
  | .loadQueueEntryReady => Sys2Proof.Machine.execLoadQueueEntryReady s
  | .queueStoreWrite => Sys2Proof.Machine.execQueueStoreWrite s
  | .streamTlbWalkDone => Sys2Proof.Machine.execStreamTlbWalkDone s
  | .leaseGrant => Sys2Proof.Machine.execLeaseGrant s
  | .matrixCommandStart => Sys2Proof.Machine.execMatrixCommandStart s
  | .matrixAcquire => Sys2Proof.Machine.execMatrixAcquire s
  | .matrixCommandComplete => Sys2Proof.Machine.execMatrixCommandComplete s
  | .matrixCommandStop => Sys2Proof.Machine.execMatrixCommandStop s
  | .scaleQueuePop => Sys2Proof.Machine.execScaleQueuePop s
  | .accumulatorPortGrant => Sys2Proof.Machine.execAccumulatorPortGrant s
  | .copyChannelTake => Sys2Proof.Machine.execCopyChannelTake s
  | .copyCommandStart => Sys2Proof.Machine.execCopyCommandStart s
  | .copyCommandComplete => Sys2Proof.Machine.execCopyCommandComplete s
  | .copyCommandStop => Sys2Proof.Machine.execCopyCommandStop s
  | .tailCommandAccept => Sys2Proof.Machine.execTailCommandAccept s
  | .tailCommandComplete => Sys2Proof.Machine.execTailCommandComplete s
  | .syncAccept => Sys2Proof.Machine.execSyncAccept s
  | .homeRequest => Sys2Proof.Machine.execHomeRequest s
  | .qscaleResult => Sys2Proof.Machine.execQscaleResult s
  | .albedoMergeIssue => Sys2Proof.Machine.execAlbedoMergeIssue s
  | .albedoMergeApply => Sys2Proof.Machine.execAlbedoMergeApply s
  | .albedoSettleDone => Sys2Proof.Machine.execAlbedoSettleDone s
  | .lineAccess => Sys2Proof.Machine.execLineAccess s
  | .dramReadReturn => Sys2Proof.Machine.execDramReadReturn s
  | .dramRefresh => Sys2Proof.Machine.execDramRefresh s
  | .homeCreate => Sys2Proof.Machine.execHomeCreate s
  | .homeRelease => Sys2Proof.Machine.execHomeRelease s
  | .tlbinvGo => Sys2Proof.Machine.execTlbinvGo s
  | .tlbinvComplete => Sys2Proof.Machine.execTlbinvComplete s
  | .orbitStop => Sys2Proof.Machine.execOrbitStop s
  | .orbitResume => Sys2Proof.Machine.execOrbitResume s
  | .waitscDone => Sys2Proof.Machine.execWaitscDone s
  | .orbitArrival => Sys2Proof.Machine.execOrbitArrival s
  | .orbitAlign => Sys2Proof.Machine.execOrbitAlign s
  | .mailArrival => Sys2Proof.Machine.execMailArrival s
  | .mailAck => Sys2Proof.Machine.execMailAck s
  | .mailLate => Sys2Proof.Machine.execMailLate s
  | .recordStart => Sys2Proof.Machine.execRecordStart s
  | .startTimeReached => Sys2Proof.Machine.execStartTimeReached s
  | .priorityAge => Sys2Proof.Machine.execPriorityAge s
  | .childQueueMove => Sys2Proof.Machine.execChildQueueMove s
  | .overlayLoadDone => Sys2Proof.Machine.execOverlayLoadDone s
  | .taskBoundary => Sys2Proof.Machine.execTaskBoundary s
  | .contextEnd => Sys2Proof.Machine.execContextEnd s
  | .allotmentReturn => Sys2Proof.Machine.execAllotmentReturn s
  | .trapDelivery => Sys2Proof.Machine.execTrapDelivery s
  | .debugBreak => Sys2Proof.Machine.execDebugBreak s
  | .safeptLate => Sys2Proof.Machine.execSafeptLate s
  | .watchdog => Sys2Proof.Machine.execWatchdog s
  | .preemptRequest => Sys2Proof.Machine.execPreemptRequest s
  | .contextRestore => Sys2Proof.Machine.execContextRestore s
  | .beatSend => Sys2Proof.Machine.execBeatSend s
  | .beatReceive => Sys2Proof.Machine.execBeatReceive s
  | .judgePoint => Sys2Proof.Machine.execJudgePoint s
  | .fenceNotice => Sys2Proof.Machine.execFenceNotice s
  | .fabricFlitArrival => Sys2Proof.Machine.execFabricFlitArrival s
  | .selfTestDone => Sys2Proof.Machine.execSelfTestDone s
  | .suspctlInc => Sys2Proof.Machine.execSuspctlInc s
  | .suspctlClrq => Sys2Proof.Machine.execSuspctlClrq s
  | .suspcfgWrite => Sys2Proof.Machine.execSuspcfgWrite s
  | .scoreDecay => Sys2Proof.Machine.execScoreDecay s
  | .hostRequest => Sys2Proof.Machine.execHostRequest s
  | .hostRegisterWrite => Sys2Proof.Machine.execHostRegisterWrite s
  | .workQueueSubmit => Sys2Proof.Machine.execWorkQueueSubmit s
  | .workQueueEntryArm => Sys2Proof.Machine.execWorkQueueEntryArm s
  | .workQueueResume => Sys2Proof.Machine.execWorkQueueResume s
  | .spanFlitReceive => Sys2Proof.Machine.execSpanFlitReceive s
  | .spanLinkState => Sys2Proof.Machine.execSpanLinkState s
  | .powerOn => Sys2Proof.Machine.execPowerOn s
  | .coldStart => Sys2Proof.Machine.execColdStart s
  | .warmStart => Sys2Proof.Machine.execWarmStart s
  | .startComplete => Sys2Proof.Machine.execStartComplete s
  | .pwrcapWrite => Sys2Proof.Machine.execPwrcapWrite s
  | .orbitSave => Sys2Proof.Machine.execOrbitSave s
  | .msixHoldoffEnd => Sys2Proof.Machine.execMsixHoldoffEnd s
  | .arithmeticClockStep => Sys2Proof.Machine.execArithmeticClockStep s

end Sys2Proof.Machine
end

