-- ==== Sys2Proof/Machine/Fetch.lean ====
section
/-! DEFINITION. What moves next: the word at a stream's program counter, the event of a stream that issues no word, the streams of a
cycle (03 R44, R66; 05 R92, R96 to R101, R109; 12 R270; 16 R342, R343, R351; 19 R390; notes/assumptions/3.md). -/

namespace Sys2Proof.Machine

/-- SWR of SEALOP is one of two rows of the opcode table, by CHK of its source (15 R325, R326). -/
def Core.refine (c : Core) (i : Instr) : Instr :=
  match i with
  | .swr g a idx => if idx = 0x5A then (if bitOf (c.getS a).toNat 16 then .sealopCheck g a else .sealopPut g a) else i
  | i => i

/-- The bytes of instruction memory at a stream's program counter, decoded. -/
def State.fetch (s : State) (ag : Agent) : Dec :=
  let c := s.core ag.core
  decode ag.st (c.halfwords ag.st (c.pos ag.st).pc 6)

/-- What a stream does when it moves. -/
inductive Move
  /-- it issues an instruction -/
  | word (i : Instr)
  /-- the halfwords at its program counter are no instruction that may issue here -/
  | fate (f : Fate)
  /-- a step of its own that is no word -/
  | event (e : Event)
  /-- it does not move in this cycle -/
  | stay
  deriving DecidableEq, Repr

/-- A stream at a header or a word. A stop of its orbit freezes issue but in a handler (12 R270); A and X issue nothing from the
cycle of a trap on (16 R342), nor while a merge of theirs waits for room (13 R288); a C stream that has sent its arrival for SAFEPT.O waits
(16 R353). -/
def State.mayIssue (s : State) (ag : Agent) : Bool :=
  let c := s.core ag.core
  (!c.stopped || c.inHandler)
    && (match ag.st with
      | .c => !(c.sent && c.c.safept.isSome)
      | .a => c.traps.isEmpty && !s.mergeWaits ag.core .queue
      | .x => c.traps.isEmpty && !s.mergeWaits ag.core .vqnt)

def State.issueMove (s : State) (ag : Agent) : Move :=
  if !s.mayIssue ag then .stay
  else if s.atBreak ag then .event (.debugBreak ag)
  else
    let header := ((s.core ag.core).pos ag.st).phase == .header
    match s.fetch ag with
    | .ok i => if header && !(match i with | .blockHeader _ _ _ _ => true | _ => false) then .fate .blockHeader
      else .word ((s.core ag.core).refine i)
    | .error f => .fate (if header then .blockHeader else f)

/-- The C run of a trapped context, or of a handler whose trap the die management core has taken, is past phase 1, and completes
(16 R342). -/
def Core.completes (c : Core) : Bool := (c.mode == .trapped || c.mode == .held) && (c.c.pos.phase == .commit2 || c.c.pos.phase == .runEnd)

/-- The move of a stream. -/
def State.agentMove (s : State) (ag : Agent) : Move :=
  let c := s.core ag.core
  if c.mode ≠ .running && !(ag.st == .c && c.completes) then .stay
  else match (c.pos ag.st).phase with
    | .idle =>
      match ag.st with
      | .c => .stay
      | st => if s.mayIssue ag && (match (c.outer st).dq with | e :: _ => e.at_ ≤ s.now | [] => false) then .event (.dispatchStart ag)
        else .stay
    | .header => s.issueMove ag
    | .words => s.issueMove ag
    | .runEnd => .event (.blockRunEnd ag)
    | .commit1 => .event (.commitPhase1 ag.core)
    | .commit2 => .event (.commitPhase2 ag.core)
    | .boundary => .event (.taskBoundary ag.core)

/-- The state in which the word of a stream executes: it names the stream and the word's length. -/
def State.forWord (s : State) (ag : Agent) (i : Instr) : State :=
  let s : State := { s with who := ag }
  s.setPos { s.pos with flen := lengthOf i, fwords := wordsOf i }

/-- A word or header that would take SPCNT past 16,384 does not issue (16 R351). -/
def lateAfter (ag : Agent) (s t : State) : Bool :=
  let n := ((s.core ag.core).sysReg 0x0B).toNat
  let m := ((t.core ag.core).sysReg 0x0B).toNat
  ag.st == .c && m != n && (t.core ag.core).pastLimit

/-- A decode trap of a stream (03 R65, R66). -/
def State.fateOf (s : State) (ag : Agent) (f : Fate) : Res :=
  let s : State := { s with who := ag }
  let p := s.pos
  (if p.phase = .header then s.setPos { p with blk := p.pc } else s).fateTrap f

/-- An event is executed with its data. -/
def State.forEvent (s : State) (e : Event) : State := { s with ev := e }

/-! The order within a cycle. -/

/-- The number that stands for the launch units among the agents. -/
def launchAgent : Agent := ⟨1024, .c⟩
def State.launchBusy (s : State) : Bool := s.dies.any (fun e => !e.2.arms.isEmpty || !e.2.childq.isEmpty)
/-- The agents of a cycle in their order: the launch units, then A, X and C of each running core in ascending number. -/
def State.agents (s : State) : List Agent :=
  (if s.launchBusy then [launchAgent] else [])
    ++ s.cores.flatMap (fun e =>
      if e.2.mode = .running then [⟨e.1, .a⟩, ⟨e.1, .x⟩, ⟨e.1, .c⟩] else if e.2.completes then [⟨e.1, .c⟩] else [])
/-- The next cycle in which anything moves: the next one, or the first event's where no stream runs. -/
def State.nextCycle (s : State) : Nat :=
  if s.launchBusy || s.cores.any (fun e => e.2.mode == .running || e.2.completes) then s.now + 1
  else match s.agenda with
    | (k, _) :: _ => max (s.now + 1) (k / 2)
    | [] => s.now + 1
def State.advance (s : State) : State :=
  let s : State := { s with now := s.nextCycle }
  { s with todo := s.agents }

/-! Placing a word where the next step fetches it. -/

/-- The halfwords of a word of the opcode table, numbered as 03 R48 numbers them. -/
def tableHalfwords (nbits w : Nat) : List Nat :=
  if nbits ≤ 16 then [w % 2 ^ 16] else [w / 2 ^ 16 % 2 ^ 16, w % 2 ^ 16, 0, 0, 0, 0]

/-- Core 0 runs and its stream stands at halfword 2 of its instruction memory, where the word has been placed: inside a block of 16
words, or at a header's place where the word is a block header. -/
def State.placed (s : State) (nbits w : Nat) : State :=
  let st := streamOf nbits w
  let hw := tableHalfwords nbits w
  let header := match decode st hw with | .ok (.blockHeader _ _ _ _) => true | _ => false
  let c := s.core 0
  let put (m : Map (BitVec 16)) : Map (BitVec 16) := hw.zipIdx.foldl (fun m e => Map.put 0 m (2 + e.2) (BitVec.ofNat 16 e.1)) m
  let c : Core := match st with
    | .c => { c with imemC := put c.imemC }
    | .a => { c with imemA := put c.imemA, ao := { c.ao with active := true } }
    | .x => { c with imemX := put c.imemX, xo := { c.xo with active := true } }
  let p : Pos := { Pos.idle with phase := if header then .header else .words, pc := 2, left := 16, len := 16 }
  let c := { c with mode := .running }
  let c := match st with | .c => c.startRun | _ => c
  { s.setCore 0 (c.setPos st p) with turn := some ⟨0, st⟩ }

end Sys2Proof.Machine
end

