-- ==== Sys2Proof/Machine/Step.lean ====
section
/-! DEFINITION. One step of the package: the execution of one row of the opcode table, or the passing of time. -/

namespace Sys2Proof.Machine

/-- An event's row is executed. -/
def runEvent (s : State) (e : Event) : Res := exec e.row (s.forEvent e)

/-- A stream's word is executed; a word past the limit between safe points traps instead. -/
def runWord (s : State) (ag : Agent) (i : Instr) : Res :=
  match exec i (s.forWord ag i) with
  | .next t => if lateAfter ag s t then runEvent s (.safeptLate ag.core) else .next t
  | r => r

/-- A stream moves. -/
def runAgent (s : State) (ag : Agent) : Res :=
  match s.agentMove ag with
  | .word i => runWord s ag i
  | .fate f => s.fateOf ag f
  | .event e => runEvent s e
  | .stay => .next s

/-- The launch units move: they stay in the cycle's order until they have nothing left to do. -/
def runLaunch (s : State) : Res :=
  match s.launchMove with
  | .event e => runEvent { s with todo := launchAgent :: s.todo } e
  | .look t => .next { t with todo := launchAgent :: t.todo }
  | .none => .next s

/-- The next agent of the cycle. -/
def runTodo (s : State) : List Agent → Res
  | ag :: t => if ag = launchAgent then runLaunch { s with todo := t } else runAgent { s with todo := t } ag
  | [] => .next s.advance

/-- A step: the stream that keeps its turn; else an event that is due; else the next stream of the cycle; else an event that
follows the streams; else the next cycle begins (notes/assumptions/3.md). -/
def step (s : State) : Host.Outcome State Fault Refusal :=
  match s.turn, s.agenda with
  | some ag, _ => runAgent { s with turn := none } ag
  | none, (k, e) :: t =>
    if k ≤ 2 * s.now ∨ (s.todo = [] ∧ k ≤ 2 * s.now + 1) then runEvent { s with agenda := t } e else runTodo s s.todo
  | none, [] => runTodo s s.todo

/-- A word of the opcode table where the next step fetches its instruction (notes/assumptions/1.md). -/
def State.withFetchWord (s : State) (nbits w : Nat) : State := s.placed nbits w

end Sys2Proof.Machine
end

