-- ==== Sys2Proof/Safety.lean ====
section
/-! DEFINITION. Safe runs: what a run of the package keeps. -/

namespace Sys2Proof.Machine

/-- The state after n steps, while they all answer a next state. -/
def run : Nat → State → Option State
  | 0, s => some s
  | n + 1, s => match step s with
    | .next t => run n t
    | _ => none

/-- Every memory is in its canonical form (the shape of State; notes/assumptions/5.md). -/
abbrev State.memWf (s : State) : Bool :=
  Memory.wf s.dram && Memory.wf s.remote && Memory.wf s.scratch && Memory.wf s.accum

/-- A run of n steps is safe: it neither faults nor stops at a refusal, and memory keeps its form. -/
def safeRun (n : Nat) (s : State) : Prop := ∃ t, run n s = some t ∧ t.memWf = true

end Sys2Proof.Machine
end

