-- ==== Sys2Proof/Certificates/Slice0/Obligations.lean ====
section
/-! DEFINITION. The statements about the model, with the words they are stated in. -/

namespace Sys2Proof.Claims

open Sys2Proof Sys2Proof.Machine

/-! What a statement says about the rest of the machine. -/

/-- Every byte of every memory reads as before. -/
def memSame (s t : State) : Prop :=
  (∀ a, Mem.byte t.dram a = Mem.byte s.dram a) ∧ (∀ a, Mem.byte t.scratch a = Mem.byte s.scratch a)
    ∧ (∀ a, Mem.byte t.accum a = Mem.byte s.accum a) ∧ (∀ a, Mem.byte t.remote a = Mem.byte s.remote a)

/-- Nothing has changed but the core that executes the word, and whose turn it is: every other core, every byte of memory and every
other part of the package is as before. -/
def onlyMe (s t : State) : Prop :=
  (∀ n, n ≠ s.who.core → t.core n = s.core n) ∧ memSame s t ∧ t = { s with cores := t.cores, turn := t.turn }

/-- The same, with events to come that it has put on the agenda. -/
def onlyMeAnd (s t : State) : Prop :=
  (∀ n, n ≠ s.who.core → t.core n = s.core n) ∧ memSame s t
    ∧ t = { s with cores := t.cores, turn := t.turn, agenda := t.agenda }

/-- Merges of a core have come to stand nearer to its releases: the level of each is at least what `f` gives it (10 R233, 13 R290), and
nothing else differs; where `f` is 0 nothing does. -/
def mergesRaised (s u : State) (core : Nat) (f : Merge → Nat) : Prop :=
  u = { s with tiles := u.tiles }
    ∧ (∀ k, u.tile k = { s.tile k with merges := (s.tile k).merges.map (fun m => if m.core = core then { m with level := max m.level (f m) } else m) })
    ∧ ((∀ m, f m = 0) → u = s)
/-- No merge is raised. -/
def noMerge : Merge → Nat := fun _ => 0

/-- What a C word may change of its core: s registers, C predicates, held operations, deliveries, the position of the stream and
SPCNT. Every a, x, v, m, l and shape register, every queue, every other predicate, the A and X streams and every system register but
SPCNT are as before, and no register has come to hold an error. -/
def cFrame (c d : Core) : Prop :=
  d = { c with s := d.s, sys := d.sys, ecc := d.ecc, c := { c.c with p := d.c.p, held := d.c.held, ready := d.c.ready, pos := d.c.pos } }
    ∧ (∀ x ∈ d.ecc, x ∈ c.ecc) ∧ d.sysReg 0x0B = c.sysReg 0x0B + 1 ∧ ∀ i, i ≠ 0x0B → d.sysReg i = c.sysReg i

/-- A register file with one register written; register 0 discards it. -/
def putR (f : Reg → Word) (d : Reg) (v : Word) : Reg → Word := fun r => if r = d ∧ d ≠ 0 then v else f r
/-- Predicates with one written; p0 discards it. -/
def putP (f : N8 → Bool) (d : N8) (v : Bool) : N8 → Bool := fun p => if p = d ∧ d ≠ 0 then v else f p

/-- A C word has issued: the s registers, the C predicates and the held operations are as given, and nothing else has changed. -/
def cDone (s t : State) (regs : Reg → Word) (preds : N8 → Bool) (held : List Held) : Prop :=
  onlyMe s t ∧ cFrame s.me t.me ∧ (∀ r, t.me.getS r = regs r) ∧ (∀ p, t.me.pred .c p = preds p) ∧ t.me.c.held = held

/-- A C word with a true guard and delivered sources, none of which holds an uncorrectable error (05 R99, 06 R122, 18 R375). -/
def cGo (s : State) (g : Guard) (srcs : List Reg) : Prop :=
  s.who.st = .c ∧ s.me.guard .c g = true ∧ busy s.me.c.ready s.now srcs = false ∧ s.me.bad (srcs.map (fun r => .s r)) = false

/-- The guard of a short form (03 R56). -/
def p0 : Guard := ⟨false, 0⟩

/-! The values of the register words (06 R123 to R125). -/

/-- Leading and trailing zero bits, one bits. -/
def leadingZeros (x : Word) : Nat := ((List.range 64).takeWhile (fun k => !x.getLsbD (63 - k))).length
def trailingZeros (x : Word) : Nat := ((List.range 64).takeWhile (fun k => !x.getLsbD k)).length
def oneBits (x : Word) : Nat := ((List.range 64).map (fun k => if x.getLsbD k then 1 else 0)).sum
/-- Bits of the width field of SEXT and ZEXT. -/
def widthBits : ExtW → Nat | .b => 8 | .h => 16 | .w => 32

/-- The C register and immediate words: guard, sources, destination and the value of 06 R123 to R125; the short forms of 03 R56. -/
inductive CAluRow (c : Core) : Instr → Guard → List Reg → Reg → Word → Prop
  | add {g d a b} :
      CAluRow c (.add g d a b) g [a, b] d
        (BitVec.ofInt 64 ((c.getS a).toInt + (c.getS b).toInt))
  | sub {g d a b} :
      CAluRow c (.sub g d a b) g [a, b] d
        (BitVec.ofInt 64 ((c.getS a).toInt - (c.getS b).toInt))
  | mul {g d a b} :
      CAluRow c (.mul g d a b) g [a, b] d
        (BitVec.ofNat 64 ((c.getS a).toNat * (c.getS b).toNat))
  | mulh {g d a b} :
      CAluRow c (.mulh g d a b) g [a, b] d
        (BitVec.ofInt 64 ((c.getS a).toInt * (c.getS b).toInt / 2 ^ 64))
  | mulhu {g d a b} :
      CAluRow c (.mulhu g d a b) g [a, b] d
        (BitVec.ofNat 64 ((c.getS a).toNat * (c.getS b).toNat / 2 ^ 64))
  | div {g d a b} :
      CAluRow c (.div g d a b) g [a, b] d
        (if c.getS b = 0 then BitVec.allOnes 64 else BitVec.ofInt 64 ((c.getS a).toInt.tdiv (c.getS b).toInt))
  | divu {g d a b} :
      CAluRow c (.divu g d a b) g [a, b] d
        (if c.getS b = 0 then BitVec.allOnes 64 else BitVec.ofNat 64 ((c.getS a).toNat / (c.getS b).toNat))
  | rem {g d a b} :
      CAluRow c (.rem g d a b) g [a, b] d
        (if c.getS b = 0 then c.getS a else BitVec.ofInt 64 ((c.getS a).toInt - (c.getS b).toInt * (c.getS a).toInt.tdiv (c.getS b).toInt))
  | remu {g d a b} :
      CAluRow c (.remu g d a b) g [a, b] d
        (if c.getS b = 0 then c.getS a else BitVec.ofNat 64 ((c.getS a).toNat - (c.getS b).toNat * ((c.getS a).toNat / (c.getS b).toNat)))
  | and {g d a b} :
      CAluRow c (.and g d a b) g [a, b] d
        (c.getS a &&& c.getS b)
  | or {g d a b} :
      CAluRow c (.or g d a b) g [a, b] d
        (c.getS a ||| c.getS b)
  | xor {g d a b} :
      CAluRow c (.xor g d a b) g [a, b] d
        (c.getS a ^^^ c.getS b)
  | andn {g d a b} :
      CAluRow c (.andn g d a b) g [a, b] d
        (c.getS a &&& ~~~(c.getS b))
  | shl {g d a b} :
      CAluRow c (.shl g d a b) g [a, b] d
        (BitVec.ofNat 64 ((c.getS a).toNat * 2 ^ ((c.getS b).toNat % 64)))
  | shr {g d a b} :
      CAluRow c (.shr g d a b) g [a, b] d
        (BitVec.ofNat 64 ((c.getS a).toNat / 2 ^ ((c.getS b).toNat % 64)))
  | sra {g d a b} :
      CAluRow c (.sra g d a b) g [a, b] d
        (BitVec.ofInt 64 ((c.getS a).toInt / 2 ^ ((c.getS b).toNat % 64)))
  | min {g d a b} :
      CAluRow c (.min g d a b) g [a, b] d
        (BitVec.ofInt 64 (min (c.getS a).toInt (c.getS b).toInt))
  | max {g d a b} :
      CAluRow c (.max g d a b) g [a, b] d
        (BitVec.ofInt 64 (max (c.getS a).toInt (c.getS b).toInt))
  | minu {g d a b} :
      CAluRow c (.minu g d a b) g [a, b] d
        (BitVec.ofNat 64 (min (c.getS a).toNat (c.getS b).toNat))
  | maxu {g d a b} :
      CAluRow c (.maxu g d a b) g [a, b] d
        (BitVec.ofNat 64 (max (c.getS a).toNat (c.getS b).toNat))
  | clz {g d a} :
      CAluRow c (.clz g d a) g [a] d
        (BitVec.ofNat 64 (leadingZeros (c.getS a)))
  | ctz {g d a} :
      CAluRow c (.ctz g d a) g [a] d
        (BitVec.ofNat 64 (trailingZeros (c.getS a)))
  | popc {g d a} :
      CAluRow c (.popc g d a) g [a] d
        (BitVec.ofNat 64 (oneBits (c.getS a)))
  | sext {g d a wd} :
      CAluRow c (.sext g d a wd) g [a] d
        (BitVec.ofInt 64 ((c.getS a).setWidth (widthBits wd)).toInt)
  | zext {g d a wd} :
      CAluRow c (.zext g d a wd) g [a] d
        (BitVec.ofNat 64 ((c.getS a).toNat % 2 ^ widthBits wd))
  | sel {g p d a b} :
      CAluRow c (.sel g p d a b) g [a, b] d
        (if c.pred .c p = true then c.getS a else c.getS b)
  | addi {g d a imm} :
      CAluRow c (.addi g d a imm) g [a] d
        (BitVec.ofInt 64 ((c.getS a).toInt + imm.toInt))
  | andi {g d a imm} :
      CAluRow c (.andi g d a imm) g [a] d
        (c.getS a &&& BitVec.ofInt 64 imm.toInt)
  | ori {g d a imm} :
      CAluRow c (.ori g d a imm) g [a] d
        (c.getS a ||| BitVec.ofInt 64 imm.toInt)
  | xori {g d a imm} :
      CAluRow c (.xori g d a imm) g [a] d
        (c.getS a ^^^ BitVec.ofInt 64 imm.toInt)
  | shli {g d a sh} :
      CAluRow c (.shli g d a sh) g [a] d
        (BitVec.ofNat 64 ((c.getS a).toNat * 2 ^ sh.val))
  | shri {g d a sh} :
      CAluRow c (.shri g d a sh) g [a] d
        (BitVec.ofNat 64 ((c.getS a).toNat / 2 ^ sh.val))
  | srai {g d a sh} :
      CAluRow c (.srai g d a sh) g [a] d
        (BitVec.ofInt 64 ((c.getS a).toInt / 2 ^ sh.val))
  | li {g d imm} :
      CAluRow c (.li g d imm) g [] d
        (BitVec.ofInt 64 imm.toInt)
  | lui {g d imm} :
      CAluRow c (.lui g d imm) g [d] d
        (BitVec.ofInt 64 (imm.toInt * 2 ^ 16) ||| (c.getS d &&& 0xFFFF))
  | addiShort {d imm} :
      CAluRow c (.addiShort d imm) p0 [d] d
        (BitVec.ofInt 64 ((c.getS d).toInt + imm.toInt))
  | liShort {d imm} :
      CAluRow c (.liShort d imm) p0 [] d
        (BitVec.ofInt 64 imm.toInt)
  | addShort {d b} :
      CAluRow c (.addShort d b) p0 [d, b] d
        (BitVec.ofInt 64 ((c.getS d).toInt + (c.getS b).toInt))
  | subShort {d b} :
      CAluRow c (.subShort d b) p0 [d, b] d
        (BitVec.ofInt 64 ((c.getS d).toInt - (c.getS b).toInt))

/-! Compares and predicates (06 R126, R127). -/

/-- A condition on two doublewords. -/
def condIs : Cond → Word → Word → Bool
  | .eq, a, b => decide (a = b)
  | .ne, a, b => decide (a ≠ b)
  | .lt, a, b => decide (a.toInt < b.toInt)
  | .ltu, a, b => decide (a.toNat < b.toNat)
  | .ge, a, b => decide (a.toInt ≥ b.toInt)
  | .geu, a, b => decide (a.toNat ≥ b.toNat)

inductive CPredRow (c : Core) : Instr → Guard → List Reg → N8 → Bool → Prop
  | cmp {g cc pd a b} : CPredRow c (.cmp g cc pd a b) g [a, b] pd (condIs cc (c.getS a) (c.getS b))
  | cmpi {g cc pd a imm} : CPredRow c (.cmpi g cc pd a imm) g [a] pd (condIs cc (c.getS a) (BitVec.ofInt 64 imm.toInt))
  | pand {g pd pa pb} : CPredRow c (.pand g pd pa pb) g [] pd (c.pred .c pa && c.pred .c pb)
  | por {g pd pa pb} : CPredRow c (.por g pd pa pb) g [] pd (c.pred .c pa || c.pred .c pb)
  | pxor {g pd pa pb} : CPredRow c (.pxor g pd pa pb) g [] pd (c.pred .c pa ^^ c.pred .c pb)
  | pnot {g pd pa} : CPredRow c (.pnot g pd pa) g [] pd (!c.pred .c pa)
  | pmov {g pd pa} : CPredRow c (.pmov g pd pa) g [] pd (c.pred .c pa)

/-! The A stream's register, immediate, short and compare words (06 R123, R125, R126; 03 R56). -/

/-- What an A word may change of its core: a registers, A predicates, deliveries and the position of the stream. -/
def aFrame (c d : Core) : Prop :=
  d = { c with a := d.a, ecc := d.ecc, aReady := d.aReady, ao := { c.ao with p := d.ao.p, pos := d.ao.pos } } ∧ ∀ x ∈ d.ecc, x ∈ c.ecc

/-- An A word has issued: the a registers and A predicates are as given, and nothing else has changed. -/
def aDone (s t : State) (regs : Reg → Word) (preds : N8 → Bool) : Prop :=
  onlyMe s t ∧ aFrame s.me t.me ∧ (∀ r, t.me.getA r = regs r) ∧ (∀ p, t.me.pred .a p = preds p)

/-- An A word with a true guard, in the iterations of its qualifier, with delivered sources, none of which holds an uncorrectable error
(05 R99, R111; 06 R122; 18 R375). -/
def aGo (s : State) (g : Guard) (srcs : List Reg) : Prop :=
  s.who.st = .a ∧ s.me.guard .a g = true ∧ iqHolds s.me.ao = true ∧ busy s.me.aReady s.now srcs = false
    ∧ s.me.bad (srcs.map (fun r => .a r)) = false

inductive AAluRow (c : Core) : Instr → Guard → List Reg → Reg → Word → Prop
  | aadd {g d a b} : AAluRow c (.aadd g d a b) g [a, b] d (BitVec.ofInt 64 ((c.getA a).toInt + (c.getA b).toInt))
  | asub {g d a b} : AAluRow c (.asub g d a b) g [a, b] d (BitVec.ofInt 64 ((c.getA a).toInt - (c.getA b).toInt))
  | amul {g d a b} : AAluRow c (.amul g d a b) g [a, b] d (BitVec.ofNat 64 ((c.getA a).toNat * (c.getA b).toNat))
  | aand {g d a b} : AAluRow c (.aand g d a b) g [a, b] d (c.getA a &&& c.getA b)
  | aor {g d a b} : AAluRow c (.aor g d a b) g [a, b] d (c.getA a ||| c.getA b)
  | amin {g d a b} : AAluRow c (.amin g d a b) g [a, b] d (BitVec.ofInt 64 (min (c.getA a).toInt (c.getA b).toInt))
  | amax {g d a b} : AAluRow c (.amax g d a b) g [a, b] d (BitVec.ofInt 64 (max (c.getA a).toInt (c.getA b).toInt))
  | aaddi {g d a imm} : AAluRow c (.aaddi g d a imm) g [a] d (BitVec.ofInt 64 ((c.getA a).toInt + imm.toInt))
  | ashli {g d a sh} : AAluRow c (.ashli g d a sh) g [a] d (BitVec.ofNat 64 ((c.getA a).toNat * 2 ^ sh.val))
  | ashri {g d a sh} : AAluRow c (.ashri g d a sh) g [a] d (BitVec.ofNat 64 ((c.getA a).toNat / 2 ^ sh.val))
  | ali {g d imm} : AAluRow c (.ali g d imm) g [] d (BitVec.ofInt 64 imm.toInt)
  | alui {g d imm} :
      AAluRow c (.alui g d imm) g [d] d (BitVec.ofInt 64 (imm.toInt * 2 ^ 16) ||| (c.getA d &&& 0xFFFF))
  | aaddiShort {d imm} : AAluRow c (.aaddiShort d imm) p0 [d] d (BitVec.ofInt 64 ((c.getA d).toInt + imm.toInt))
  | aliShort {d imm} : AAluRow c (.aliShort d imm) p0 [] d (BitVec.ofInt 64 imm.toInt)

/-- A compares and the state bits of a batch (06 R126; 09 R206). -/
inductive APredRow (c : Core) : Instr → Guard → List Reg → N8 → Bool → Prop
  | acmp {g cc pd a b} : APredRow c (.acmp g cc pd a b) g [a, b] pd (condIs cc (c.getA a) (c.getA b))
  | acmpi {g cc pd a imm} : APredRow c (.acmpi g cc pd a imm) g [a] pd (condIs cc (c.getA a) (BitVec.ofInt 64 imm.toInt))
  | mstat {g pd fault b} :
      APredRow c (.mstat g pd fault b) g [] pd (c.batch.df.testBit (2 * b.val + if fault then 1 else 0))

/-! Words that read the machine, and words that only retire. -/

/-- The value of a counter that adds 1 in every cycle while it runs (14 R314). -/
def counted (k : Counter) (now : Nat) : Nat := if k.run then k.base + (now - k.since) else k.base

/-- RDSC, SRD of the registers the spec describes by themselves, and WIDF (14 R309, R314; 15 R326; 16 R350, R351). -/
inductive CReadRow (s : State) : Instr → Guard → Reg → Word → Prop
  | rdsc {g d} : CReadRow s (.rdsc g d) g d (BitVec.ofNat 64 (counted s.me.sc s.now))
  | corenum {g d} : CReadRow s (.srd g d 0x08) g d (BitVec.ofNat 64 s.who.core)
  | sc {g d} : CReadRow s (.srd g d 0x0A) g d (BitVec.ofNat 64 (counted s.me.sc s.now))
  | wdcnt {g d} : CReadRow s (.srd g d 0x0C) g d (BitVec.ofNat 64 (counted s.me.wd s.now))
  | pgroot {g d} : CReadRow s (.srd g d 0x69) g d (s.tile s.myTile).pgroot
  | prefdist {g d} {k : Fin 14} :
      CReadRow s (.srd g d (Fin.ofNat 1024 (0x70 + k.val))) g d (BitVec.ofNat 64 s.me.q.pref[k])
  | plain {g d} {i : Fin 1024}
      (h : i.val ∈ [0x00, 0x01, 0x02, 0x03, 0x04, 0x05, 0x06, 0x07, 0x09, 0x0B, 0x0D, 0x50, 0x51, 0x52, 0x53, 0x54, 0x55, 0x56, 0x57,
        0x58, 0x5D, 0x5E, 0x60, 0x61, 0x62, 0x63, 0x64, 0x67, 0x68]) :
      CReadRow s (.srd g d i) g d (s.me.sysReg i.val)
  | sealRegister {g d} (h : s.xIdle s.who.core = true) : CReadRow s (.srd g d 0x59) g d s.me.xr.sealAcc
  | sealRead {g d} (h : s.xIdle s.who.core = true) : CReadRow s (.sealRead g d) g d s.me.xr.sealAcc
  | widf {g d lev r} (h : s.me.lr = some r) :
      CReadRow s (.widf g d lev) g d
        (BitVec.ofNat 64 (widField (s.rcd r).img (s.me.sysReg 9).toNat lev.val))

/-- NOP, DJOIN of idle streams and WAITSC of a value SC has reached, with what each does to the core's merges: a DJOIN covers those of
the streams that it names, and those of the engine commands that the A stream has awaited (05 R113; 13 R290; 14 R314; 16 R348). -/
inductive COnlyRetires (s : State) : Instr → Guard → List Reg → (Merge → Nat) → Prop
  | nop {g} : COnlyRetires s (.nop g) g [] noMerge
  | nop16 : COnlyRetires s .nop16 p0 [] noMerge
  | djoin {g x a} (hx : x = true → s.xIdle s.who.core = true) (ha : a = true → s.aIdle s.who.core = true) :
      COnlyRetires s (.djoin g x a) g []
        (fun m => if x = true ∧ m.src = .vqnt ∨ a = true ∧ (m.src = .queue ∨ m.level = 1) then 2 else 0)
  | waitsc {g a} (hn : (s.me.getS a).toNat ≤ counted s.me.sc s.now)
      (hw : ∀ e ∈ s.agenda, e.2 ≠ .waitscDone s.who.core) : COnlyRetires s (.waitsc g a) g [a] noMerge

/-! System register writes (16 R350, R357). -/

/-- Index and operand of a write of a register of the stream's own, with the value stored: the limits and reserved fields of 05 R116,
04 R84, 07 R146, 08 R175, 11 R241, 15 R333, 14 R299, 09 R188, R208 and 11 R257. -/
inductive SwrRow (c : Core) : Nat → Word → Word → Prop
  | sbmode {v} (h : c.aligned = false) : SwrRow c 0x50 v (v &&& 1)
  | whole {i v} (h : i = 0x51 ∨ i = 0x52 ∨ i = 0x53) : SwrRow c i v v
  | qbind {v} (h : v.toNat < 2 ^ 16) : SwrRow c 0x54 v (v &&& 0x8F8F)
  | qntbind {v} (h : v.toNat < 2 ^ 5) : SwrRow c 0x55 v v
  | cpycfg {v} (h : v.toNat < 2 ^ 45) : SwrRow c 0x56 v (v &&& 0x1FFFFFFF00FF)
  | tailcfg {v} (h : v.toNat < 4) : SwrRow c 0x57 v v
  | tailhost {v} (h : v.toNat % 2 ^ 16 = 0) : SwrRow c 0x58 v v
  | leasemax {v} (hs : c.sup = true) (h : 1 ≤ v.toNat ∧ v.toNat ≤ 64) : SwrRow c 0x64 v v
  /-- of MPROG and CPYPROG only ABANDON may be written -/
  | progress {i v w} (hs : c.sup = true) (hi : i = 0x67 ∨ i = 0x68)
      (hw : ∀ k, k < 64 → w.getLsbD k = if k = 62 then v.getLsbD 62 else (c.sysReg i).getLsbD k) : SwrRow c i v w

/-- What an SWR may change besides its register: the position of the stream, SPCNT and the record of what a rollback restores. -/
def swrFrame (c d : Core) (i : Nat) : Prop :=
  d = { c with sys := d.sys, c := { c.c with pos := d.c.pos, undo := d.c.undo } }
    ∧ d.sysReg 0x0B = c.sysReg 0x0B + 1 ∧ ∀ j, j ≠ 0x0B → j ≠ i → d.sysReg j = c.sysReg j

/-! Held operations (05 R100). -/

/-- Base plus displacement in units of the size, modulo 2^64 (06 R129). -/
def eaOf (base : Word) {n : Nat} (disp : BitVec n) (size : Nat) : Nat := (BitVec.ofInt 64 (base.toInt + disp.toInt * size)).toNat
/-- Bytes of a width code (03 R59). -/
def bytesOf : MemW → Nat | .b => 1 | .bu => 1 | .h => 2 | .hu => 2 | .w => 4 | .wu => 4 | .d => 8
/-- The argument registers of a dispatch (05 R107). -/
def argRegs (n : Nat) : List Reg := (List.range n).map (fun k => Fin.ofNat 32 (k + 1))
/-- Held dispatches to a stream. -/
def dispsTo (toX : Bool) (l : List Held) : Nat := (l.filter (fun h => match h with | .disp x _ _ _ => x == toX | _ => false)).length

/-- The C words whose effect waits for the commit of their run: guard, sources, and the operation held with the operands read at
issue. -/
inductive CHeldRow (s : State) : Instr → Guard → List Reg → Held → Prop
  | st {g wd r b disp} :
      CHeldRow s (.st g wd r b disp) g [r, b]
        (.st (eaOf (s.me.getS b) disp (bytesOf wd)) (bytesOf wd) ((s.me.getS r).toNat % 256 ^ bytesOf wd) false)
  | sts {g wd r b disp} :
      CHeldRow s (.sts g wd r b disp) g [r, b]
        (.st (eaOf (s.me.getS b) disp (bytesOf wd)) (bytesOf wd) ((s.me.getS r).toNat % 256 ^ bytesOf wd) true)
  | lds {g wd r b disp} : CHeldRow s (.lds g wd r b disp) g [b] (.lds (eaOf (s.me.getS b) disp (bytesOf wd)) wd r)
  | shst {g sh b disp} (h : ∀ e ∈ s.me.c.ready, e.1 = 32 + sh.val → e.2 ≤ s.now) :
      CHeldRow s (.shst g sh b disp) g [b] (.shst (eaOf (s.me.getS b) disp 64) (s.me.shapeC sh))
  | amadd {g dw d a b} : CHeldRow s (.amadd g dw d a b) g [a, b] (.atomic .add dw (s.me.getS a).toNat (s.me.getS b) (s.me.getS d) d)
  | ammin {g dw d a b} : CHeldRow s (.ammin g dw d a b) g [a, b] (.atomic .min dw (s.me.getS a).toNat (s.me.getS b) (s.me.getS d) d)
  | ammax {g dw d a b} : CHeldRow s (.ammax g dw d a b) g [a, b] (.atomic .max dw (s.me.getS a).toNat (s.me.getS b) (s.me.getS d) d)
  | amand {g dw d a b} : CHeldRow s (.amand g dw d a b) g [a, b] (.atomic .and dw (s.me.getS a).toNat (s.me.getS b) (s.me.getS d) d)
  | amor {g dw d a b} : CHeldRow s (.amor g dw d a b) g [a, b] (.atomic .or dw (s.me.getS a).toNat (s.me.getS b) (s.me.getS d) d)
  | amxor {g dw d a b} : CHeldRow s (.amxor g dw d a b) g [a, b] (.atomic .xor dw (s.me.getS a).toNat (s.me.getS b) (s.me.getS d) d)
  | amswp {g dw d a b} : CHeldRow s (.amswp g dw d a b) g [a, b] (.atomic .swp dw (s.me.getS a).toNat (s.me.getS b) (s.me.getS d) d)
  | amcas {g dw d a b} : CHeldRow s (.amcas g dw d a b) g [a, b, d] (.atomic .cas dw (s.me.getS a).toNat (s.me.getS b) (s.me.getS d) d)
  | bind {g o b len} : CHeldRow s (.bind g o b len) g [o, b, len] (.bind (s.me.getS o) (s.me.getS b) (s.me.getS len))
  | unbind {g o} : CHeldRow s (.unbind g o) g [o] (.unbind (s.me.getS o))
  | acq {g o sc} : CHeldRow s (.acq g o sc) g [o] (.acq (s.me.getS o) sc)
  | rel {g o sc} : CHeldRow s (.rel g o sc) g [o] (.rel (s.me.getS o) sc)
  | fence {g sc} : CHeldRow s (.fence g sc) g [] (.fence sc)
  | post {g a v lat} : CHeldRow s (.post g a v lat) g [a, v] (.post (s.me.getS a) (s.me.getS v) lat.toNat)
  | mbrd {g d a} : CHeldRow s (.mbrd g d a) g [a] (.mbrd (s.me.getS a) d)
  | lrpatch {g v r f} : CHeldRow s (.lrpatch g v r f) g [v, r] (.lrpatch (s.me.getS v) (s.me.getS r) f.val)
  | lrarm {g r} : CHeldRow s (.lrarm g r) g [r] (.lrarm (s.me.getS r))
  | childq {g r} : CHeldRow s (.childq g r) g [r] (.childq (s.me.getS r))
  | lease {g} : CHeldRow s (.lease g) g [] .lease
  | unlease {g} : CHeldRow s (.unlease g) g [] .unlease
  | albinit {g n t} : CHeldRow s (.albinit g n t) g [n] (.albinit (s.me.getS n) t)
  | albsettle {g n} : CHeldRow s (.albsettle g n) g [n] (.albsettle (s.me.getS n))
  | albrd {g d n idx} : CHeldRow s (.albrd g d n idx) g [n] (.albrd (s.me.getS n) idx.val d)
  | dispA {g narg desc entry} (h : dispsTo false s.me.c.held < 8) :
      CHeldRow s (.dispA g narg desc entry) g (argRegs narg.val)
        (.disp false (entry.toNat * 4) desc.val ((argRegs narg.val).map s.me.getS))
  | dispX {g narg desc entry} (h : dispsTo true s.me.c.held < 8) :
      CHeldRow s (.dispX g narg desc entry) g (argRegs narg.val)
        (.disp true (entry.toNat * 4) desc.val ((argRegs narg.val).map s.me.getS))
  | trap {g code} (h : ∀ k, Held.trap k ∉ s.me.c.held) : CHeldRow s (.trap g code) g [] (.trap code.toNat)
  | safept {g orbit live} : CHeldRow s (.safept g orbit live) g [] (.safept orbit live.toNat)
  | corerst {g r n l} (hs : s.me.sup = true) (hn : (s.me.getS r).toNat = n) (hl : s.me.lr = some l)
      (h : n ∈ tgtCores (recTgt (s.rcd l).img)) : CHeldRow s (.corerst g r) g [r] (.corerst (s.me.getS r))
  | halt {g} (hs : s.me.sup = true) (hh : s.me.inHandler = true) : CHeldRow s (.halt g) g [] .halt
  | sealopPut {g a} (h : (s.me.getS a).toNat < 2 ^ 11) : CHeldRow s (.sealopPut g a) g [a] (.seal true (s.me.getS a).toNat)
  | sealopCheck {g a seg} (h : seg < 2 ^ 11) (hv : (s.me.getS a).toNat = 2 ^ 16 + seg) :
      CHeldRow s (.sealopCheck g a) g [a] (.seal false seg)
  | swrFrame {g a} {i : Fin 1024} (hs : s.me.sup = true)
      (hi : i.val ∈ [0x10, 0x11, 0x12, 0x13, 0x14, 0x15, 0x16] ∨ (0x18 ≤ i.val ∧ i.val ≤ 0x1D) ∨ (0x20 ≤ i.val ∧ i.val ≤ 0x25)
        ∨ (0x30 ≤ i.val ∧ i.val ≤ 0x3B) ∨ (0x40 ≤ i.val ∧ i.val ≤ 0x4B)) :
      CHeldRow s (.swr g a i) g [a] (.swrFrame i.val (s.me.getS a))

/-! Exits (05 R97, R98, R104 to R106; 14 R311; 16 R347). -/

/-- The address an offset leads to: 0 is the end. -/
def exitAt {n : Nat} (pc : Nat) (off : BitVec n) : ExitTo :=
  if off = 0 then .finish else .block ((BitVec.ofInt 64 (pc + off.toInt)).toNat)

inductive CExitRow (s : State) : Instr → Guard → List Reg → ExitTo → Prop
  | exitC {g off} : CExitRow s (.exitC g off) g [] (exitAt s.me.c.pos.pc off)
  | exitCShort {g off} : CExitRow s (.exitCShort g off) g [] (exitAt s.me.c.pos.pc off)
  | exits {g a} : CExitRow s (.exits g a) g [a] (.block (s.me.getS a).toNat)
  | call {g off} (h : s.me.c.stack.length < 16) :
      CExitRow s (.call g off) g [] (.call ((BitVec.ofInt 64 (s.me.c.pos.pc + off.toInt)).toNat))
  | ret {g} (h : s.me.c.stack ≠ []) : CExitRow s (.ret g) g [] .ret
  | retShort (h : s.me.c.stack ≠ []) : CExitRow s .retShort p0 [] .ret
  | rft {g} (hs : s.me.sup = true) (hh : s.me.inHandler = true) : CExitRow s (.rft g) g [] .rft
  | ovswap {g a} : CExitRow s (.ovswap g a) g [a] (.overlay (s.me.getS a).toNat)

inductive AExitRow (c : Core) : Instr → Guard → ExitTo → Prop
  | exitA {g off} : AExitRow c (.exitA g off) g (exitAt c.ao.pos.pc off)
  | exitAShort {g off} : AExitRow c (.exitAShort g off) g (exitAt c.ao.pos.pc off)

inductive XExitRow (c : Core) : Instr → Guard → ExitTo → Prop
  | exitX {g off} : XExitRow c (.exitX g off) g (exitAt c.xo.pos.pc off)
  | exitXShort {g off} : XExitRow c (.exitXShort g off) g (exitAt c.xo.pos.pc off)

/-! Scalar loads (06 R128, R129, R135). -/

/-- Bytes, lowest address first, as a number. -/
def ofBytes : List Byte → Nat
  | [] => 0
  | b :: t => b.toNat + 256 * ofBytes t
/-- A loaded value as its width code extends it. -/
def extended (wd : MemW) (v : Nat) : Word :=
  match wd with
  | .b => BitVec.ofInt 64 (BitVec.ofNat 8 v).toInt
  | .h => BitVec.ofInt 64 (BitVec.ofNat 16 v).toInt
  | .w => BitVec.ofInt 64 (BitVec.ofNat 32 v).toInt
  | _ => BitVec.ofNat 64 v

/-- The page that the C stream's translation of an address finds, and the state after it: an entry of the TLB covers the address and
lets it be read, and is the one used last from now on; or the walk that the word has waited for has ended with it (12 R265, R267). -/
def finds (s : State) (ea : Nat) (p : Place) (s' : State) : Prop :=
  (∃ e, s.me.c.walk = none ∧ canonical ea = true ∧ inReservedRange ea = false
    ∧ s.me.ctlb.find? (fun e => e.covers (s.tile s.myTile).space ea) = some e ∧ leafCause e.pte .read s.me.sup false = none
    ∧ p = leafPlace e.pte ea ∧ s' = s.setMe { s.me with ctlb := tlbFill s.me.ctlb { e with used := s.now } })
  ∨ (∃ w, s.me.c.walk = some w ∧ w.done = true ∧ w.got.find? (fun e => e.1 == ea) = some (ea, p)
    ∧ s' = s.setMe { s.me with c := { s.me.c with walk := none } })
/-- The C stream's access at an address reaches a place: it is aligned, lies in no window, its translation is found, and the place is
readable and holds no error (06 R129, 12 R265, 18 R375). -/
def reaches (s : State) (ea n : Nat) (p : Place) (s' : State) : Prop :=
  ea % n = 0 ∧ inScratchWindow ea = false ∧ inAccWindow ea = false ∧ finds s ea p s'
    ∧ s.kindRefusal p = none ∧ s.placeEcc p n = none

/-- The bytes a C word reads once its address is translated: those of memory, under the stores of the stream's committed runs that are
on their way and under the stores that its run holds, whatever address names those bytes (05 R100, R120; 10 R225). -/
def seenBytes (s : State) (p : Place) (ea n : Nat) : List Byte :=
  overlayHeld s.heldStores ea p 0 (overlayStores s.me.cst p (s.readPlace p n))
/-- The bytes of a load from another tile's column are on their way; a fence of that tile ends it (17 R367). -/
def flying (s : State) (p : Place) (time : Nat) : State :=
  s.setMe { s.me with c := { s.me.c with air := airPut s.me.c.air s.myTile s.now (s.now + time) [p] } }

/-! Shape fields (06 R132, R136). -/

/-- Lowest bit and width of a field of a shape. -/
def fieldAt : ShField → Nat × Nat
  | .base => (0, 64) | .ext0 => (64, 32) | .ext1 => (96, 32) | .ext2 => (128, 32) | .ext3 => (160, 32)
  | .str1 => (192, 48) | .str2 => (240, 48) | .str3 => (288, 48) | .fmt => (336, 8) | .layout => (344, 16)
  | .albn => (360, 16) | .albf => (376, 4) | .gver => (380, 16) | .sync => (396, 20) | .qfrac => (416, 5)
/-- The strides are signed. -/
def isStride : ShField → Bool | .str1 => true | .str2 => true | .str3 => true | _ => false
/-- The value SHGET gives. -/
def fieldValue (sh : Shape) (f : ShField) : Word :=
  let x := sh.toNat / 2 ^ (fieldAt f).1 % 2 ^ (fieldAt f).2
  if isStride f then BitVec.ofInt 64 (BitVec.ofNat 48 x).toInt else BitVec.ofNat 64 x
/-- A value that SHSET may store: it fits, and sets no reserved bit of LAYOUT or ALBF. -/
def fieldFits (f : ShField) (v : Word) : Prop :=
  match f with
  | .str1 | .str2 | .str3 => -(2 ^ 47) ≤ v.toInt ∧ v.toInt < 2 ^ 47
  | .layout => v.toNat < 2 ^ 8
  | .albf => v.toNat < 2 ^ 2
  | f => v.toNat < 2 ^ (fieldAt f).2

/-! Traps of the C stream (05 R97, R102, R106, R107; 16 R341 to R344). -/

/-- The C stream of the core has raised a trap: its request stands last among the core's, with the address of the block's header, and
its delivery follows the words of the cycle. The word has had no other effect: the core's registers, streams and held operations, every
other core and every memory are as before. -/
def cTrapped (s t : State) (cause : Cause) (info0 : Nat) : Prop :=
  (∃ p, t.me = { s.me with c := { s.me.c with pos := p },
                           traps := s.me.traps ++ [⟨0, 0, 0, cause, s.me.c.pos.blk, info0, 0⟩] })
    ∧ (2 * s.now + 1, Event.trapDelivery s.who.core) ∈ t.agenda
    ∧ (∀ n, n ≠ s.who.core → t.core n = s.core n) ∧ memSame s t ∧ t = { s with cores := t.cores, agenda := t.agenda }

/-- A second TRAP of a run: one is held already. -/
def trapHeld (l : List Held) : Prop := ∃ k, Held.trap k ∈ l

/-- The C words that trap at issue, with the operands and the state in which they do: guard, sources, cause. -/
inductive CTrapRow (s : State) : Instr → Guard → List Reg → Cause → Prop
  | call {g off} (he : s.me.c.pos.exit = none) (h : 16 ≤ s.me.c.stack.length) : CTrapRow s (.call g off) g [] .callDepth
  | ret {g} (he : s.me.c.pos.exit = none) (h : s.me.c.stack = []) : CTrapRow s (.ret g) g [] .callDepth
  | retShort (he : s.me.c.pos.exit = none) (h : s.me.c.stack = []) : CTrapRow s .retShort p0 [] .callDepth
  | dispA {g narg desc entry} (h : 8 ≤ dispsTo false s.me.c.held) :
      CTrapRow s (.dispA g narg desc entry) g (argRegs narg.val) .dispOvercommit
  | dispX {g narg desc entry} (h : 8 ≤ dispsTo true s.me.c.held) :
      CTrapRow s (.dispX g narg desc entry) g (argRegs narg.val) .dispOvercommit
  | trap {g code} (h : trapHeld s.me.c.held) : CTrapRow s (.trap g code) g [] .reservedField
  | shset {g v sh f} (hs : ∀ e ∈ s.me.c.ready, e.1 = 32 + sh.val → e.2 ≤ s.now) (h : ¬fieldFits f (s.me.getS v)) :
      CTrapRow s (.shset g v sh f) g [v] .reservedField
  | corerst {g r} (hs : s.me.sup = true) (h : 2 ^ 10 ≤ (s.me.getS r).toNat) : CTrapRow s (.corerst g r) g [r] .reservedField
  | corerstForeign {g r l} (hs : s.me.sup = true) (hn : (s.me.getS r).toNat < 2 ^ 10) (hl : s.me.lr = some l)
      (h : (s.me.getS r).toNat ∉ tgtCores (recTgt (s.rcd l).img)) : CTrapRow s (.corerst g r) g [r] .privilege
  | sealopPut {g a} (h : 2 ^ 17 ≤ (s.me.getS a).toNat ∨ (s.me.getS a).toNat / 2 ^ 11 % 2 ^ 5 ≠ 0) :
      CTrapRow s (.sealopPut g a) g [a] .reservedField
  | sealopCheck {g a} (h : 2 ^ 17 ≤ (s.me.getS a).toNat ∨ (s.me.getS a).toNat / 2 ^ 11 % 2 ^ 5 ≠ 0) :
      CTrapRow s (.sealopCheck g a) g [a] .reservedField
  | sbmode {g a} (h : s.me.aligned = true) : CTrapRow s (.swr g a 0x50) g [a] .orbitUnaligned
  | qbind {g a} (h : 2 ^ 16 ≤ (s.me.getS a).toNat) : CTrapRow s (.swr g a 0x54) g [a] .reservedField
  | qntbind {g a} (h : 2 ^ 5 ≤ (s.me.getS a).toNat) : CTrapRow s (.swr g a 0x55) g [a] .reservedField
  | cpycfg {g a} (h : 2 ^ 45 ≤ (s.me.getS a).toNat) : CTrapRow s (.swr g a 0x56) g [a] .reservedField
  | tailcfg {g a} (h : 4 ≤ (s.me.getS a).toNat) : CTrapRow s (.swr g a 0x57) g [a] .reservedField
  | tailhost {g a} (h : (s.me.getS a).toNat % 2 ^ 16 ≠ 0) : CTrapRow s (.swr g a 0x58) g [a] .reservedField
  | leasemax {g a} (hs : s.me.sup = true) (h : (s.me.getS a).toNat = 0 ∨ 64 < (s.me.getS a).toNat) :
      CTrapRow s (.swr g a 0x64) g [a] .reservedField
  | ld {g wd r b disp} (h : eaOf (s.me.getS b) disp (bytesOf wd) % bytesOf wd ≠ 0) : CTrapRow s (.ld g wd r b disp) g [b] .align
  | ldScratch {g wd r b disp} (ha : eaOf (s.me.getS b) disp (bytesOf wd) % bytesOf wd = 0)
      (h : inScratchWindow (eaOf (s.me.getS b) disp (bytesOf wd)) = true) : CTrapRow s (.ld g wd r b disp) g [b] .scratchBounds
  | ldAcc {g wd r b disp} (ha : eaOf (s.me.getS b) disp (bytesOf wd) % bytesOf wd = 0)
      (hs : inScratchWindow (eaOf (s.me.getS b) disp (bytesOf wd)) = false)
      (h : inAccWindow (eaOf (s.me.getS b) disp (bytesOf wd)) = true) : CTrapRow s (.ld g wd r b disp) g [b] .accBounds
  | shld {g sh b disp} (h : eaOf (s.me.getS b) disp 64 % 64 ≠ 0) : CTrapRow s (.shld g sh b disp) g [b] .align
  /-- a second exit word of the run -/
  | exit {i : Instr} {g srcs e e'} (hi : CExitRow s i g srcs e) (he : s.me.c.pos.exit = some e') : CTrapRow s i g srcs .exitMulti

/-- The words that only a privileged stream may issue, where it is not privileged: a handler's words at TASK or outside a handler,
CORERST and the supervisor's registers at TASK, and the registers that no SWR may write (16 R344, R347, R349, R350, R357). -/
inductive PrivRow (c : Core) : Instr → Prop
  | rft {g} (h : ¬(c.sup = true ∧ c.inHandler = true)) : PrivRow c (.rft g)
  | halt {g} (h : ¬(c.sup = true ∧ c.inHandler = true)) : PrivRow c (.halt g)
  | corerst {g r} (h : c.sup = false) : PrivRow c (.corerst g r)
  | swrSupv {g a} {i : Fin 1024} (h : c.sup = false)
      (hi : i.val ∈ [0x59, 0x63, 0x64, 0x67, 0x68] ∨ i.val ∈ [0x10, 0x11, 0x12, 0x13, 0x14, 0x15, 0x16] ∨ (0x18 ≤ i.val ∧ i.val ≤ 0x1D)
        ∨ (0x20 ≤ i.val ∧ i.val ≤ 0x25) ∨ (0x30 ≤ i.val ∧ i.val ≤ 0x3B) ∨ (0x40 ≤ i.val ∧ i.val ≤ 0x4B)) : PrivRow c (.swr g a i)
  | swrPriv {g a} {i : Fin 1024}
      (hi : i.val ≤ 0x0D ∨ i.val ∈ [0x5B, 0x5C, 0x5D, 0x5E, 0x60, 0x61, 0x62, 0x65, 0x66, 0x69] ∨ (0x70 ≤ i.val ∧ i.val ≤ 0x7D)) :
      PrivRow c (.swr g a i)

/-! Guards and sources (05 R99; 06 R122). -/

/-- The words of the C and A streams that have a guard or a source, with their stream, their guard and the registers they wait for; a
short form's guard is p0, which is always true. Words that check a privilege before their guard stand here with the privilege they need.
What holds an X word back stands in XWordsHeldBack. -/
inductive GuardRow (c : Core) : Instr → Stream → Guard → List Reg → Prop
  | add {g d a b} : GuardRow c (.add g d a b) .c g [a, b]
  | sub {g d a b} : GuardRow c (.sub g d a b) .c g [a, b]
  | mul {g d a b} : GuardRow c (.mul g d a b) .c g [a, b]
  | mulh {g d a b} : GuardRow c (.mulh g d a b) .c g [a, b]
  | mulhu {g d a b} : GuardRow c (.mulhu g d a b) .c g [a, b]
  | div {g d a b} : GuardRow c (.div g d a b) .c g [a, b]
  | divu {g d a b} : GuardRow c (.divu g d a b) .c g [a, b]
  | rem {g d a b} : GuardRow c (.rem g d a b) .c g [a, b]
  | remu {g d a b} : GuardRow c (.remu g d a b) .c g [a, b]
  | and {g d a b} : GuardRow c (.and g d a b) .c g [a, b]
  | or {g d a b} : GuardRow c (.or g d a b) .c g [a, b]
  | xor {g d a b} : GuardRow c (.xor g d a b) .c g [a, b]
  | andn {g d a b} : GuardRow c (.andn g d a b) .c g [a, b]
  | shl {g d a b} : GuardRow c (.shl g d a b) .c g [a, b]
  | shr {g d a b} : GuardRow c (.shr g d a b) .c g [a, b]
  | sra {g d a b} : GuardRow c (.sra g d a b) .c g [a, b]
  | min {g d a b} : GuardRow c (.min g d a b) .c g [a, b]
  | max {g d a b} : GuardRow c (.max g d a b) .c g [a, b]
  | minu {g d a b} : GuardRow c (.minu g d a b) .c g [a, b]
  | maxu {g d a b} : GuardRow c (.maxu g d a b) .c g [a, b]
  | clz {g d a} : GuardRow c (.clz g d a) .c g [a]
  | ctz {g d a} : GuardRow c (.ctz g d a) .c g [a]
  | popc {g d a} : GuardRow c (.popc g d a) .c g [a]
  | sext {g d a wd} : GuardRow c (.sext g d a wd) .c g [a]
  | zext {g d a wd} : GuardRow c (.zext g d a wd) .c g [a]
  | sel {g p d a b} : GuardRow c (.sel g p d a b) .c g [a, b]
  | addi {g d a imm} : GuardRow c (.addi g d a imm) .c g [a]
  | andi {g d a imm} : GuardRow c (.andi g d a imm) .c g [a]
  | ori {g d a imm} : GuardRow c (.ori g d a imm) .c g [a]
  | xori {g d a imm} : GuardRow c (.xori g d a imm) .c g [a]
  | shli {g d a sh} : GuardRow c (.shli g d a sh) .c g [a]
  | shri {g d a sh} : GuardRow c (.shri g d a sh) .c g [a]
  | srai {g d a sh} : GuardRow c (.srai g d a sh) .c g [a]
  | li {g d imm} : GuardRow c (.li g d imm) .c g []
  | lui {g d imm} : GuardRow c (.lui g d imm) .c g [d]
  | addiShort {d imm} : GuardRow c (.addiShort d imm) .c p0 [d]
  | addShort {d b} : GuardRow c (.addShort d b) .c p0 [d, b]
  | subShort {d b} : GuardRow c (.subShort d b) .c p0 [d, b]
  | cmp {g cc pd a b} : GuardRow c (.cmp g cc pd a b) .c g [a, b]
  | cmpi {g cc pd a imm} : GuardRow c (.cmpi g cc pd a imm) .c g [a]
  | pand {g pd pa pb} : GuardRow c (.pand g pd pa pb) .c g []
  | por {g pd pa pb} : GuardRow c (.por g pd pa pb) .c g []
  | pxor {g pd pa pb} : GuardRow c (.pxor g pd pa pb) .c g []
  | pnot {g pd pa} : GuardRow c (.pnot g pd pa) .c g []
  | pmov {g pd pa} : GuardRow c (.pmov g pd pa) .c g []
  | ld {g wd r b disp} : GuardRow c (.ld g wd r b disp) .c g [b]
  | st {g wd r b disp} : GuardRow c (.st g wd r b disp) .c g [r, b]
  | lds {g wd r b disp} : GuardRow c (.lds g wd r b disp) .c g [b]
  | sts {g wd r b disp} : GuardRow c (.sts g wd r b disp) .c g [r, b]
  | exitC {g off} : GuardRow c (.exitC g off) .c g []
  | exitCShort {g off} : GuardRow c (.exitCShort g off) .c g []
  | exits {g a} : GuardRow c (.exits g a) .c g [a]
  | call {g off} : GuardRow c (.call g off) .c g []
  | ret {g} : GuardRow c (.ret g) .c g []
  | dispA {g narg desc entry} : GuardRow c (.dispA g narg desc entry) .c g (argRegs narg.val)
  | dispX {g narg desc entry} : GuardRow c (.dispX g narg desc entry) .c g (argRegs narg.val)
  | djoin {g x a} : GuardRow c (.djoin g x a) .c g []
  | ovswap {g a} : GuardRow c (.ovswap g a) .c g [a]
  | amadd {g dw d a b} : GuardRow c (.amadd g dw d a b) .c g [a, b]
  | ammin {g dw d a b} : GuardRow c (.ammin g dw d a b) .c g [a, b]
  | ammax {g dw d a b} : GuardRow c (.ammax g dw d a b) .c g [a, b]
  | amand {g dw d a b} : GuardRow c (.amand g dw d a b) .c g [a, b]
  | amor {g dw d a b} : GuardRow c (.amor g dw d a b) .c g [a, b]
  | amxor {g dw d a b} : GuardRow c (.amxor g dw d a b) .c g [a, b]
  | amswp {g dw d a b} : GuardRow c (.amswp g dw d a b) .c g [a, b]
  | amcas {g dw d a b} : GuardRow c (.amcas g dw d a b) .c g [a, b, d]
  | bind {g o b len} : GuardRow c (.bind g o b len) .c g [o, b, len]
  | unbind {g o} : GuardRow c (.unbind g o) .c g [o]
  | acq {g o sc} : GuardRow c (.acq g o sc) .c g [o]
  | rel {g o sc} : GuardRow c (.rel g o sc) .c g [o]
  | fence {g sc} : GuardRow c (.fence g sc) .c g []
  | rdsc {g d} : GuardRow c (.rdsc g d) .c g []
  | waitsc {g a} : GuardRow c (.waitsc g a) .c g [a]
  | post {g a v lat} : GuardRow c (.post g a v lat) .c g [a, v]
  | mbrd {g d a} : GuardRow c (.mbrd g d a) .c g [a]
  | lrpatch {g v r f} : GuardRow c (.lrpatch g v r f) .c g [v, r]
  | lrarm {g r} : GuardRow c (.lrarm g r) .c g [r]
  | childq {g r} : GuardRow c (.childq g r) .c g [r]
  | widf {g d lev} : GuardRow c (.widf g d lev) .c g []
  | lease {g} : GuardRow c (.lease g) .c g []
  | unlease {g} : GuardRow c (.unlease g) .c g []
  | shld {g sh b disp} : GuardRow c (.shld g sh b disp) .c g [b]
  | shst {g sh b disp} : GuardRow c (.shst g sh b disp) .c g [b]
  | shset {g v sh f} : GuardRow c (.shset g v sh f) .c g [v]
  | shget {g v sh f} : GuardRow c (.shget g v sh f) .c g []
  | albinit {g n t} : GuardRow c (.albinit g n t) .c g [n]
  | albsettle {g n} : GuardRow c (.albsettle g n) .c g [n]
  | albrd {g d n idx} : GuardRow c (.albrd g d n idx) .c g [n]
  | trap {g code} : GuardRow c (.trap g code) .c g []
  | rft {g} (hs : c.sup = true) (hh : c.inHandler = true) : GuardRow c (.rft g) .c g []
  | safept {g orbit live} : GuardRow c (.safept g orbit live) .c g []
  | corerst {g r} (hs : c.sup = true) : GuardRow c (.corerst g r) .c g [r]
  | halt {g} (hs : c.sup = true) (hh : c.inHandler = true) : GuardRow c (.halt g) .c g []
  | nop {g} : GuardRow c (.nop g) .c g []
  | srd {g d i} : GuardRow c (.srd g d i) .c g []
  | swr {g a} {i : Fin 1024} (h : (0x50 ≤ i.val ∧ i.val ≤ 0x58) ∨ i.val = 0x5A) : GuardRow c (.swr g a i) .c g [a]
  | sealopPut {g a} : GuardRow c (.sealopPut g a) .c g [a]
  | sealopCheck {g a} : GuardRow c (.sealopCheck g a) .c g [a]
  | bqPopRead {g d b} : GuardRow c (.bqPopRead g d b) .c g []
  | sealRead {g d} : GuardRow c (.sealRead g d) .c g []
  | aadd {g d a b} : GuardRow c (.aadd g d a b) .a g [a, b]
  | asub {g d a b} : GuardRow c (.asub g d a b) .a g [a, b]
  | amul {g d a b} : GuardRow c (.amul g d a b) .a g [a, b]
  | aand {g d a b} : GuardRow c (.aand g d a b) .a g [a, b]
  | aor {g d a b} : GuardRow c (.aor g d a b) .a g [a, b]
  | amin {g d a b} : GuardRow c (.amin g d a b) .a g [a, b]
  | amax {g d a b} : GuardRow c (.amax g d a b) .a g [a, b]
  | aaddi {g d a imm} : GuardRow c (.aaddi g d a imm) .a g [a]
  | ashli {g d a sh} : GuardRow c (.ashli g d a sh) .a g [a]
  | ashri {g d a sh} : GuardRow c (.ashri g d a sh) .a g [a]
  | ali {g d imm} : GuardRow c (.ali g d imm) .a g []
  | alui {g d imm} : GuardRow c (.alui g d imm) .a g [d]
  | acmp {g cc pd a b} : GuardRow c (.acmp g cc pd a b) .a g [a, b]
  | acmpi {g cc pd a imm} : GuardRow c (.acmpi g cc pd a imm) .a g [a]
  | exitA {g off} : GuardRow c (.exitA g off) .a g []
  | exitAShort {g off} : GuardRow c (.exitAShort g off) .a g []
  | aaddiShort {d imm} : GuardRow c (.aaddiShort d imm) .a p0 [d]
  | ldq {g q b disp} : GuardRow c (.ldq g q b disp) .a g [b]
  | ldqShort {q b disp} : GuardRow c (.ldqShort q b disp) .a p0 [b]
  | ldqs {g q b st} : GuardRow c (.ldqs g q b st) .a g [b, st]
  | ldqb {g q b disp} : GuardRow c (.ldqb g q b disp) .a g [b]
  | gathq {g q b x} : GuardRow c (.gathq g q b x) .a g [b, x]
  | stq {g q b disp} : GuardRow c (.stq g q b disp) .a g [b]
  | stqShort {q b disp} : GuardRow c (.stqShort q b disp) .a p0 [b]
  | stqs {g q b st} : GuardRow c (.stqs g q b st) .a g [b, st]
  | scatq {g q b x} : GuardRow c (.scatq g q b x) .a g [b, x]
  | cpy {g d sr t ord gc ex} : GuardRow c (.cpy g d sr t ord gc ex) .a g []
  | cpyg {g d tab t idx} : GuardRow c (.cpyg g d tab t idx) .a g []
  | cpyr {g d sr t ord} : GuardRow c (.cpyr g d sr t ord) .a g []
  | tailput {g sh r t} : GuardRow c (.tailput g sh r t) .a g [r]
  | tailget {g sh r t} : GuardRow c (.tailget g sh r t) .a g [r]
  | offload {g r t} : GuardRow c (.offload g r t) .a g [r]
  | recall {g r t} : GuardRow c (.recall g r t) .a g [r]
  | tagwany {g m} : GuardRow c (.tagwany g m) .a g [m]
  | tagwall {g m} : GuardRow c (.tagwall g m) .a g [m]
  | tagwallShort {m} : GuardRow c (.tagwallShort m) .a p0 [m]
  | tagffr {g d m} : GuardRow c (.tagffr g d m) .a g [m]
  | tagclr {g m} : GuardRow c (.tagclr g m) .a g [m]
  | mma {f sa sb d hold ord sq} : GuardRow c (.mma f sa sb d hold ord sq) .a p0 [d]
  | mmas {f sa sb d hold ord sq} : GuardRow c (.mmas f sa sb d hold ord sq) .a p0 [d]
  | mzero {sh d ord} : GuardRow c (.mzero sh d ord) .a p0 [d]
  | mdrain {m dst mul d ord} : GuardRow c (.mdrain m dst mul d ord) .a p0 [d]
  | mcommit {g b} : GuardRow c (.mcommit g b) .a g []
  | mwaitb {g b} : GuardRow c (.mwaitb g b) .a g []
  | mstat {g pd fault b} : GuardRow c (.mstat g pd fault b) .a g []
  | bqputAPred {g p q} : GuardRow c (.bqputA g (.pred p) q) .a g []
  | bqputAReg {g r q} : GuardRow c (.bqputA g (.reg r) q) .a g [r]
  | bqgetA {g o q} : GuardRow c (.bqgetA g o q) .a g []
  | pgdist {g ch a} : GuardRow c (.pgdist g ch a) .a g [a]

/-! Queue words of the A stream (07 R146 to R150). -/

/-- Addresses of the four segments, modulo 2^64. -/
def segsOf (f : Nat → Int) : List Nat := (List.range 4).map (fun k => (BitVec.ofInt 64 (f k)).toNat)

/-- Queue loads: guard, sources, queue, stride, segment addresses. -/
inductive QLoadRow (c : Core) : Instr → Guard → List Reg → N8 → Nat → List Nat → Prop
  | ldq {g q b disp} :
      QLoadRow c (.ldq g q b disp) g [b] q 0 (segsOf (fun k => (c.getA b).toInt + 64 * disp.toInt + 64 * k))
  | ldqShort {q b disp} :
      QLoadRow c (.ldqShort q b disp) p0 [b] q 0 (segsOf (fun k => (c.getA b).toInt + 64 * disp.val + 64 * k))
  | ldqs {g q b st} :
      QLoadRow c (.ldqs g q b st) g [b, st] q (c.getA st).toNat (segsOf (fun k => (c.getA b).toInt + k * (c.getA st).toInt))
  | ldqb {g q b disp} :
      QLoadRow c (.ldqb g q b disp) g [b] q 0 (segsOf (fun _ => (c.getA b).toInt + 64 * disp.toInt))
  | gathq {g q b x} :
      QLoadRow c (.gathq g q b x) g [b, x] q 0
        (segsOf (fun k => (c.getA b).toInt + 64 * ((c.getA x).toNat / 2 ^ (16 * k) % 2 ^ 16 : Nat)))

/-- Queue stores. -/
inductive QStoreRow (c : Core) : Instr → Guard → List Reg → N8 → Nat → List Nat → Prop
  | stq {g q b disp} :
      QStoreRow c (.stq g q b disp) g [b] q 0 (segsOf (fun k => (c.getA b).toInt + 64 * disp.toInt + 64 * k))
  | stqShort {q b disp} :
      QStoreRow c (.stqShort q b disp) p0 [b] q 0 (segsOf (fun k => (c.getA b).toInt + 64 * disp.val + 64 * k))
  | stqs {g q b st} :
      QStoreRow c (.stqs g q b st) g [b, st] q (c.getA st).toNat (segsOf (fun k => (c.getA b).toInt + k * (c.getA st).toInt))
  | scatq {g q b x} :
      QStoreRow c (.scatq g q b x) g [b, x] q 0
        (segsOf (fun k => (c.getA b).toInt + 64 * ((c.getA x).toNat / 2 ^ (16 * k) % 2 ^ 16 : Nat)))

/-- The segments pass their checks and translate without a walk: where each leads, and the stream TLB afterwards. -/
def planned (s : State) (q : N8) (store : Bool) (stride : Nat) (segs : List Nat) (got : List (Nat × Place)) (tlb : StreamTlb) : Prop :=
  s.me.q.walk = none ∧ ∃ time, segPlan s q.val store stride [] segs ⟨[], none, s.me.q.tlb.getD q.val StreamTlb.empty, 0, false⟩
    = ⟨got, none, tlb, time, false⟩
/-- The places of the segments in order. -/
def placesOf (got : List (Nat × Place)) (segs : List Nat) : List (Nat × Place) :=
  segs.filterMap (fun va => got.find? (fun e => e.1 == va))

/-- The 64 bytes of a segment that a store writes: those enabled in the entry. -/
def enabledBytes (e : StoreEntry) (k : Nat) : List (Option Byte) :=
  (List.range 64).map (fun i =>
    if e.en.getLsbD (64 * k + i) then some (BitVec.ofNat 8 (e.data.toNat / 2 ^ (8 * (64 * k + i)))) else none)

/-- The elements of an entry all of whose bytes are enabled, lowest first (13 R286). -/
def enabledElements (e : StoreEntry) (es : Nat) : List Nat :=
  ((List.range (256 / es)).filter (fun j => decide (∀ i, i < es → e.en.getLsbD (es * j + i) = true))).map
    (fun j => e.data.toNat / 2 ^ (8 * es * j) % 2 ^ (8 * es))
/-- What a store of a bound queue sends to the record of its shape: what its whole elements fold into, where UPD is 1 (07 R146;
13 R286). -/
def mergeOfStore (sh : Option Shape) (e : StoreEntry) : List Partial :=
  match sh with
  | some v => if v.getLsbD 376 then (foldGroup (Shape.albn v) (Shape.fmt v) (Shape.qfrac v) (enabledElements e (Shape.esz v))).toList else []
  | none => []
/-- A store finds its entry: the oldest of its queue, written, and of an X word that no QSCALE still to be answered can take back
(07 R139, R149; 13 R296). -/
def storeEntry (s : State) (q : N8) (e : StoreEntry) (rest : List StoreEntry) : Prop :=
  s.me.q.st.getD (q.val - 6) [] = e :: rest ∧ (∃ at_, e.ready = some at_ ∧ at_ ≤ s.now) ∧ s.me.settled e.id = true
/-- The state in which a queue word goes on: the stream TLB of its queue is as its segments have left it. -/
def withTlb (s : State) (q : N8) (tlb : StreamTlb) : State :=
  s.setMe { s.me with q := { s.me.q with tlb := s.me.q.tlb.setIfInBounds q.val tlb } }

/-! Branch queues and the quick A words (07 R151 to R154; 09 R206; 11 R242, R243). -/

def byteOf (b : Bool) : Byte := if b then 1 else 0
inductive BqPutRow (c : Core) : Instr → Guard → List Reg → Fin 4 → Byte → Prop
  | pred {g p q} : BqPutRow c (.bqputA g (.pred p) q) g [] q (byteOf (c.pred .a p))
  | reg {g r q} : BqPutRow c (.bqputA g (.reg r) q) g [r] q (BitVec.ofNat 8 (c.getA r).toNat)
  | short {p q} : BqPutRow c (.bqputAShort q p) p0 [] q (byteOf (c.pred .a p))

/-- The merges of copies whose tags are in a mask; of the matrix commands of a batch. -/
def copiesIn (mask : Word) : Merge → Nat := fun m => match m.src with | .copy _ t => if mask.getLsbD t.val = true then 1 else 0 | _ => 0
def commandsIn (b : N8) : Merge → Nat := fun m => match m.src with | .matrix _ n => if n = b then 1 else 0 | _ => 0

/-- A words that only retire, with what each does to the core's merges: a tag mask with a ready tag, or all tags ready, and a batch that
is FREE; the merges of what has been awaited are then covered by a later DJOIN (11 R243, 09 R206, 13 R290). -/
inductive AOnlyRetires (s : State) : Instr → Guard → List Reg → (Merge → Nat) → Prop
  | tagwany {g m} (h : s.me.getA m &&& s.me.sysReg 0x5D ≠ 0) : 
      AOnlyRetires s (.tagwany g m) g [m] (copiesIn (s.me.getA m &&& s.me.sysReg 0x5D))
  | tagwall {g m} (h : s.me.getA m &&& ~~~s.me.sysReg 0x5D = 0) : AOnlyRetires s (.tagwall g m) g [m] (copiesIn (s.me.getA m))
  | tagwallShort {m} (h : s.me.getA m &&& ~~~s.me.sysReg 0x5D = 0) : AOnlyRetires s (.tagwallShort m) p0 [m] (copiesIn (s.me.getA m))
  | mwaitb {g b} (h : s.me.batch.st[b] = 0) : AOnlyRetires s (.mwaitb g b) g [] (commandsIn b)
  | mcommit {g b} (h : s.me.batch.st[b] ≠ 1) : AOnlyRetires s (.mcommit g b) g [] noMerge

/-- An A word stays at its place: nothing has changed. -/
inductive AWaits (s : State) : Instr → Guard → List Reg → Prop
  | tagwany {g m} (h : s.me.getA m &&& s.me.sysReg 0x5D = 0) (hf : s.me.getA m &&& s.flightMask s.who.core ≠ 0) :
      AWaits s (.tagwany g m) g [m]
  | tagwall {g m} (h : s.me.getA m &&& ~~~s.me.sysReg 0x5D ≠ 0)
      (hf : s.me.getA m &&& ~~~(s.me.sysReg 0x5D ||| s.flightMask s.who.core) = 0) : AWaits s (.tagwall g m) g [m]
  | mwaitb {g b} (h : s.me.batch.st[b] = 2) : AWaits s (.mwaitb g b) g []
  | bqputA {g p q} (h : 32 ≤ s.me.q.bq[q].length) : AWaits s (.bqputA g (.pred p) q) g []
  | bqgetA {g o q} (h : s.me.q.bq[q] = []) : AWaits s (.bqgetA g o q) g []
  | ldq {g q b disp} (h : 16 ≤ (s.me.q.ld.getD q.val []).length) : AWaits s (.ldq g q b disp) g [b]
  | stq {g q b disp} (h : s.me.q.st.getD (q.val - 6) [] = []) : AWaits s (.stq g q b disp) g [b]

/-- The A stream of the core has raised a trap: the request stands last among the core's, with the address of the word or of its
prefix, and its delivery follows the words of the cycle; nothing else has changed. -/
def aTrapped (s t : State) (cause : Cause) : Prop :=
  (∃ p, t.me = { s.me with ao := { s.me.ao with pos := p },
                           traps := s.me.traps
                             ++ [⟨1, 0, 0, cause, if s.me.ao.pos.pfx.isSome then s.me.ao.pos.pfxAt else s.me.ao.pos.pc, 0, 0⟩] })
    ∧ (2 * s.now + 1, Event.trapDelivery s.who.core) ∈ t.agenda
    ∧ (∀ n, n ≠ s.who.core → t.core n = s.core n) ∧ memSame s t ∧ t = { s with cores := t.cores, agenda := t.agenda }

inductive ATrapRow (s : State) : Instr → Guard → List Reg → Cause → Prop
  | tagwany {g m} (h : s.me.getA m &&& (s.me.sysReg 0x5D ||| s.flightMask s.who.core) = 0) :
      ATrapRow s (.tagwany g m) g [m] .tagIdle
  | tagwall {g m} (h : s.me.getA m &&& ~~~(s.me.sysReg 0x5D ||| s.flightMask s.who.core) ≠ 0) :
      ATrapRow s (.tagwall g m) g [m] .tagIdle
  | tagwallShort {m} (h : s.me.getA m &&& ~~~(s.me.sysReg 0x5D ||| s.flightMask s.who.core) ≠ 0) :
      ATrapRow s (.tagwallShort m) p0 [m] .tagIdle
  | mwaitb {g b} (h : s.me.batch.st[b] = 1) : ATrapRow s (.mwaitb g b) g [] .batchOpen
  | cpy {g d sr t ord gc ex cause} (h : copyCheck s.me (.cpy gc ex) s.me.sh[d] s.me.sh[sr] s.me.sh[sr] ord = some cause) :
      ATrapRow s (.cpy g d sr t ord gc ex) g [] cause
  | mmaNoLease {f sa sb d hold ord sq} (h1 : (s.me.getA d).toNat < 2 ^ 41) (h2 : (s.mx s.myTile).newest s.who.core = none) :
      ATrapRow s (.mma f sa sb d hold ord sq) p0 [d] .leaseNone
  | mmaDescriptor {f sa sb d hold ord sq} (h1 : 2 ^ 41 ≤ (s.me.getA d).toNat) :
      ATrapRow s (.mma f sa sb d hold ord sq) p0 [d] .reservedField
  | mzeroNoLease {sh d ord} (h1 : (s.me.getA d).toNat < 2 ^ 41) (h2 : (s.mx s.myTile).newest s.who.core = none) :
      ATrapRow s (.mzero sh d ord) p0 [d] .leaseNone
  /-- after UNLEASE, though a new request is queued -/
  | mmaClosed {f sa sb d hold ord sq o} (h1 : (s.me.getA d).toNat < 2 ^ 41) (h2 : (s.mx s.myTile).oldest s.who.core = some o)
      (h3 : o.closed = 2) : ATrapRow s (.mma f sa sb d hold ord sq) p0 [d] .leaseNone
  | exit {i : Instr} {g e e'} (hi : AExitRow s.me i g e) (he : s.me.ao.pos.exit = some e') : ATrapRow s i g [] .exitMulti

/-! Copy and tail commands (11 R238 to R246; 15 R334, R337). -/

/-- Operation, tag, destination, source and index shapes, ordering. -/
inductive CopyRow (c : Core) : Instr → Guard → COp → Tag → Shape → Shape → Shape → OrdF → Prop
  | cpy {g d sr t ord gc ex} : CopyRow c (.cpy g d sr t ord gc ex) g (.cpy gc ex) t c.sh[d] c.sh[sr] c.sh[sr] ord
  | cpyg {g d tab t idx} : CopyRow c (.cpyg g d tab t idx) g .cpyg t c.sh[d] c.sh[tab] c.sh[idx] ⟨false, false, .core⟩
  | cpyr {g d sr t ord} : CopyRow c (.cpyr g d sr t ord) g .cpyr t c.sh[d] c.sh[sr] c.sh[sr] ord

/-- Operation, segment, shape and tag of a tail command; bit 32 of the register frees the segment of a TAILGET. -/
inductive TailRow (c : Core) : Instr → Guard → Reg → COp → Nat → Shape → Tag → Prop
  | tailput {g sh r t} (h : (c.getA r).toNat < 2048) : TailRow c (.tailput g sh r t) g r .tailput (c.getA r).toNat c.sh[sh] t
  | tailget {g sh r t k} (hk : k < 2048) (h : (c.getA r).toNat = k) : TailRow c (.tailget g sh r t) g r (.tailget false) k c.sh[sh] t
  | tailgetFree {g sh r t k} (hk : k < 2048) (h : (c.getA r).toNat = 2 ^ 32 + k) :
      TailRow c (.tailget g sh r t) g r (.tailget true) k c.sh[sh] t
  | offload {g r t} (h : (c.getA r).toNat < 2048) : TailRow c (.offload g r t) g r .offload (c.getA r).toNat c.sh[(0 : N16)] t
  | recall {g r t} (h : (c.getA r).toNat < 2048) : TailRow c (.recall g r t) g r .recall (c.getA r).toNat c.sh[(0 : N16)] t

/-! Matrix commands (09 R192, R193, R197 to R206). -/

/-- Operation, shapes, descriptor register, hold, ordering, scales from q5. -/
inductive MatrixRow : Instr → MOp → N16 → N16 → Reg → Bool → OrdF → Bool → Prop
  | mma {f sa sb d hold ord sq} : MatrixRow (.mma f sa sb d hold ord sq) (.mma f false) sa sb d hold ord sq
  | mmas {f sa sb d hold ord sq} : MatrixRow (.mmas f sa sb d hold ord sq) (.mma f true) sa sb d hold ord sq
  | mzero {sh d ord} : MatrixRow (.mzero sh d ord) .mzero sh sh d false ord false
  | mdrain {m dst mul d ord} : MatrixRow (.mdrain m dst mul d ord) (.mdrain m) dst mul d false ord false

/-- A command as its word issues it. -/
def commandOf (s : State) (op : MOp) (a b : N16) (d : Reg) (hold : Bool) (ord : OrdF) (sq : Bool) : MCmd :=
  { id := (s.mx s.myTile).nextId, core := s.who.core, run := 0, op := op, sa := s.me.sh[a], sb := s.me.sh[b],
    desc := (s.me.getA d).toNat, ord := ord, hold := hold, sq := sq, part := (s.me.sysReg 0x60).toNat, sup := s.me.sup, index := 0,
    issue := s.now, rows := Shape.ext s.me.sh[a] 1,
    cols := (match op with | .mma _ _ => Shape.ext s.me.sh[b] 0 | _ => Shape.ext s.me.sh[a] 0),
    spans := [], st := .queued, start := 0, dur := 0, kdone := 0, rowg := 0, opA := [], opB := [], posn := [], scales := [], rest := [],
    blk := 0, watch := [], marked := false, biv := 0, prefA := s.me.q.pref[8], prefB := s.me.q.pref[9], failAt := none, ret := none }

/-- The checks of a matrix word pass and nothing makes it wait: no run closed by UNLEASE before its own, an open lease, legal shapes and
parameters, a granted plane, operand spans in place, a batch that is FREE or OPEN and not abandoned, fewer than 32 commands of the core,
and no held range in its way. -/
def matrixClear (s : State) (op : MOp) (m : MCmd) (r : MRun) (spans : List Span) : Prop :=
  m.desc < 2 ^ 41 ∧ (∀ o, (s.mx s.myTile).oldest s.who.core = some o → o.closed ≠ 2)
    ∧ (s.mx s.myTile).newest s.who.core = some r ∧ r.closed = 0 ∧ m.shapeCause s.me = none ∧ m.paramsOk = true
    ∧ m.plane < 62 ∧ bitOf (s.me.sysReg 0x61).toNat m.plane = true
    ∧ placeSpans m.part s.me.hasTail (match op with | .mdrain _ => true | _ => false) m.spanList = .ok spans
    ∧ (s.mx s.myTile).cmds.all (fun x => x.core != s.who.core || x.holds.isEmpty) = true ∧ spans.length ≤ 16
    ∧ ((s.mx s.myTile).cmds.filter (fun x => x.core == s.who.core && x.st != .done)).length < 32
    ∧ (s.me.batch.st[m.batch] = 0 ∨ s.me.batch.st[m.batch] = 1 ∧ s.me.batch.abandoned[m.batch] = false)
    ∧ (s.me.batch.st[m.batch] = 0 → s.me.batch.abandoned[m.batch] = false)


/-! The X stream. -/

/-- An X word that nothing holds back: its DLY has passed, its guard is true in an iteration of its qualifier, its queue heads are
there and ready and its store queue has room, its unit accepts it, the scoreboard finds neither an operand nor a destination whose
result is still to land, and no register that it reads holds an uncorrectable error (05 R99, R111, R115, R116; 07 R139, R140; 18 R375). -/
def xGo (s : State) (w : XIn) : Prop :=
  s.who.st = .x ∧ s.me.xr.sbWait = false ∧ s.me.xo.pos.last + 1 + w.dly ≤ s.now
  ∧ s.me.guard .x (s.me.xGuard w.guard) = true ∧ iqHolds s.me.xo = true
  ∧ (∀ f ∈ s.me.xr.flights, f.hits (.p (s.me.xGuard w.guard).p.val) = false)
  ∧ s.me.heads s.now w.srcs = true ∧ w.qwait = false
  ∧ (∀ n, w.qd = some n → (s.me.q.st.getD (n.val - 6) []).length < 16)
  ∧ (∀ f ∈ s.me.xr.flights, ∀ i ∈ s.me.srcItems w.srcs ++ w.reads, f.hits i = false)
  ∧ (∀ f ∈ s.me.xr.flights, ∀ i ∈ w.writes, f.hits i = true → ∃ k, f.land = some k ∧ k < s.now + w.lat)
  ∧ (∀ o ∈ w.srcs, ∀ u, o.1 = .l u → ∀ f ∈ s.me.xr.flights, ∀ v, f.unit = some (u, v) → f.id ≤ s.me.xr.lid[u])
  ∧ (w.unit = .fma → s.me.xr.fma0 ≤ s.now ∨ s.me.xr.fma1 ≤ s.now) ∧ (w.unit = .one 6 → s.me.xr.vred ≤ s.now)
  ∧ ((∃ o ∈ w.srcs, o.1 = .q 5) → s.scaleReader s.who.core = false) ∧ w.bad = none ∧ w.cells = false
  ∧ s.me.bad ((s.me.srcItems w.srcs ++ w.reads).filterMap Item.reg) = false

/-- The word has taken its operands from the load queues. -/
def popped (c d : Core) (srcs : List (Src × Nat)) : Prop :=
  ∀ n, d.q.ld.getD n [] = (c.q.ld.getD n []).drop ((srcs.filter (fun o => decide (∃ k, o.1 = .q k ∧ k.val = n))).length)

/-- What a QSCALE that may still be refused keeps: entries that this word has taken from the load queues are added (13 R296). -/
def keptEntries (c d : Core) : Prop := ∃ e, d.scales = c.scales.map (fun v => { v with popped := v.popped ++ e })

/-- A message of an X word leaves in a cycle; while a QSCALE of the core may still be refused, it stays with the newest of them (08 R176,
13 R296). -/
def owing (s : State) (cycle : Nat) (e : Event) : State :=
  match s.me.scales.getLast? with
  | none => s.at_ cycle e
  | some v => s.setMe { s.me with scales := s.me.scales.dropLast ++ [{ v with owed := v.owed ++ [(cycle, e)] }] }

/-- The unit that serves the word: VFMA0 when it can accept it, else VFMA1 (08 R163). -/
def servedBy (r : XRegs) (now : Nat) : XUnit → Option N8
  | .none => none
  | .one u => some u
  | .fma => if r.fma0 ≤ now then some 3 else some 4

/-- A store-queue slot for a result that goes to q6 or q7 (07 R139). -/
def slotted (c : Core) (d : FDst) : Vector (List StoreEntry) 2 :=
  match d with
  | .q n v en => c.q.st.setIfInBounds (n - 6) (c.q.st.getD (n - 6) [] ++ [⟨c.xr.nextId, v, en, none⟩])
  | _ => c.q.st

/-- An X word has issued: its operands are taken, its result is in flight and lands w.lat cycles later, its unit is busy, SRCTR has
moved on by the values it drew, and nothing else has changed. -/
def xDone (s t : State) (w : XIn) (dst : FDst) (latch : Vec) (so : SealOp) (sr busy : Nat) : Prop :=
  onlyMeAnd s t ∧ popped s.me t.me w.srcs ∧ keptEntries s.me t.me
  ∧ (2 * (s.now + w.lat), Event.xResultLand s.who.core s.me.xr.nextId) ∈ t.agenda
  ∧ t.me = { s.me with
      q := { s.me.q with ld := t.me.q.ld, st := slotted s.me dst }
      xr := { s.me.xr with
        flights := s.me.xr.flights
          ++ [⟨s.me.xr.nextId, some (s.now + w.lat), (servedBy s.me.xr s.now w.unit).map (fun u => (u, latch)), dst, so, false⟩],
        nextId := s.me.xr.nextId + 1,
        fma0 := if w.unit = .fma ∧ s.me.xr.fma0 ≤ s.now then s.now + 2 else s.me.xr.fma0,
        fma1 := if w.unit = .fma ∧ s.now < s.me.xr.fma0 then s.now + 2 else s.me.xr.fma1,
        vred := if w.unit = .one 6 then s.now + busy else s.me.xr.vred }
      scales := t.me.scales
      sys := t.me.sys
      xo := { s.me.xo with pos := t.me.xo.pos } }
  ∧ (∀ i, i ≠ 0x53 → t.me.sysReg i = s.me.sysReg i)
  ∧ t.me.sysReg 0x53 = s.me.sysReg 0x53 + BitVec.ofNat 64 (if s.me.xRnd = .sr then sr else 0)

/-- A lane of an operand of a word: the k-th lane of width w of the n-th operand. -/
def opLane (c : Core) (srcs : List (Src × Nat)) (n w k : Nat) : Nat := lane ((c.srcVals srcs []).getD n 0) w k

/-- Where the mask lets a lane through (08 R160). -/
def masked (c : Core) (me : Bool) (w : Nat) (f : Nat → Nat) : Nat → Option Nat := fun k => if c.active me w k then some (f k) else none

/-- Lanes 0 to n-1 of the result from lanes of width ws of the operand, zero above them (08 R162). -/
def converted (c : Core) (me : Bool) (ws n : Nat) (f : Nat → Nat) : Nat → Option Nat :=
  fun k => if n ≤ k then some 0 else if c.active me ws k then some (f k) else none

/-- Lane 0 has the value and every other lane is 0 (08 R180). -/
def alone (v : Nat) : Nat → Option Nat := fun k => some (if k = 0 then v else 0)

/-- The active lanes of an operand, in order. -/
def actives (c : Core) (me : Bool) (srcs : List (Src × Nat)) (w : Nat) : List (Option Nat) :=
  (List.range (2048 / w)).map (fun k => if c.active me w k then some (opLane c srcs 0 w k) else none)

def intOf (w v : Nat) : Int := (BitVec.ofNat w v).toInt
/-- An exact integer that saturates under SAT and wraps without it (08 R166). -/
def fits (c : Core) (w : Nat) (z : Int) : Nat := wrapTo w (if c.xSat then satTo w z else z)

/-- What a fused word adds to its product: the old lane, negated by VFMS; a word without a v destination gives the rounded product
(08 R165). -/
def addend (c : Core) (f : Fmt) (negC : Bool) (d : Dst) (k : Nat) : Machine.Num :=
  match d with
  | .v n => if negC then (laneNum f (lane (c.getV n) (fmtWidth f) k)).neg else laneNum f (lane (c.getV n) (fmtWidth f) k)
  | _ => .fin true 0 0

/-- The words with a vector destination: what they need to issue, destination, lane width and counter draws, the value of each lane,
none where the old lane stays (08 R160 to R181; 15 R320, R323; 04 R84). -/
inductive XVecRow (c : Core) : Instr → XIn → Dst → Nat → Nat → (Nat → Option Nat) → SealOp → Nat → Prop
  | vadd {f dly d a b me} (o : _) (ho : o = [(a, fmtWidth f), (b, fmtWidth f)]) :
      XVecRow c (.vadd f dly d a b me) (c.vecIn dly d me o (.one 0) 2) d (fmtWidth f) (2048 / fmtWidth f)
        (masked c me (fmtWidth f) (fun k => roundLane f (c.rounding k) (Machine.Num.add (c.xRnd == .rdn) (laneNum f (opLane c o 0 (fmtWidth f) k))
          (laneNum f (opLane c o 1 (fmtWidth f) k))))) .none 1
  | vsub {f dly d a b me} (o : _) (ho : o = [(a, fmtWidth f), (b, fmtWidth f)]) :
      XVecRow c (.vsub f dly d a b me) (c.vecIn dly d me o (.one 0) 2) d (fmtWidth f) (2048 / fmtWidth f)
        (masked c me (fmtWidth f) (fun k => roundLane f (c.rounding k) (Machine.Num.add (c.xRnd == .rdn) (laneNum f (opLane c o 0 (fmtWidth f) k))
          (laneNum f (opLane c o 1 (fmtWidth f) k)).neg))) .none 1
  | vmul {f dly d a b me} (o : _) (ho : o = [(a, fmtWidth f), (b, fmtWidth f)]) :
      XVecRow c (.vmul f dly d a b me) (c.vecIn dly d me o (.one 2) 3) d (fmtWidth f) (2048 / fmtWidth f)
        (masked c me (fmtWidth f) (fun k => roundLane f (c.rounding k) (Machine.Num.mul (laneNum f (opLane c o 0 (fmtWidth f) k))
          (laneNum f (opLane c o 1 (fmtWidth f) k))))) .none 1
  | fma {i : Instr} {f dly d a b me negP negC} (o : _) (ho : o = [(a, fmtWidth f), (b, fmtWidth f)])
      (hi : i = .vfma f dly d a b me ∧ negP = false ∧ negC = false ∨ i = .vfms f dly d a b me ∧ negP = false ∧ negC = true
        ∨ i = .vfnma f dly d a b me ∧ negP = true ∧ negC = false) :
      XVecRow c i { c.vecIn dly d me o .fma 4 with reads := (if me then [Item.m c.xMaskNo.val] else []) ++ c.dstItems d }
        d (fmtWidth f) (2048 / fmtWidth f)
        (masked c me (fmtWidth f) (fun k =>
          let p := Machine.Num.mul (laneNum f (opLane c o 0 (fmtWidth f) k)) (laneNum f (opLane c o 1 (fmtWidth f) k))
          roundLane f (c.rounding k) (Machine.Num.add (c.xRnd == .rdn) (if negP then p.neg else p) (addend c f negC d k)))) .none 1
  | least {i : Instr} {f dly d a b me} (o : _) (ho : o = [(a, fmtWidth f), (b, fmtWidth f)])
      (hi : i = .vmin f dly d a b me ∨ i = .vimin f dly d a b me) :
      XVecRow c i (c.vecIn dly d me o (.one 0) 2) d (fmtWidth f) 0
        (masked c me (fmtWidth f) (fun k =>
          let x := opLane c o 0 (fmtWidth f) k
          let y := opLane c o 1 (fmtWidth f) k
          if laneNan f x || laneNan f y then nanOf f else if laneKey f y < laneKey f x then y else x)) .none 1
  | greatest {i : Instr} {f dly d a b me} (o : _) (ho : o = [(a, fmtWidth f), (b, fmtWidth f)])
      (hi : i = .vmax f dly d a b me ∨ i = .vimax f dly d a b me) :
      XVecRow c i (c.vecIn dly d me o (.one 0) 2) d (fmtWidth f) 0
        (masked c me (fmtWidth f) (fun k =>
          let x := opLane c o 0 (fmtWidth f) k
          let y := opLane c o 1 (fmtWidth f) k
          if laneNan f x || laneNan f y then nanOf f else if laneKey f x < laneKey f y then y else x)) .none 1
  | vabs {f dly d a me} (o : _) (ho : o = [(a, fmtWidth f)]) :
      XVecRow c (.vabs f dly d a me) (c.vecIn dly d me o (.one 0) 2) d (fmtWidth f) 0
        (masked c me (fmtWidth f) (fun k =>
          let x := opLane c o 0 (fmtWidth f) k
          if laneNan f x then nanOf f else x % 2 ^ (fmtWidth f - 1))) .none 1
  | vneg {f dly d a me} (o : _) (ho : o = [(a, fmtWidth f)]) :
      XVecRow c (.vneg f dly d a me) (c.vecIn dly d me o (.one 0) 2) d (fmtWidth f) 0
        (masked c me (fmtWidth f) (fun k =>
          let x := opLane c o 0 (fmtWidth f) k
          if laneNan f x then nanOf f else (x + 2 ^ (fmtWidth f - 1)) % 2 ^ fmtWidth f)) .none 1
  | integer {i : Instr} {f dly d a b me} {unit : N8} {lat : Nat} {op : Int → Int → Int} (o : _) (ho : o = [(a, fmtWidth f), (b, fmtWidth f)])
      (hi : i = .viadd f dly d a b me ∧ unit = 0 ∧ lat = 2 ∧ op = (fun x y => x + y)
        ∨ i = .visub f dly d a b me ∧ unit = 0 ∧ lat = 2 ∧ op = (fun x y => x - y)
        ∨ i = .vimul f dly d a b me ∧ unit = 2 ∧ lat = 3 ∧ op = (fun x y => x * y)) :
      XVecRow c i (c.vecIn dly d me o (.one unit) lat) d (fmtWidth f) 0
        (masked c me (fmtWidth f) (fun k =>
          fits c (fmtWidth f) (op (intOf (fmtWidth f) (opLane c o 0 (fmtWidth f) k)) (intOf (fmtWidth f) (opLane c o 1 (fmtWidth f) k)))))
        .none 1
  | vimulh {f dly d a b me} (o : _) (ho : o = [(a, fmtWidth f), (b, fmtWidth f)]) :
      XVecRow c (.vimulh f dly d a b me) (c.vecIn dly d me o (.one 2) 3) d (fmtWidth f) 0
        (masked c me (fmtWidth f) (fun k => wrapTo (fmtWidth f)
          (intOf (fmtWidth f) (opLane c o 0 (fmtWidth f) k) * intOf (fmtWidth f) (opLane c o 1 (fmtWidth f) k) / 2 ^ fmtWidth f))) .none 1
  | viabs {f dly d a me} (o : _) (ho : o = [(a, fmtWidth f)]) :
      XVecRow c (.viabs f dly d a me) (c.vecIn dly d me o (.one 0) 2) d (fmtWidth f) 0
        (masked c me (fmtWidth f) (fun k => fits c (fmtWidth f) (intOf (fmtWidth f) (opLane c o 0 (fmtWidth f) k)).natAbs)) .none 1
  | shift {i : Instr} {f dly d a b me} {op : Nat → Nat → Nat} (o : _) (ho : o = [(a, fmtWidth f), (b, fmtWidth f)])
      (hi : i = .vshl f dly d a b me ∧ op = (fun x n => x * 2 ^ n)
        ∨ i = .vshr f dly d a b me ∧ op = (fun x n => x / 2 ^ n)
        ∨ i = .vsra f dly d a b me ∧ op = (fun x n => wrapTo (fmtWidth f) (intOf (fmtWidth f) x / 2 ^ n))) :
      XVecRow c i (c.vecIn dly d me o (.one 1) 2) d (fmtWidth f) 0
        (masked c me (fmtWidth f) (fun k => op (opLane c o 0 (fmtWidth f) k) (opLane c o 1 (fmtWidth f) k % fmtWidth f))) .none 1
  | bits {i : Instr} {dly d a b me} {op : Nat → Nat → Nat} (o : _) (ho : o = [(a, 8), (b, 8)])
      (hi : i = .vand dly d a b me ∧ op = Nat.land ∨ i = .vor dly d a b me ∧ op = Nat.lor ∨ i = .vxor dly d a b me ∧ op = Nat.xor) :
      XVecRow c i (c.vecIn dly d me o (.one 1) 2) d 8 0
        (masked c me 8 (fun k => op (opLane c o 0 8 k) (opLane c o 1 8 k))) .none 1
  | vnot {dly d a me} (o : _) (ho : o = [(a, 8)]) :
      XVecRow c (.vnot dly d a me) (c.vecIn dly d me o (.one 1) 2) d 8 0 (masked c me 8 (fun k => 255 - opLane c o 0 8 k)) .none 1
  | vsel {f dly d a b} (o : _) (ho : o = [(a, fmtWidth f), (b, fmtWidth f)]) :
      XVecRow c (.vsel f dly d a b) { c.vecIn dly d false o (.one 0) 2 with reads := [.m c.xMaskNo.val] } d (fmtWidth f) 0
        (fun k => some (if c.xMask.getLsbD (fmtWidth f / 8 * k) then opLane c o 0 (fmtWidth f) k else opLane c o 1 (fmtWidth f) k)) .none 1
  | move {i : Instr} {f dly d a me} (o : _) (ho : o = [(a, fmtWidth f)])
      (hi : i = .vmov f dly d a me ∨ (∃ l, i = .vmovl f dly d l me ∧ a = .l l)
        ∨ (∃ dr ar, i = .vmovShort dr ar ∧ f = .f32 ∧ dly = 0 ∧ d = .v dr ∧ a = .v ar ∧ me = false)) :
      XVecRow c i (c.vecIn dly d me o (.one 1) 2) d (fmtWidth f) 0 (masked c me (fmtWidth f) (opLane c o 0 (fmtWidth f))) .none 1
  | vbcast {f dly d x me} :
      XVecRow c (.vbcast f dly d x me)
        { c.vecIn dly d me [] (.one 1) 2 with reads := (c.vecIn dly d me [] (.one 1) 2).reads ++ [.x x.val] } d (fmtWidth f) 0
        (masked c me (fmtWidth f) (fun _ => (c.getX x).toNat)) .none 1
  | vli {f dly d imm me} :
      XVecRow c (.vli f dly d imm me) (c.vecIn dly d me [] (.one 1) 2) d (fmtWidth f) 0
        (masked c me (fmtWidth f) (fun _ =>
          if f = .i32 ∨ f = .i16 ∨ f = .i8 then wrapTo (fmtWidth f) imm.toInt else imm.toNat * 2 ^ (fmtWidth f - 12))) .none 1
  | vperm {f dly d a b me} (o : _) (ho : o = [(a, fmtWidth f), (b, fmtWidth f)]) :
      XVecRow c (.vperm f dly d a b me) (c.vecIn dly d me o (.one 1) 2) d (fmtWidth f) 0
        (masked c me (fmtWidth f) (fun k =>
          if opLane c o 1 (fmtWidth f) k < 2048 / fmtWidth f then opLane c o 0 (fmtWidth f) (opLane c o 1 (fmtWidth f) k) else 0)) .none 1
  | vslide {f dly d a b me} (o : _) (ho : o = [(a, fmtWidth f), (b, 32)]) :
      XVecRow c (.vslide f dly d a b me) (c.vecIn dly d me o (.one 1) 2) d (fmtWidth f) 0
        (masked c me (fmtWidth f) (fun k =>
          let j : Int := k + intOf 32 (opLane c o 1 32 0)
          if 0 ≤ j ∧ j < (2048 / fmtWidth f : Nat) then opLane c o 0 (fmtWidth f) j.toNat else 0)) .none 1
  | vcvt {dly d a sf df me} (o : _) (ho : o = [(a, cfmtWidth sf)]) :
      XVecRow c (.vcvt dly d a sf df me) (c.vecIn dly d me o (.one 7) 3) d (cfmtWidth df) (2048 / max (cfmtWidth sf) (cfmtWidth df))
        (converted c me (cfmtWidth sf) (2048 / max (cfmtWidth sf) (cfmtWidth df))
          (fun k => cfmtRound df (c.rounding k) (cfmtNum sf (opLane c o 0 (cfmtWidth sf) k)))) .none 1
  | vqnt {dly d a qf xs me} (o : _) (ho : o = [(a, 32)]) (hb : (c.sysReg 0x55).toNat.testBit 4 = false) :
      XVecRow c (.vqnt dly d a qf xs me)
        { c.vecIn dly d me o (.one 7) 3 with reads := (c.vecIn dly d me o (.one 7) 3).reads ++ [.x xs.val] } d 8 64
        (converted c me 32 64 (fun k => (quantLane qf ((c.getX xs).toNat % 256) (c.rounding k) (opLane c o 0 32 k)).1)) .none 1
  | vdqnt {dly d a qf xs me} (o : _) (ho : o = [(a, 8)]) :
      XVecRow c (.vdqnt dly d a qf xs me)
        { c.vecIn dly d me o (.one 7) 3 with reads := (c.vecIn dly d me o (.one 7) 3).reads ++ [.x xs.val] } d 32 64
        (converted c me 8 64 (fun k => dequantLane qf ((c.getX xs).toNat % 256) (c.rounding k) (opLane c o 0 8 k))) .none 1
  | q32 {i : Instr} {dly d a sh me} {op : Nat → Nat} (o : _) (ho : o = [(a, 32)]) (hq : (c.sh[sh].toNat / 2 ^ 416) % 32 ≠ 31)
      (hr : (c.sh[sh].toNat / 2 ^ 352) % 256 = 0 ∧ (c.sh[sh].toNat / 2 ^ 378) % 4 = 0 ∧ c.sh[sh].toNat / 2 ^ 421 = 0)
      (hi : i = .qfix dly d a sh me ∧ op = qfixLane ((c.sh[sh].toNat / 2 ^ 416) % 32)
        ∨ i = .qflt dly d a sh me ∧ op = qfltLane ((c.sh[sh].toNat / 2 ^ 416) % 32)) :
      XVecRow c i (c.vecIn dly d me o (.one 7) 3) d 32 0 (masked c me 32 (fun k => op (opLane c o 0 32 k))) .none 1
  | paired {i : Instr} {dly d a b me} {op : Int → Int → Int} (o : _) (ho : o = [(a, 32), (b, 32)])
      (hi : i = .revadd dly d a b me ∧ op = (fun x y => x + y) ∨ i = .revsub dly d a b me ∧ op = (fun x y => x - y)) :
      XVecRow c i { c.vecIn dly d me o (.one 7) 3 with writes := .sealAcc :: (c.vecIn dly d me o (.one 7) 3).writes } d 32 0
        (masked c me 32 (fun k => wrapTo 32 (op (opLane c o 0 32 k) (opLane c o 1 32 k))))
        (.add (((List.range 64).filter (fun k => c.active me 32 k)).flatMap (fun k =>
          (List.range 4).map (fun j => opLane c o 1 32 k / 256 ^ j % 256)))) 1
  | special {i : Instr} {f dly d a me} {fn : Machine.Num → Machine.Num} (o : _) (ho : o = [(a, fmtWidth f)])
      (hi : i = .vexp2 f dly d a me ∧ fn = exp2Num ∨ i = .vlog2 f dly d a me ∧ fn = log2Num ∨ i = .vrcp f dly d a me ∧ fn = rcpNum
        ∨ i = .vrsqrt f dly d a me ∧ fn = rsqrtNum ∨ i = .vtanh f dly d a me ∧ fn = tanhNum) :
      XVecRow c i (c.vecIn dly d me o (.one 5) 8) d (fmtWidth f) 0
        (masked c me (fmtWidth f) (fun k => roundLane f ⟨.rne, 0, c.xSat⟩ (fn (laneNum f (opLane c o 0 (fmtWidth f) k))))) .none 1
  | vrnd {raw dly d xs xb me} :
      XVecRow c (.vrnd raw dly d xs xb me)
        { c.vecIn dly d me [] (.one 5) 8 with reads := (c.vecIn dly d me [] (.one 5) 8).reads ++ [.x xs.val, .x xb.val] } d 32 0
        (masked c me 32 (fun k =>
          let r := draw ((c.getX xs).toNat % 2 ^ 32) ((c.getX xs).toNat / 2 ^ 32) ((c.getX xb).toNat + k)
          if raw then r else fp32.round rne (.fin false (r / 256) (-24)))) .none 1
  | reduce {i : Instr} {f dly d a me} {wd : Nat} {g : List (Option Nat) → Nat} (o : _) (ho : o = [(a, fmtWidth f)])
      (hi : i = .vredsum f dly d a me ∧ wd = 32 ∧ g = redSum f c.xSat
        ∨ i = .vredmax f dly d a me ∧ wd = fmtWidth f ∧ g = redExtreme f true
        ∨ i = .vredmin f dly d a me ∧ wd = fmtWidth f ∧ g = redExtreme f false
        ∨ (∃ mn, i = .vredarg f dly d a mn me ∧ wd = 32 ∧ g = redArg f mn)) :
      XVecRow c i { c.vecIn dly d false o (.one 6) 6 with reads := if me then [.m c.xMaskNo.val] else [] } d wd 0
        (alone (g (actives c me o (fmtWidth f)))) .none 1
  | scan {f dly d a me} (o : _) (ho : o = [(a, 32)]) :
      XVecRow c (.vscan f dly d a me) (c.vecIn dly d me o (.one 6) 8) d 32 0
        (fun k => ((if f = .f32 then scanFloat ⟨.rne, 0, c.xSat⟩ none (actives c me o 32) else scanInt c.xSat 0 (actives c me o 32)).getD k none))
        .none 2

/-- The words that write a mask: what they need, the mask, its bits, and for VCMP the lane width of what its latch receives (08 R168,
R170). -/
inductive XMaskRow (c : Core) : Instr → XIn → N8 → (Nat → Bool) → Option Nat → Prop
  | vcmp {f dly cc md a b me} (o : _) (ho : o = [(a, fmtWidth f), (b, fmtWidth f)]) :
      XMaskRow c (.vcmp f dly cc md a b me)
        { dly := dly.val, srcs := o, reads := if me then [.m c.xMaskNo.val] else [], writes := [.m md.val], unit := .one 0, lat := 2 } md
        (fun b => c.active me (fmtWidth f) (b / (fmtWidth f / 8))
          && laneCond f cc (opLane c o 0 (fmtWidth f) (b / (fmtWidth f / 8))) (opLane c o 1 (fmtWidth f) (b / (fmtWidth f / 8))))
        (some (fmtWidth f))
  | logic {i : Instr} {dly md ma mb : N8} {op : Bool → Bool → Bool}
      (hi : i = .mand dly md ma mb ∧ op = and ∨ i = .mor dly md ma mb ∧ op = or ∨ i = .mxor dly md ma mb ∧ op = xor) :
      XMaskRow c i { dly := dly.val, reads := [.m ma.val, .m mb.val], writes := [.m md.val] } md
        (fun k => op (c.xr.m[ma].getLsbD k) (c.xr.m[mb].getLsbD k)) none
  | mnot {dly md ma} :
      XMaskRow c (.mnot dly md ma) { dly := dly.val, reads := [.m ma.val], writes := [.m md.val] } md (fun k => !c.xr.m[ma].getLsbD k) none
  | mset {dly md x} :
      XMaskRow c (.mset dly md x) { dly := dly.val, reads := [.x x.val], writes := [.m md.val] } md
        (fun k => decide (k < (c.getX x).toNat)) none

/-- The words that write an x scalar (08 R170, R183; 15 R324). -/
inductive XScalarRow (c : Core) : Instr → XIn → N16 → Word → Prop
  | mpop {dly x ma} :
      XScalarRow c (.mpop dly x ma) { dly := dly.val, reads := [.m ma.val], writes := [.x x.val] } x
        (BitVec.ofNat 64 ((List.range 256).filter (fun k => c.xr.m[ma].getLsbD k)).length)
  | mff {dly x ma} :
      XScalarRow c (.mff dly x ma) { dly := dly.val, reads := [.m ma.val], writes := [.x x.val] } x
        (BitVec.ofNat 64 ((List.range 256).takeWhile (fun k => !c.xr.m[ma].getLsbD k)).length)
  | sealget {dly x} :
      XScalarRow c (.sealget dly x) { dly := dly.val, reads := [.sealAcc], writes := [.x x.val] } x c.xr.sealAcc
  | xli {x imm} : XScalarRow c (.xli x imm) { writes := [.x x.val] } x (BitVec.ofInt 64 imm.toInt)
  | xaddi {x a imm} :
      XScalarRow c (.xaddi x a imm) { reads := [.x a.val], writes := [.x x.val] } x (BitVec.ofInt 64 ((c.getX a).toInt + imm.toInt))
  | xaddiShort {x imm} :
      XScalarRow c (.xaddiShort x imm) { reads := [.x x.val], writes := [.x x.val] } x (BitVec.ofInt 64 ((c.getX x).toInt + imm.toInt))
  | xlane {x v wd ln} {bits : Nat} (hb : bits = match wd with | .b => 8 | .h => 16 | .w => 32 | .d => 64) :
      XScalarRow c (.xlane x v wd ln) { srcs := [(v, bits)], writes := [.x x.val], lat := 2 } x
        (BitVec.ofNat 64 (opLane c [(v, bits)] 0 bits ln.val))

/-- An X word and what it needs to issue. -/
def xNeeds (c : Core) (i : Instr) (w : XIn) : Prop :=
  (∃ d wd sr val so b, XVecRow c i w d wd sr val so b) ∨ (∃ md bit l, XMaskRow c i w md bit l) ∨ ∃ x v, XScalarRow c i w x v

/-- The place of a vector result: the v register RRB leads to, a slot of a store queue with the bytes it enables, or none (05 R112;
07 R141). -/
def placed (c : Core) (d : Dst) (wd : Nat) (val : Nat → Option Nat) (v : Vec) (r : FDst) : Prop :=
  match d with
  | .v n => r = .v (physV c.xo.rrb n) v
  | .q n => ∃ en : Mask, r = .q n.val v en ∧ ∀ b, b < 256 → en.getLsbD b = (val (b / (wd / 8))).isSome
  | .none => r = .none

/-- What an inactive lane keeps (08 R161). -/
def oldLane (c : Core) (d : Dst) (wd k : Nat) : Nat := match d with | .v n => lane (c.getV n) wd k | _ => 0

/-- The X stream of the core has raised a trap and has had no other effect. -/
def xTrapped (s t : State) (cause : Cause) (info1 : Nat) : Prop :=
  (∃ p, t.me = { s.me with xo := { s.me.xo with pos := p },
                           traps := s.me.traps
                             ++ [⟨2, 0, 0, cause, if s.me.xo.pos.pfx.isSome then s.me.xo.pos.pfxAt else s.me.xo.pos.pc, 0, info1⟩] })
    ∧ (2 * s.now + 1, Event.trapDelivery s.who.core) ∈ t.agenda
    ∧ (∀ n, n ≠ s.who.core → t.core n = s.core n) ∧ memSame s t ∧ t = { s with cores := t.cores, agenda := t.agenda }

/-- What a QSCALE needs: its result comes with the reply, 14 + 4h cycles after its issue where nothing makes it wait at the home
(08 R176). -/
def scaleNeeds (s : State) (dly : N8) (xd xn : N16) : XIn :=
  { dly := dly.val, reads := [.x xn.val], writes := [.x xd.val], unit := .one 7,
    lat := 14 + 4 * s.hops s.myTile ((s.me.getX xn).toNat / 256 % 256) }

/-- Words of the X stream that trap as they issue: what they need, cause, second information word. -/
inductive XTrapRow (s : State) : Instr → XIn → Cause → Nat → Prop
  | katchk {dly v k} {n : Nat} (hn : n = crc64 0 ((List.range 256).map (opLane s.me [(v, 8)] 0 8))) (h : n ≠ k.toNat) :
      XTrapRow s (.katchk dly v k) { dly := dly.val, srcs := [(v, 8)] } .katMismatch n
  | qfix {i : Instr} {dly d a sh me} (hi : i = .qfix dly d a sh me ∨ i = .qflt dly d a sh me)
      (h : (s.me.sh[sh].toNat / 2 ^ 352) % 256 = 0 ∧ (s.me.sh[sh].toNat / 2 ^ 378) % 4 = 0 ∧ s.me.sh[sh].toNat / 2 ^ 421 = 0)
      (hq : (s.me.sh[sh].toNat / 2 ^ 416) % 32 = 31) :
      XTrapRow s i (s.me.vecIn dly d me [(a, 32)] (.one 7) 3) .shapeInvalid 0
  | qfixReserved {i : Instr} {dly d a sh me} (hi : i = .qfix dly d a sh me ∨ i = .qflt dly d a sh me)
      (h : (s.me.sh[sh].toNat / 2 ^ 352) % 256 ≠ 0 ∨ (s.me.sh[sh].toNat / 2 ^ 378) % 4 ≠ 0 ∨ s.me.sh[sh].toNat / 2 ^ 421 ≠ 0) :
      XTrapRow s i (s.me.vecIn dly d me [(a, 32)] (.one 7) 3) .reservedField 0
  /-- a record number beyond the last; every other refusal of a QSCALE is its home's -/
  | qscale {dly xd xn qf h} (hv : 2 ^ 16 ≤ (s.me.getX xn).toNat) :
      XTrapRow s (.qscale dly xd xn qf h) (scaleNeeds s dly xd xn) .reservedField 0
  | exit {i : Instr} {g e e'} (hi : XExitRow s.me i g e) (he : s.me.xo.pos.exit = some e') :
      XTrapRow s i { guard := g } .exitMulti 0

/-- The row of an accumulator word: a literal, or the 64 bits of an x scalar, which it then reads (10 R219, R220). -/
def rowOf (c : Core) : RowSel → Nat | .lit r => r.val | .x r => (c.getX r).toNat
def rowReads : RowSel → List Item | .lit _ => [] | .x r => [.x r.val]
/-- The place that an ACLD will fill. -/
def loadDst (c : Core) : Dst → FDst | .v n => .v (physV c.xo.rrb n) 0 | .q n => .q n.val 0 (BitVec.allOnes 256) | .none => .none

/-- The accumulator words: operation, upper half, plane, row, what they need, destination (10 R217 to R220). -/
inductive AccRow (c : Core) : Instr → AccOp → Bool → Fin 64 → RowSel → XIn → FDst → Prop
  | acld {hi dly v p row} :
      AccRow c (.acld hi dly v p row) .load hi p row
        { dly := dly.val, writes := c.dstItems v, qd := dstQueue v, lat := 5, reads := rowReads row } (loadDst c v)
  | acst {hi dly v p row} :
      AccRow c (.acst hi dly v p row) .store hi p row { dly := dly.val, srcs := [(v, 32)], reads := rowReads row } .none
  | acsta {hi int dly v p row} :
      AccRow c (.acsta hi int dly v p row) (if int then .addI else .addF) hi p row
        { dly := dly.val, srcs := [(v, 32)], reads := rowReads row } .none

/-! Events. Each row gives an event, the state it meets and what holds of the next state. -/

/-- Only core n differs. -/
def inCore (s : State) (n : Nat) (t : State) : Prop := ∃ c, t = s.setCore n c
/-- DRAM, scratchpads, accumulators and other packages' memory hold what they held. -/
def sameMem (s t : State) : Prop := t.dram = s.dram ∧ t.scratch = s.scratch ∧ t.accum = s.accum ∧ t.remote = s.remote
/-- The bytes of a memory from `a` on are those given, and every other byte is as before. -/
def stored (m m' : Mem) (a : Nat) (bytes : List Byte) : Prop :=
  ∀ k, Mem.byte m' k = if a ≤ k ∧ k < a + bytes.length then bytes.getD (k - a) 0 else Mem.byte m k
/-- The same for bytes some of which are not written. -/
def storedSome (m m' : Mem) (a : Nat) (bytes : List (Option Byte)) : Prop :=
  ∀ k, Mem.byte m' k = if a ≤ k then (bytes.getD (k - a) none).getD (Mem.byte m k) else Mem.byte m k
/-- An event is due in a cycle, before the cycle's words. -/
def due (t : State) (cycle : Nat) (e : Event) : Prop := (2 * cycle, e) ∈ t.agenda
/-- Translations that a run has made. -/
def runPlaces (c : Core) : List (Nat × Place) := (c.c.walk.map (fun w => w.got)).getD []

/-- A request that has come is the only one that its home has before it: at a plane of accumulator SRAM, whose port is free in this
cycle; at a launch unit; at a die's access points of memory (01 R15, R408; 10 R218; 12 R279; 14 R301). -/
def soleAsk (s : State) (key : Nat) (w : Waiter) : Prop :=
  w.key = key ∧ if key < 2 ^ 30 then
    s.planeTaken (planeNo key) = false
      ∧ s.waiters.filter (fun v => decide (v.at_ ≤ s.now) && (decide (v.key < 2 ^ 30) && planeNo v.key == planeNo key)) = [w]
  else s.waiters.filter (fun v => decide (v.at_ ≤ s.now) && (decide (2 ^ 30 ≤ v.key) && unitOf v.key == unitOf key)) = [w]

/-- A request leaves a tile for a home and is to be performed there in a cycle; what a tile fenced at compute level sends to another
arrives nowhere (01 R408; 17 R366). -/
def sends (s t : State) (tile home key core : Nat) (who : Requester) (e : Event) : Prop :=
  if s.muted tile home then t.waiters = s.waiters ∧ t.agenda = s.agenda
  else t.waiters = waiterPut s.waiters ⟨key, s.now + 7 + 2 * s.hops tile home, core, who⟩ ∧ due t (s.now + 7 + 2 * s.hops tile home) e

/-- The results in flight after one has landed: a result of an earlier word that was made late goes no more to the register that this one
has written (05 R116, R120). -/
def landed (l : List Flight) (f : Flight) : List Flight :=
  (l.filter (fun g => g.id != f.id)).map (fun g =>
    if g.id < f.id ∧ f.dst.item.isSome = true ∧ g.dst.item = f.dst.item then { g with dst := .none } else g)

/-- Commit and the ends of runs (05 R96 to R102, R107 to R112). -/
inductive CommitEventRow (s : State) : Instr → (State → Prop) → Prop
  /-- a request leaves for its home -/
  | ask {core key tile : Nat} {rest : List (Nat × Nat)} : s.ev = .commitPhase1 core → (s.core core).c.pos.phase = .commit1 →
      (s.core core).c.asks = (key, tile) :: rest → (s.core core).c.asked = false →
      CommitEventRow s .commitPhase1 (fun t => sameMem s t ∧ (t.core core).s = (s.core core).s ∧ (t.core core).c.asked = true
        ∧ sends s t (tileOf core) tile key core (.run core) (.syncAccept key))
  /-- the last home has accepted -/
  | accepted {core : Nat} {k : Nat × Nat} : s.ev = .commitPhase1 core → (s.core core).c.pos.phase = .commit1 →
      (s.core core).c.asks = [k] → (s.core core).c.asked = true → s.askOpen core = false → (s.core core).c.until_ ≤ s.now →
      (s.core core).c.refused = none →
      CommitEventRow s .commitPhase1 (fun t => inCore s core t ∧ (t.core core).c.pos.phase = .commit2 ∧ (t.core core).s = (s.core core).s)
  /-- a home has refused: the run traps -/
  | refused {core : Nat} {k : Nat × Nat} {rest : List (Nat × Nat)} {cause : Cause} {i0 i1 : Nat} :
      s.ev = .commitPhase1 core → (s.core core).c.pos.phase = .commit1 → (s.core core).c.asks = k :: rest →
      (s.core core).c.asked = true → s.askOpen core = false → (s.core core).c.until_ ≤ s.now →
      (s.core core).c.refused = some (cause, i0, i1) →
      CommitEventRow s .commitPhase1 (fun t => sameMem s t ∧ ⟨0, 0, 0, cause, (s.core core).c.pos.blk, i0, i1⟩ ∈ (t.core core).traps
        ∧ ∀ e ∈ t.reserved, e.2 ≠ core)
  /-- a run that holds nothing passes phase 1 while the dispatch queues are not overfull -/
  | nothing {core : Nat} : s.ev = .commitPhase1 core → (s.core core).c.pos.phase = .commit1 → (s.core core).c.asks = [] →
      (s.core core).c.walk = none → (s.core core).c.held = [] → (s.core core).c.pos.exit = none →
      (s.core core).ao.dq.length ≤ 8 → (s.core core).xo.dq.length ≤ 8 →
      CommitEventRow s .commitPhase1 (fun t => inCore s core t ∧ (t.core core).c.pos.phase = .commit2 ∧ (t.core core).s = (s.core core).s)
  /-- an object number beyond the last is a reserved field -/
  | badObject {core : Nat} {o : Word} {sc : Scope} : s.ev = .commitPhase1 core → (s.core core).c.pos.phase = .commit1 →
      (s.core core).c.asks = [] → (s.core core).c.walk = none → (s.core core).c.held = [.acq o sc] → 2 ^ 20 ≤ o.toNat →
      CommitEventRow s .commitPhase1 (fun t => sameMem s t ∧ ⟨0, 0, 0, .reservedField, (s.core core).c.pos.blk, 0, 0⟩ ∈ (t.core core).traps)
  /-- phase 2 of a run that holds nothing: its shapes are the core's, the branch-queue entries it read are gone -/
  | shapes {core : Nat} : s.ev = .commitPhase2 core → (s.core core).c.pos.phase = .commit2 → (s.core core).c.held = [] →
      (s.core core).c.late = [] →
      CommitEventRow s .commitPhase2 (fun t => sameMem s t ∧ (t.core core).c.pos.phase = .runEnd ∧ (t.core core).s = (s.core core).s
        ∧ (∀ n : N16, (t.core core).sh[n] = (s.core core).shapeC n) ∧ (∀ e ∈ t.reserved, e.2 ≠ core)
        ∧ (t.core core).q.bq[2] = (s.core core).q.bq[2].drop (s.core core).c.peek2
        ∧ (t.core core).q.bq[3] = (s.core core).q.bq[3].drop (s.core core).c.peek3)
  /-- a held store leaves for its line: it is performed after the time of a read of the line, and after the stores to that line that
  are on their way -/
  | store {core ea size v dpa at_ : Nat} {strong : Bool} : s.ev = .commitPhase2 core → (s.core core).c.pos.phase = .commit2 →
      (s.core core).c.held = [.st ea size v strong] → (s.core core).c.late = [] → storePlace (runPlaces (s.core core)) ea = some (.dram dpa) →
      at_ = max (s.now + s.accessTime (tileOf core) (.dram dpa))
        (lastWrite ((s.core core).cst ++ (s.core core).q.wr) [⟨.dram dpa, ea, (leBytes size v).map some⟩]) →
      CommitEventRow s .commitPhase2 (fun t => sameMem s t
        ∧ (t.core core).cst = (s.core core).cst
            ++ [⟨(s.core core).q.nextId, (s.core core).q.nextId, at_, [⟨.dram dpa, ea, (leBytes size v).map some⟩], none, none⟩]
        ∧ due t at_ (.scalarWrite core (s.core core).q.nextId)
        ∧ (t.core core).c.pos.phase = .runEnd ∧ (t.core core).s = (s.core core).s)
  /-- an atomic: one word of the accumulators, and its register; the reserved bits of a sync object read and are written as zero -/
  | atomic {core ea old : Nat} {op : AtOp} {dw : Bool} {opnd cmp : Word} {d : Reg} : s.ev = .commitPhase2 core →
      (s.core core).c.pos.phase = .commit2 → (s.core core).c.held = [.atomic op dw ea opnd cmp d] → (s.core core).c.late = [] →
      old = maskObject (ea - accBase) (s.accWord (ea - accBase) (if dw then 8 else 4)) →
      CommitEventRow s .commitPhase2 (fun t =>
        stored s.accum t.accum (ea - accBase) (leBytes (if dw then 8 else 4)
            (maskObject (ea - accBase) (atomicNew op (if dw then 8 else 4) old opnd cmp)))
        ∧ t.scratch = s.scratch ∧ t.dram = s.dram ∧ (t.core core).c.pos.phase = .runEnd
        ∧ (∀ r : Reg, r ≠ d → (t.core core).getS r = (s.core core).getS r)
        ∧ (d ≠ 0 → (t.core core).getS d =
            if dw then BitVec.ofNat 64 old else sextTo 32 (BitVec.ofNat 64 old)))
  /-- a record settles when the merges issued before have been applied -/
  | settle {core : Nat} {n : Word} : s.ev = .commitPhase2 core → (s.core core).c.pos.phase = .commit2 →
      (s.core core).c.held = [.albsettle n] → s.mergesTo n.toNat ((s.core core).c.settle.getD s.now) = true →
      CommitEventRow s .commitPhase2 (fun t => sameMem s t ∧ (t.core core).c.pos.phase = .commit2
        ∧ due t (s.now + 1) (.albedoSettleDone core))
  | settleAgain {core n : Nat} : s.ev = .albedoSettleDone core → (s.core core).c.settle = some n → s.settles core n = true →
      CommitEventRow s .albedoSettleDone (fun t => t = s.after 1 s.ev)
  | settleDone {core n : Nat} : s.ev = .albedoSettleDone core → (s.core core).c.settle = some n → s.settles core n = false →
      CommitEventRow s .albedoSettleDone (fun t => inCore s core t ∧ t.core core = s.core core)
  /-- a home takes a run's request: the reservation and the answer -/
  | serve {core key : Nat} {w : Waiter} : s.ev = .syncAccept key → soleAsk s key w → w.who = Requester.run core → s.outsideFirst w = false → s.ask core key = .ok 0 0 →
      CommitEventRow s .syncAccept (fun t => sameMem s t ∧ t.reserved = s.reserved ++ [(key, core)] ∧ t.waiters = s.waiters.erase w
        ∧ (t.core core).c.refused = none
        ∧ (t.core core).c.until_ = s.now + 6 + 2 * s.hops (tileOf core) ((s.core core).c.asks.headD (0, 0)).2)
  /-- a request that must wait stays at its home -/
  | stays {core key : Nat} {w : Waiter} : s.ev = .syncAccept key → soleAsk s key w → key < 2 ^ 48 → w.who = Requester.run core →
      s.ask core key = .wait → CommitEventRow s .syncAccept (fun t => t = s)
  | turnAway {core key : Nat} {w : Waiter} {cause : Cause} : s.ev = .syncAccept key → soleAsk s key w → w.who = Requester.run core →
      s.outsideFirst w = false →
      s.ask core key = .refuse cause →
      CommitEventRow s .syncAccept (fun t => sameMem s t ∧ t.reserved = s.reserved ∧ t.waiters = s.waiters.erase w
        ∧ (t.core core).c.refused = some (cause, 0, 0))
  /-- a C run ends with no exit: the block's next run, or the block after it -/
  | again {core : Nat} : s.ev = .blockRunEnd ⟨core, .c⟩ → (s.core core).c.pos.phase = .runEnd → (s.core core).c.held = [] →
      (s.core core).c.safept = none → (s.core core).before = [] → (s.core core).c.pos.exit = none →
      (s.core core).c.pos.run < (s.core core).c.pos.rep →
      CommitEventRow s .blockRunEnd (fun t => inCore s core t ∧ (t.core core).s = (s.core core).s
        ∧ (t.core core).c.pos.run = (s.core core).c.pos.run + 1 ∧ (t.core core).c.pos.blk = (s.core core).c.pos.blk
        ∧ ((s.core core).c.pos.len ≤ 64 → (t.core core).c.pos.phase = .words ∧ (t.core core).c.pos.pc = (s.core core).c.pos.blk + 2
            ∧ (t.core core).c.pos.left = (s.core core).c.pos.len)
        ∧ (64 < (s.core core).c.pos.len → (t.core core).c.pos.phase = .header ∧ (t.core core).c.pos.pc = (s.core core).c.pos.blk))
  | next {core : Nat} : s.ev = .blockRunEnd ⟨core, .c⟩ → (s.core core).c.pos.phase = .runEnd → (s.core core).c.held = [] →
      (s.core core).c.safept = none → (s.core core).before = [] → (s.core core).c.pos.exit = none →
      (s.core core).c.pos.rep ≤ (s.core core).c.pos.run →
      CommitEventRow s .blockRunEnd (fun t => inCore s core t ∧ (t.core core).s = (s.core core).s
        ∧ (t.core core).c.pos = (s.core core).c.pos.enter (s.core core).c.pos.pc ∧ (t.core core).c.stack = (s.core core).c.stack)
  | branch {core target : Nat} : s.ev = .blockRunEnd ⟨core, .c⟩ → (s.core core).c.pos.phase = .runEnd → (s.core core).c.held = [] →
      (s.core core).c.safept = none → (s.core core).before = [] → (s.core core).c.pos.exit = some (.block target) →
      CommitEventRow s .blockRunEnd (fun t => inCore s core t ∧ (t.core core).s = (s.core core).s
        ∧ (t.core core).c.pos = (s.core core).c.pos.enter target ∧ (t.core core).c.stack = (s.core core).c.stack)
  | call {core target : Nat} : s.ev = .blockRunEnd ⟨core, .c⟩ → (s.core core).c.pos.phase = .runEnd → (s.core core).c.held = [] →
      (s.core core).c.safept = none → (s.core core).before = [] → (s.core core).c.pos.exit = some (.call target) →
      CommitEventRow s .blockRunEnd (fun t => inCore s core t ∧ (t.core core).s = (s.core core).s
        ∧ (t.core core).c.pos = (s.core core).c.pos.enter target
        ∧ (t.core core).c.stack = (s.core core).c.stack ++ [(s.core core).c.pos.pc])
  | ret {core target : Nat} {rest : List Nat} : s.ev = .blockRunEnd ⟨core, .c⟩ → (s.core core).c.pos.phase = .runEnd →
      (s.core core).c.held = [] → (s.core core).c.safept = none → (s.core core).before = [] → (s.core core).c.pos.exit = some .ret →
      (s.core core).c.stack = rest ++ [target] →
      CommitEventRow s .blockRunEnd (fun t => inCore s core t ∧ (t.core core).s = (s.core core).s
        ∧ (t.core core).c.pos = (s.core core).c.pos.enter target ∧ (t.core core).c.stack = rest)
  /-- an outer stream whose levels are exhausted is idle -/
  | outerDone {core : Nat} : s.ev = .blockRunEnd ⟨core, .x⟩ → (s.core core).xo.pos.phase = .runEnd →
      (s.core core).xo.pos.exit = some .finish → (s.core core).xo.nlev = 0 →
      CommitEventRow s .blockRunEnd (fun t => inCore s core t ∧ (t.core core).xo.active = false ∧ (t.core core).xo.pos.phase = .idle
        ∧ (t.core core).xr = (s.core core).xr)
  /-- level 1 of the sequencer has iterations left: the entry block runs again -/
  | outerNext {core : Nat} : s.ev = .blockRunEnd ⟨core, .a⟩ → (s.core core).ao.pos.phase = .runEnd →
      (s.core core).ao.pos.exit = some .finish → 1 ≤ (s.core core).ao.nlev → (s.core core).ao.idx[0] + 1 < (s.core core).ao.cnt[0] →
      (s.core core).ao.pos.blk ≠ (s.core core).ao.entry →
      CommitEventRow s .blockRunEnd (fun t => inCore s core t ∧ (t.core core).ao.idx[0] = (s.core core).ao.idx[0] + 1
        ∧ (t.core core).ao.active = (s.core core).ao.active ∧ (t.core core).ao.pos = (s.core core).ao.pos.enter (s.core core).ao.entry
        ∧ (t.core core).xr = (s.core core).xr)

/-- Dispatch, results, queues, translations, ports, records (05 R109, R115; 07 R140, R145, R150; 08 R176, R177; 10 R218, R220;
12 R265, R269; 13 R287, R288). -/
inductive CycleEventRow (s : State) : Instr → (State → Prop) → Prop
  /-- an idle X stream takes its oldest entry; descriptor 63 has no levels -/
  | dispatch {core : Nat} {e : Disp} {rest : List Disp} : s.ev = .dispatchStart ⟨core, .x⟩ → (s.core core).xo.dq = e :: rest →
      (s.core core).xo.active = false → e.at_ ≤ s.now → e.desc = 63 → e.args.length ≤ 15 →
      CycleEventRow s .dispatchStart (fun t => sameMem s t ∧ t.turn = some ⟨core, .x⟩ ∧ (t.core core).xo.dq = rest
        ∧ (t.core core).xo.active = true ∧ (t.core core).xo.nlev = 0 ∧ (t.core core).xo.rrb = 0
        ∧ (t.core core).xo.pos = (s.core core).xo.pos.enter e.entry
        ∧ (∀ k v, e.args[k]? = some v → (t.core core).getX (Fin.ofNat 16 (k + 1)) = v)
        ∧ (t.core core).xo.p = (((s.core core).xo.p.set 4 true).set 5 false |>.set 6 false |>.set 7 false))
  /-- a reserved field of the descriptor -/
  | dispatchBad {core : Nat} {e : Disp} {rest : List Disp} : s.ev = .dispatchStart ⟨core, .a⟩ → (s.core core).ao.dq = e :: rest →
      (s.core core).ao.active = false → e.at_ ≤ s.now → e.desc ≠ 63 →
      field (Mem.num (s.core core).desc (128 * e.desc) 8) 5 59 ≠ 0 →
      CycleEventRow s .dispatchStart (fun t => sameMem s t ∧ ⟨1, 0, 0, .reservedField, e.entry, 0, 0⟩ ∈ (t.core core).traps
        ∧ (t.core core).ao.dq = (s.core core).ao.dq)
  | landV {core id n : Nat} {f : Flight} {v : Vec} : s.ev = .xResultLand core id →
      (s.core core).xr.flights.find? (fun g => g.id == id) = some f → f.dst = .v n v →
      CycleEventRow s .xResultLand (fun t => inCore s core t ∧ (t.core core).xr.v = (s.core core).xr.v.setIfInBounds n v
        ∧ (t.core core).xr.flights = landed (s.core core).xr.flights f
        ∧ (t.core core).xr.x = (s.core core).xr.x ∧ (t.core core).xr.m = (s.core core).xr.m ∧ (t.core core).q = (s.core core).q)
  | landM {core id n : Nat} {f : Flight} {v : Mask} : s.ev = .xResultLand core id →
      (s.core core).xr.flights.find? (fun g => g.id == id) = some f → f.dst = .m n v →
      CycleEventRow s .xResultLand (fun t => inCore s core t ∧ (t.core core).xr.m = (s.core core).xr.m.setIfInBounds n v
        ∧ (t.core core).xr.flights = landed (s.core core).xr.flights f
        ∧ (t.core core).xr.x = (s.core core).xr.x ∧ (t.core core).xr.v = (s.core core).xr.v ∧ (t.core core).q = (s.core core).q)
  | landX {core id n : Nat} {f : Flight} {v : Word} : s.ev = .xResultLand core id →
      (s.core core).xr.flights.find? (fun g => g.id == id) = some f → f.dst = .x n v → n < 16 →
      CycleEventRow s .xResultLand (fun t => inCore s core t
        ∧ (∀ r : N16, (t.core core).getX r = if r.val = n ∧ n ≠ 0 then v else (s.core core).getX r)
        ∧ (t.core core).xr.flights = landed (s.core core).xr.flights f
        ∧ (t.core core).xr.v = (s.core core).xr.v ∧ (t.core core).xr.m = (s.core core).xr.m ∧ (t.core core).q = (s.core core).q)
  /-- the latch keeps the result of the unit's newest word -/
  | landLatch {core id : Nat} {f : Flight} {u : N8} {v : Vec} : s.ev = .xResultLand core id →
      (s.core core).xr.flights.find? (fun g => g.id == id) = some f → f.unit = some (u, v) →
      CycleEventRow s .xResultLand (fun t => (t.core core).xr.l[u] = (if (s.core core).xr.lid[u] < f.id then v else (s.core core).xr.l[u])
        ∧ ∀ w : N8, w ≠ u → (t.core core).xr.l[w] = (s.core core).xr.l[w])
  | landQ {core id n : Nat} {f : Flight} {v : Vec} {en : Mask} {e : StoreEntry} : s.ev = .xResultLand core id →
      (s.core core).xr.flights.find? (fun g => g.id == id) = some f → f.dst = .q n v en → 6 ≤ n → n < 8 →
      (s.core core).q.st.getD (n - 6) [] = [e] → e.id = f.id →
      CycleEventRow s .xResultLand (fun t => inCore s core t ∧ (t.core core).q.st.getD (n - 6) [] = [{ e with ready := some (s.now + 1) }]
        ∧ (t.core core).xr.v = (s.core core).xr.v ∧ (t.core core).xr.x = (s.core core).xr.x)
  | loadReady {core id : Nat} : s.ev = .loadQueueEntryReady core id →
      CycleEventRow s .loadQueueEntryReady (fun t => inCore s core t ∧ (t.core core).s = (s.core core).s ∧ (t.core core).xr = (s.core core).xr
        ∧ (t.core core).q.st = (s.core core).q.st ∧ ∀ k : Fin 6, (t.core core).q.ld[k].length = (s.core core).q.ld[k].length
          ∧ ∀ (j : Nat) (e : LoadEntry), (s.core core).q.ld[k][j]? = some e →
              (t.core core).q.ld[k][j]? = some (if e.id = id then { e with ready := some s.now } else e))
  /-- a segment in the scratchpad is written byte by byte as enabled -/
  | storeWrite {core id o va : Nat} {w : QStore} {bytes : List (Option Byte)} : s.ev = .queueStoreWrite core id →
      (s.core core).q.wr.find? (fun w => w.id == id) = some w → w.segs = [⟨.scratch o, va, bytes⟩] → w.merge = none →
      CycleEventRow s .queueStoreWrite (fun t => storedSome s.scratch t.scratch o bytes ∧ t.dram = s.dram ∧ t.accum = s.accum
        ∧ (∀ q ∈ (t.core core).q.wr, q.id ≠ id) ∧ (t.core core).s = (s.core core).s ∧ (t.core core).a = (s.core core).a)
  /-- with the last write of its word the merge of a bound queue leaves -/
  | storeMerges {core id o va : Nat} {w : QStore} {bytes : List (Option Byte)} {p : Partial} : s.ev = .queueStoreWrite core id →
      (s.core core).q.wr.find? (fun w => w.id == id) = some w → w.segs = [⟨.scratch o, va, bytes⟩] → w.merge = some p →
      (∀ v ∈ (s.core core).q.wr, v.word = w.word → v.id = id) →
      CycleEventRow s .queueStoreWrite (fun t => storedSome s.scratch t.scratch o bytes ∧ t.dram = s.dram ∧ t.accum = s.accum
        ∧ (∀ q ∈ (t.core core).q.wr, q.id ≠ id) ∧ due t s.now (.albedoMergeIssue core .queue p))
  /-- a store to a plain line of DRAM stamps the block's GVER where its queue is bound -/
  | storeDram {core id dpa va : Nat} {w : QStore} {bytes : List (Option Byte)} : s.ev = .queueStoreWrite core id →
      (s.core core).q.wr.find? (fun w => w.id == id) = some w → w.segs = [⟨.dram dpa, va, bytes⟩] → w.merge = none →
      inDram dpa = true → s.kindRefusal (.dram dpa) = none → (∃ b ∈ bytes, b ≠ none) →
      CycleEventRow s .queueStoreWrite (fun t => storedSome s.dram t.dram dpa bytes ∧ t.scratch = s.scratch ∧ t.accum = s.accum
        ∧ (t.lineMeta (dpa / 128)).gver = (match w.gver with | some g => BitVec.ofNat 16 g | none => (s.lineMeta (dpa / 128)).gver)
        ∧ (t.lineMeta (dpa / 128)).nova = false ∧ (∀ q ∈ (t.core core).q.wr, q.id ≠ id))
  /-- a scalar store reaches the bytes that its address names -/
  | scalarWrite {core id dpa va : Nat} {w : QStore} {bytes : List (Option Byte)} : s.ev = .scalarWrite core id →
      (s.core core).cst.find? (fun w => w.id == id) = some w → w.segs = [⟨.dram dpa, va, bytes⟩] →
      s.kindRefusal (.dram dpa) = none →
      CycleEventRow s .lineAccess (fun t => storedSome s.dram t.dram dpa bytes ∧ t.scratch = s.scratch ∧ t.accum = s.accum
        ∧ t.remote = s.remote ∧ (∀ q ∈ (t.core core).cst, q.id ≠ id) ∧ (t.core core).s = (s.core core).s)
  /-- the C stream's walk ends: its entries are in the C TLB, or its word traps -/
  | walkC {core : Nat} {w : Walk} : s.ev = .streamTlbWalkDone core 14 → (s.core core).c.walk = some w → w.until_ = s.now →
      w.done = false → w.fail = none →
      CycleEventRow s .streamTlbWalkDone (fun t => sameMem s t ∧ (t.core core).ctlb = w.fill.foldl tlbFill (s.core core).ctlb
        ∧ (t.core core).c.walk = some { w with done := true } ∧ (t.core core).s = (s.core core).s)
  | walkCFails {core i0 i1 : Nat} {w : Walk} {cause : Cause} : s.ev = .streamTlbWalkDone core 14 → (s.core core).c.walk = some w →
      w.until_ = s.now → w.done = false → w.fail = some (cause, i0, i1) →
      CycleEventRow s .streamTlbWalkDone (fun t => sameMem s t ∧ (t.core core).c.walk = none
        ∧ ⟨0, 0, 0, cause, (s.core core).c.pos.blk, i0, i1⟩ ∈ (t.core core).traps)
  | walkQ {core : Nat} {ch : Fin 8} {w : Walk} {tlb : StreamTlb} : s.ev = .streamTlbWalkDone core ch.val → (s.core core).q.walk = some w →
      w.until_ = s.now → w.done = false → w.fail = none → w.stlb = some tlb →
      CycleEventRow s .streamTlbWalkDone (fun t => sameMem s t ∧ (t.core core).q.tlb = (s.core core).q.tlb.set ch tlb
        ∧ (t.core core).s = (s.core core).s)
  /-- the accumulator port serves a store or an addition -/
  | portWrite {tile plane : Nat} {q : AccReq} : s.ev = .accumulatorPortGrant tile plane → (s.tile tile).ports = [q] → q.plane = plane →
      q.at_ ≤ s.now → q.core < 1024 → q.op ≠ .load → s.planeTaken (64 * tile + plane) = false →
      CycleEventRow s .accumulatorPortGrant (fun t => (t.tile tile).ports = [] ∧ t.dram = s.dram ∧ t.scratch = s.scratch
        ∧ (∀ j, j < 64 → t.accum.num (cellOff tile plane q.row (q.base + j)) 4
            = accAdd q (s.accum.num (cellOff tile plane q.row (q.base + j)) 4) (lane q.data 32 j) % 2 ^ 32)
        ∧ ∀ a, a < cellOff tile plane q.row q.base ∨ cellOff tile plane q.row q.base + 256 ≤ a → Mem.byte t.accum a = Mem.byte s.accum a)
  | portRead {tile plane n : Nat} {q : AccReq} {f : Flight} {v : Vec} : s.ev = .accumulatorPortGrant tile plane → (s.tile tile).ports = [q] →
      q.plane = plane → q.at_ ≤ s.now → q.core < 1024 → q.op = .load → (s.core q.core).xr.flights = [f] → f.id = q.id → f.dst = .v n v →
      s.planeTaken (64 * tile + plane) = false →
      CycleEventRow s .accumulatorPortGrant (fun t => sameMem s t ∧ (t.tile tile).ports = []
        ∧ (∃ u, (t.core q.core).xr.flights = [{ f with land := some (s.now + 4), dst := .v n u }]
            ∧ ∀ j, j < 64 → lane u 32 j = s.accum.num (cellOff tile plane q.row (q.base + j)) 4)
        ∧ due t (s.now + 4) (.xResultLand q.core q.id))
  /-- a request of higher rank has the plane in this cycle: the rows ask again in the next -/
  | portWaits {tile plane : Nat} {q : AccReq} : s.ev = .accumulatorPortGrant tile plane → (s.tile tile).ports = [q] → q.plane = plane →
      q.at_ ≤ s.now → s.planeTaken (64 * tile + plane) = true →
      CycleEventRow s .accumulatorPortGrant (fun t => sameMem s t ∧ (t.tile tile).ports = [{ q with at_ := s.now + 1 }]
        ∧ (t.core q.core).xr.flights = (s.core q.core).xr.flights.map (fun f => if f.id = q.id then { f with land := some (s.now + 5) } else f)
        ∧ due t (s.now + 1) (.accumulatorPortGrant tile plane))
  | dramReturn {core ch : Nat} : s.ev = .dramReadReturn core ch →
      CycleEventRow s .dramReadReturn (fun t => inCore s core t ∧ (t.core core).s = (s.core core).s
        ∧ (t.core core).c.ready = (s.core core).c.ready.filter (fun e => decide (s.now < e.2)))
  | refresh : CycleEventRow s .dramRefresh (fun t => t = s)
  /-- the reply of a QSCALE's home: the scale lands, or the word traps and the X stream stands at it again -/
  | qscale {core id n : Nat} {f : Flight} {v : Word} {k : ScaleSave} : s.ev = .qscaleResult core id →
      (s.core core).scales.find? (fun k => k.id == id) = some k → k.refusal = none → k.owed = [] →
      (s.core core).xr.flights.find? (fun g => g.id == id) = some f → f.dst = .x n v → n < 16 →
      CycleEventRow s .qscaleResult (fun t => inCore s core t
        ∧ (∀ r : N16, (t.core core).getX r = if r.val = n ∧ n ≠ 0 then v else (s.core core).getX r)
        ∧ (t.core core).xr.flights = landed (s.core core).xr.flights f
        ∧ ∀ k ∈ (t.core core).scales, k.id ≠ id)
  /-- a merge that a younger word owes leaves with the answer to the last QSCALE before it -/
  | qscaleOwed {core id cycle : Nat} {f : Flight} {k : ScaleSave} {p : Partial} : s.ev = .qscaleResult core id →
      (s.core core).scales = [k] → k.id = id → k.refusal = none → k.owed = [(cycle, .albedoMergeIssue core .vqnt p)] →
      (s.core core).xr.flights.find? (fun g => g.id == id) = some f →
      CycleEventRow s .qscaleResult (fun t => sameMem s t ∧ (t.core core).scales = []
        ∧ due t (max s.now cycle) (.albedoMergeIssue core .vqnt p))
  | qscaleTraps {core id pc : Nat} {f : Flight} {k : ScaleSave} {cause : Cause} : s.ev = .qscaleResult core id →
      (s.core core).mode = .running →
      (s.core core).scales.find? (fun k => k.id == id) = some k → k.refusal = some cause →
      (s.core core).xr.flights.find? (fun g => g.id == id) = some f →
      pc = (if k.xo.pos.pfx.isSome then k.xo.pos.pfxAt else k.xo.pos.pc) → (∀ v ∈ (s.core core).scales, v.id ≤ id) →
      CycleEventRow s .qscaleResult (fun t => t.dram = s.dram ∧ t.scratch = s.scratch ∧ t.remote = s.remote
        ∧ (k.rows = [] → t.accum = s.accum)
        ∧ (∀ off bytes bad, k.rows = [(off, bytes, bad)] → stored s.accum t.accum off bytes)
        ∧ ⟨2, 0, 0, cause, pc, 0, 0⟩ ∈ (t.core core).traps
        ∧ (t.core core).xo.pos.pc = pc ∧ (∀ g ∈ (t.core core).xr.flights, g.id < id) ∧ (t.core core).s = (s.core core).s
        ∧ (t.core core).xr.v = k.xr.v ∧ (t.core core).xr.x = k.xr.x)
  /-- RESCALE sets bit 30 of CTRL -/
  | rescale {tile n : Nat} {w : Waiter} : s.ev = .homeRequest tile (.rescale n) → n < 2 ^ 16 → soleAsk s (recOff n) w →
      w.who = Requester.rescale → s.reservedFrom (recOff n) none = false → s.routerFenced (n / 256) = false →
      CycleEventRow s .homeRequest (fun t => t.dram = s.dram ∧ t.scratch = s.scratch ∧ bitOf (t.recCtrl n) 30 = true
        ∧ (∀ k, k < 32 → k ≠ 30 → bitOf (t.recCtrl n) k = bitOf (s.recCtrl n) k)
        ∧ ∀ a, a < recOff n + 24 ∨ recOff n + 28 ≤ a → Mem.byte t.accum a = Mem.byte s.accum a)
  /-- QSCALE at the home: the scale, whether a rescale was asked for, whether none fits -/
  | qscaleHome {tile core id n : Nat} {xd : N16} {fm : QFmt} {h : N16} {f : Flight} {w : Waiter} {k : ScaleSave} :
      s.ev = .homeRequest tile (.qscale core xd fm h n id) → n < 2 ^ 16 → soleAsk s (recOff n) w → w.who = Requester.scale core id →
      s.reservedFrom (recOff n) none = false → (s.core core).scales = [k] → k.id = id → k.recno = n → k.xd = xd → k.qf = fm → k.h = h.val →
      k.granted = true → s.qscaleRefusal n fm h.val = none → (s.core core).xr.flights = [f] → f.id = id → (∃ m v, f.dst = .x m v) →
      CycleEventRow s .homeRequest (fun t => t.dram = s.dram ∧ t.scratch = s.scratch ∧ bitOf (t.recCtrl n) 30 = false
        ∧ (∀ j, j < 32 → j ≠ 30 → bitOf (t.recCtrl n) j = bitOf (s.recCtrl n) j)
        ∧ t.recNum n 28 1 = (qscaleFind fm h.val (s.recNum n 0 4)).getD 254
        ∧ (∀ a, a < recOff n + 24 ∨ recOff n + 29 ≤ a → Mem.byte t.accum a = Mem.byte s.accum a)
        ∧ (t.core core).xr.flights = [{ f with land := some (s.now + 7 + 2 * s.hops (tileOf core) (n / 256)), dst := .x xd.val (BitVec.ofNat 64
            ((qscaleFind fm h.val (s.recNum n 0 4)).getD 254 + b2n (bitOf (s.recCtrl n) 30) * 256
              + b2n (qscaleFind fm h.val (s.recNum n 0 4)).isNone * 512)) }]
        ∧ due t (s.now + 7 + 2 * s.hops (tileOf core) (n / 256)) (.qscaleResult core id))
  /-- a refusal: PRIVILEGE first; the record is as before -/
  | qscaleRefused {tile core id n : Nat} {xd : N16} {fm : QFmt} {h : N16} {w : Waiter} {k : ScaleSave} {cause : Cause} :
      s.ev = .homeRequest tile (.qscale core xd fm h n id) → n < 2 ^ 16 → soleAsk s (recOff n) w → w.who = Requester.scale core id →
      s.reservedFrom (recOff n) none = false → (s.core core).scales = [k] → k.id = id → k.recno = n → k.qf = fm → k.h = h.val →
      (k.granted = false ∧ cause = .privilege ∨ k.granted = true ∧ s.qscaleRefusal n fm h.val = some cause) →
      CycleEventRow s .homeRequest (fun t => sameMem s t ∧ (t.core core).scales = [{ k with refusal := some cause }]
        ∧ (t.core core).xr = (s.core core).xr ∧ due t (s.now + 7 + 2 * s.hops (tileOf core) (n / 256)) (.qscaleResult core id))
  | mergeIssue {core home : Nat} {src : MergeSrc} {p : Partial} : s.ev = .albedoMergeIssue core src p → home = p.recno / 256 →
      s.routerFenced home = false → s.muted (tileOf core) home = false → (s.tile home).merges.length < 64 →
      CycleEventRow s .albedoMergeIssue (fun t => sameMem s t ∧ ∃ d, s.now + 7 + 2 * s.hops (tileOf core) home ≤ d
        ∧ (∀ m ∈ (s.tile home).merges, m.due < d)
        ∧ (t.tile home).merges = (s.tile home).merges ++ [⟨core, src, s.now, d, 0, p⟩]
        ∧ due t d (.albedoMergeApply home))
  | mergeWaits {core home : Nat} {src : MergeSrc} {p : Partial} : s.ev = .albedoMergeIssue core src p → home = p.recno / 256 →
      s.routerFenced home = false → s.muted (tileOf core) home = false → 64 ≤ (s.tile home).merges.length →
      CycleEventRow s .albedoMergeIssue (fun t => t = s.after 1 s.ev)
  /-- a merge to a home behind a router fence is dropped, and counted at its sender's die -/
  | mergeFenced {core : Nat} {src : MergeSrc} {p : Partial} : s.ev = .albedoMergeIssue core src p → s.routerFenced (p.recno / 256) = true →
      CycleEventRow s .albedoMergeIssue (fun t => sameMem s t
        ∧ (t.die (dieOf (tileOf core))).albdrop = (s.die (dieOf (tileOf core))).albdrop + 1 ∧ t.tiles = s.tiles)
  /-- what a tile fenced at compute level sends to another arrives nowhere -/
  | mergeMuted {core home : Nat} {src : MergeSrc} {p : Partial} : s.ev = .albedoMergeIssue core src p → home = p.recno / 256 →
      s.routerFenced home = false → s.muted (tileOf core) home = true →
      CycleEventRow s .albedoMergeIssue (fun t => sameMem s t ∧ (t.tile home).merges = (s.tile home).merges ∧ t.agenda = s.agenda)
  /-- MAXABS and the count of merges -/
  | mergeApply {tile : Nat} {m : Merge} {rest : List Merge} : s.ev = .albedoMergeApply tile → (s.tile tile).merges = m :: rest →
      m.due ≤ s.now → s.routerFenced tile = false → s.planeTaken (64 * tile + 63) = false → s.recAlloc m.part.recno = true →
      s.recEcc m.part.recno = false → m.part.maxabs < 2 ^ 32 → s.initialiser m.part.recno m.issue = none →
      CycleEventRow s .albedoMergeApply (fun t => (t.tile tile).merges = rest ∧ t.dram = s.dram ∧ t.scratch = s.scratch
        ∧ t.recNum m.part.recno 0 4 = max (s.recNum m.part.recno 0 4) m.part.maxabs
        ∧ t.recNum m.part.recno 4 4 = min (s.recNum m.part.recno 4 4 + 1) (2 ^ 32 - 1))
  /-- a merge that was issued since an ALBINIT of its record began to wait comes after it -/
  | mergeAfterInit {tile core : Nat} {m : Merge} {rest : List Merge} : s.ev = .albedoMergeApply tile → (s.tile tile).merges = m :: rest →
      m.due ≤ s.now → s.routerFenced tile = false → s.planeTaken (64 * tile + 63) = false → s.initialiser m.part.recno m.issue = some core →
      CycleEventRow s .albedoMergeApply (fun t => sameMem s t ∧ (t.tile tile).merges = rest
        ∧ (t.core core).c.late = (s.core core).c.late ++ [m.part])
  | mergeDropped {tile : Nat} {m : Merge} {rest : List Merge} : s.ev = .albedoMergeApply tile → (s.tile tile).merges = m :: rest →
      m.due ≤ s.now → s.routerFenced tile = false → s.planeTaken (64 * tile + 63) = false → s.recAlloc m.part.recno = false →
      s.initialiser m.part.recno m.issue = none →
      CycleEventRow s .albedoMergeApply (fun t => sameMem s t ∧ (t.tile tile).merges = rest
        ∧ (t.die (dieOf (m.part.recno / 256))).albdrop = (s.die (dieOf (m.part.recno / 256))).albdrop + 1)

/-- A command of the matrix array as it stands in a state. -/
def mxHas (s : State) (tile : Nat) (m : MCmd) : Prop := m ∈ (s.mx tile).cmds
def cpHas (s : State) (tile : Nat) (m : CCmd) : Prop := m ∈ (s.cp tile).cmds

/-- A request of a tile's engine for an object's home: it travels there and back (01 R408). -/
def asked (s t : State) (tile core off : Nat) (who : Requester) (e : Event) : Prop := sends s t tile (accTile off) off core who e
/-- The first cycle in which a command may start: two after its issue, one after the grant of its run, when its acquire's reply has come
and the command before has completed (09 R194). -/
def mxReady (s : State) (tile : Nat) (c : MCmd) : Nat :=
  max (max (c.issue + 2) c.acqAt) (max ((s.mx tile).gat + 1) (s.mx tile).doneAt)
/-- The array may start the command now: it is the next, its cycle has come, its orbit is not stopped, and no operand of a restart has
changed (09 R194, R211; 11 R258). -/
def mxMay (s : State) (tile : Nat) (c : MCmd) : Prop :=
  s.ev = .matrixCommandStart tile ∧ s.mxNext tile = some c ∧ mxReady s tile c ≤ s.now ∧ (s.core c.core).engineHold = false
    ∧ (c.start = 0 ∨ c.marked = false)
/-- The acquire of a command is the only request that its home has before it. -/
def acquires (s : State) (tile : Nat) (c : MCmd) (v : Waiter) : Prop :=
  s.ev = .matrixAcquire tile ∧ s.waiters.find? (fun v => v.who == Requester.matrix tile) = some v
    ∧ soleAsk s (syncOff (Shape.sync c.sa)) v ∧ (s.mx tile).cmds.find? (fun c => c.st == .acquiring || c.st == .releasing) = some c
    ∧ c.st = .acquiring ∧ v.core = c.core
/-- The request of a channel's command is the only one that its home has before it. -/
def asks (s : State) (tile ch off : Nat) (m : CCmd) (v : Waiter) : Prop :=
  s.ev = .syncAccept off ∧ soleAsk s off v ∧ v.who = Requester.copy tile ch ∧ (s.cp tile).current ch = some m ∧ v.core = m.core
/-- A copy may start: two cycles after its issue, with the queue stores before it written, in no stopped orbit (11 R240, R258). -/
def copyMay (s : State) (m : CCmd) : Prop :=
  m.issue + 2 ≤ s.now ∧ s.storeBefore m = false ∧ (s.core m.core).engineHold = false
/-- The merges of a copy; of a matrix command. -/
def mergeOf (m : CCmd) : MergeSrc → Bool := fun x => match x with | .copy id _ => id == m.id | _ => false
def mergeFrom (c : MCmd) : MergeSrc → Bool := fun x => match x with | .matrix id _ => id == c.id | _ => false

/-! What the array reads and computes (09 R195, R196, R198 to R200, R205). -/

/-- Where an operand byte of a command lies in the scratchpads (01 R16). -/
def scratchOf (tile part va : Nat) : Nat := tile * 0x80_0000 + partFirst part * 0x1_0000 + (va - scrBase)
/-- An element in the scratchpad that the array can read. -/
def scratchReads (s : State) (tile : Nat) (c : MCmd) (va n : Nat) : Prop :=
  inScratchWindow va = true ∧ s.placeEcc (.scratch (scratchOf tile c.part va)) n = none
def scratchCode (s : State) (tile : Nat) (c : MCmd) (va n : Nat) : Nat := s.scratch.num (scratchOf tile c.part va) n
/-- First k-step of promotion interval iv, and how many values of A a row has in it. -/
def kFirst (c : MCmd) (iv : Nat) : Nat := min c.steps (iv * c.p)
def perRow (c : MCmd) (iv : Nat) : Nat := c.perStep * (kFirst c (iv + 1) - kFirst c iv)
/-- Address of the metadata byte of k-step k of row r (09 R200). -/
def metaVa (c : MCmd) (r k : Nat) : Nat := (BitVec.ofInt 64 (Shape.base c.sa + Shape.str c.sa 2 + r * Shape.str c.sa 3 + k)).toNat

/-- Value t of A in row r of interval iv; the row of B that it meets; the value of B in that row and column n. -/
def aCode (c : MCmd) (iv r t : Nat) : Nat := c.opA.getD (c.rows * c.perStep * kFirst c iv + r * perRow c iv + t) 0
def kOf (c : MCmd) (sparse : Bool) (iv r t : Nat) : Nat :=
  if sparse then
    4 * (t / 2) + c.posn.getD (c.rows * kFirst c iv + r * (kFirst c (iv + 1) - kFirst c iv) + t / 4) 0 / 4 ^ (t % 4) % 4
  else t
def bCode (c : MCmd) (iv k n : Nat) : Nat := c.opB.getD ((8 * kFirst c iv + k) * c.cols + n) 0
/-- The sum of an interval's products in N24, each product added as it comes, scaled with SQ. -/
def n24Sum (c : MCmd) (sparse : Bool) (iv r n : Nat) : Machine.Num :=
  let z := (List.range (perRow c iv)).foldl (fun acc t => n24.decode (n24.round rne (Machine.Num.add false acc
    (Machine.Num.mul (fmtNum (Shape.fmt c.sa) 0 (aCode c iv r t)) (fmtNum (Shape.fmt c.sb) 0 (bCode c iv (kOf c sparse iv r t) n)))))) (.fin false 0 0)
  if c.sq then
    let x := c.scales.getD (iv * (c.rows + c.cols) + r) 0
    let y := c.scales.getD (iv * (c.rows + c.cols) + c.rows + n) 0
    if x = 255 ∨ y = 255 then .nan else z.scale ((x + y : Int) - 254)
  else z
/-- The exact integer sum of an interval's products. -/
def intSum (c : MCmd) (sparse : Bool) (iv r n : Nat) : Int :=
  let v (sg : Bool) (x : Nat) : Int := if sg then intOf 8 x else x
  ((List.range (perRow c iv)).map (fun t => v c.signA (aCode c iv r t) * v c.signB (bCode c iv (kOf c sparse iv r t) n))).sum
/-- A cell after the promotion of an interval: INT32 saturates under SATM and wraps without it. -/
def promoted (c : MCmd) (f : MFmt) (sparse : Bool) (r n cell iv : Nat) : Nat :=
  if f = .i8 then
    let z := intOf 32 cell + intSum c sparse iv r n
    wrapTo 32 (if c.satm then max (-(2 ^ 31)) (min (2 ^ 31 - 1) z) else z)
  else fp32.round rne (Machine.Num.add false (fp32.decode cell) (n24Sum c sparse iv r n))
/-- A command that the completion event finds, with nothing left to wait for but its writes. -/
def mxRuns (s : State) (tile : Nat) (c : MCmd) : Prop :=
  s.ev = .matrixCommandComplete tile ∧ (s.mx tile).cmds.find? (fun c => c.st == .running) = some c ∧ tileOf c.core = tile
    ∧ s.unsent c.core (mergeFrom c) = false
/-- The command is done in this cycle, and the array goes on. -/
def mxEnds (s t : State) (tile : Nat) (c : MCmd) : Prop :=
  (t.mx tile).doneAt = s.now ∧ (∃ d, mxHas t tile d ∧ d.id = c.id ∧ d.st = .done) ∧ due t s.now (.matrixCommandStart tile)
/-- Bytes of the accumulators outside the cells of a command are as before. -/
def cellsOnly (s t : State) (tile : Nat) (c : MCmd) : Prop :=
  ∀ a, (∀ r, r < c.rows → a < cellOff tile c.plane (c.row + r) c.col ∨ cellOff tile c.plane (c.row + r) c.col + 4 * c.cols ≤ a) →
    Mem.byte t.accum a = Mem.byte s.accum a
/-- y is v / 2^n rounded to nearest, ties to even. -/
def nearest (v : Int) (n : Nat) (y : Int) : Prop :=
  2 * (2 ^ n * y - v).natAbs ≤ 2 ^ n ∧ (2 * (2 ^ n * y - v).natAbs = 2 ^ n → y % 2 = 0)
/-- What MDRAIN writes of a cell in column j: the cell, or it times the column's multiplier, shifted, with the zero point added and
saturated (09 R205). -/
def drained (c : MCmd) (d : DrainMode) (cell j code : Nat) : Prop :=
  match d with
  | .plain => code = cell
  | d => ∃ y, nearest (intOf 32 cell * intOf 32 (c.opB.getD (2 * j) 0)) (c.opB.getD (2 * j + 1) 0 % 64) y
      ∧ code = (if d = .i8 then wrapTo 8 (max (-128) (min 127 (y + intOf 8 c.zy))) else (max 0 (min 255 (y + c.zy))).toNat)

/-! What a copy reads and writes (11 R246 to R252). -/

/-- The tag of a block in device memory is that of its bytes: over its address, or over 0 where nothing has given it one (11 R248). -/
def tagFits (s : State) (pl : Place) (va : Nat) (me : LineMeta) : Prop :=
  blockCrc (if me.nova then 0 else va / 128)
    (s.readPlace (match pl with | .dram d => .dram (d / 128 * 128) | .packed a => .packed (a / 128 * 128) | p => p) 128) = me.crc
/-- A byte that a copy reads, with the checks of its block: no error in it, and for a checked source its tag and its version. -/
def byteReads (s : State) (m : CCmd) (check : Option Nat) (va b : Nat) : Prop :=
  ∃ pl, s.copyPlace m va .read = .ok pl ∧ s.placeEcc pl 1 = none ∧ b = ofBytes (s.readPlace pl 1)
    ∧ ∀ ver me, check = some ver → s.placeMeta pl = some me → tagFits s pl va me ∧ me.gver.toNat = ver % 2 ^ 16
/-- n bytes from an address, as a number. -/
def readsAs (s : State) (m : CCmd) (check : Option Nat) (va n v : Nat) : Prop :=
  v < 256 ^ n ∧ ∀ k, k < n → byteReads s m check ((va + k) % 2 ^ 64) (v / 256 ^ k % 256)
/-- Why a copy stops at a byte of its source: it may not be read, it holds an error, its block's tag or its version does not fit. -/
def byteFails (s : State) (m : CCmd) (check : Option Nat) (va : Nat) (cause : Cause) : Prop :=
  s.copyPlace m va .read = .error cause
  ∨ ∃ pl, s.copyPlace m va .read = .ok pl ∧ (s.placeEcc pl 1 = some cause
      ∨ s.placeEcc pl 1 = none ∧ ∃ ver me, check = some ver ∧ s.placeMeta pl = some me
          ∧ (¬tagFits s pl va me ∧ cause = .guardTagMismatch ∨ tagFits s pl va me ∧ me.gver.toNat ≠ ver % 2 ^ 16 ∧ cause = .versionStale))
/-- Where element e of a command's source lies: for CPYG in the row of the table that its index names (11 R246, R250). -/
def sourceVa (s : State) (m : CCmd) (e va : Nat) : Prop :=
  match m.op with
  | .cpyg => ∃ j, readsAs s m none (elemAddr m.idx (e / Shape.ext m.src 0) 0 0 0) 4 j ∧ j < Shape.ext m.src 1
      ∧ va = elemAddr m.src (e % Shape.ext m.src 0) j 0 0
  | _ => va = elemVa m.src e
/-- Where it goes. -/
def destVa (m : CCmd) (e : Nat) : Nat :=
  match m.op with
  | .cpyg => elemAddr m.dst (e % Shape.ext m.src 0) (e / Shape.ext m.src 0) 0 0
  | _ => elemVa m.dst e
/-- How many elements a command moves; the version that its source must have; what EXPAND makes of an element. -/
def elements (m : CCmd) : Nat :=
  match m.op with | .cpyg => Shape.ext m.idx 0 * Shape.ext m.src 0 | .cpyr => Shape.count m.src | _ => Shape.count m.dst
def checked (m : CCmd) : Option Nat :=
  match m.op with | .cpy gc _ => if gc then some (Shape.gver m.src) else none | .cpyr => some (Shape.gver m.src) | _ => none
def expanded (m : CCmd) (x : Nat) : Nat :=
  match m.op with
  | .cpy _ true =>
    let v : Machine.Num := if m.cfg % 256 = 255 then .nan else (fmtNum (Shape.fmt m.src) 0 x).scale ((m.cfg % 256 : Int) - 127)
    match Shape.fmt m.dst with | 1 => fp32.round rne v | 2 => fp16.round rne v | _ => bf16.round rne v
  | _ => x
/-- Bytes of an element where it is written. -/
def destSize (m : CCmd) : Nat := match m.op with | .cpy _ _ => Shape.esz m.dst | _ => Shape.esz m.src
/-- The channel's command is moving its elements and waits neither for a merge of its own nor for its flag word. -/
def copyMoves (s : State) (tile ch : Nat) (m : CCmd) : Prop :=
  s.ev = .copyCommandComplete tile ch ∧ (s.cp tile).current ch = some m ∧ m.st = .running ∧ tileOf m.core = tile ∧ m.auto = false
    ∧ s.unsent m.core (mergeOf m) = false
/-- The cycle of the command's next elements has come. -/
def copyDue (s : State) (tile ch : Nat) (m : CCmd) : Prop :=
  copyMoves s tile ch m ∧ m.sticky = false ∧ m.elem < elements m ∧ m.due ≠ 0 ∧ m.due ≤ s.now
/-- A command with its next elements moved: the time it has waited puts its clock back (11 R240). -/
def movedOn (s t : State) (tile ch n : Nat) (m : CCmd) : Prop :=
  (∃ d, cpHas t tile d ∧ d.id = m.id ∧ d.st = .running ∧ d.elem = m.elem + n ∧ d.base = m.base + (s.now - m.due) ∧ d.due = 0
    ∧ (m.op = .cpyr ∨ d.sticky = false)) ∧ due t s.now (.copyCommandComplete tile ch)

/-- The matrix array and the copy engine (09 R187, R194, R202, R204, R208, R209, R214; 11 R239, R242, R246, R256, R257; 15 R334, R338). -/
inductive EngineEventRow (s : State) : Instr → (State → Prop) → Prop
  /-- a free array goes to the one run that waits -/
  | lease {tile : Nat} {r : MRun} : s.ev = .leaseGrant tile → (s.mx tile).owner = none → (s.mx tile).runs = [r] → r.granted = false →
      r.req < s.now → r.core / 4 = tile → r.closed = 0 → (s.mx tile).freed < s.now →
      EngineEventRow s .leaseGrant (fun t => sameMem s t ∧ (t.mx tile).owner = some r.id ∧ (t.mx tile).gat = s.now
        ∧ (t.mx tile).last = r.core % 4 ∧ (t.mx tile).runs = [{ r with granted := true }] ∧ due t (s.now + 1) (.matrixCommandStart tile))
  | leaseTaken {tile : Nat} : s.ev = .leaseGrant tile → (s.mx tile).owner ≠ none → EngineEventRow s .leaseGrant (fun t => t = s)
  /-- no earlier than in the cycle after it became free -/
  | leaseEarly {tile : Nat} : s.ev = .leaseGrant tile → s.now ≤ (s.mx tile).freed → EngineEventRow s .leaseGrant (fun t => t = s)
  /-- a command starts no sooner than two cycles after its issue, one after the grant, and when the one before has completed -/
  | startLater {tile : Nat} {c : MCmd} : s.ev = .matrixCommandStart tile → s.mxNext tile = some c → s.now < mxReady s tile c →
      EngineEventRow s .matrixCommandStart (fun t => t = s.at_ (mxReady s tile c) (.matrixCommandStart tile))
  /-- MZERO starts: four rows in a cycle -/
  | startZero {tile : Nat} {c : MCmd} : mxMay s tile c → c.op = .mzero → c.ord.acq = false → c.sq = false → c.kdone = 0 → c.rowg = 0 →
      EngineEventRow s .matrixCommandStart (fun t => sameMem s t ∧ due t (s.now + (2 + (c.rows + 3) / 4)) (.matrixCommandComplete tile)
        ∧ ∃ d, mxHas t tile d ∧ d.id = c.id ∧ d.st = .running ∧ d.start = s.now)
  /-- MMA and MMAS start: the codes of A, of B and of a sparse A's positions, interval by interval, and the time to the last promotion -/
  | startMma {tile : Nat} {c : MCmd} {f : MFmt} {sparse : Bool} : mxMay s tile c → tileOf c.core = tile → c.op = .mma f sparse →
      c.ord.acq = false → c.sq = false → c.kdone = 0 → c.rowg = 0 → c.paramsOk = true → 0 < c.steps →
      (∀ x y, x < c.perStep * c.steps → y < c.rows → scratchReads s tile c (elemAddr c.sa x y 0 0) (Shape.esz c.sa)) →
      (∀ n k, n < c.cols → k < 8 * c.steps → scratchReads s tile c (elemAddr c.sb n k 0 0) (Shape.esz c.sb)) →
      (sparse = true → ∀ y k, y < c.rows → k < c.steps → scratchReads s tile c (metaVa c y k) 1) →
      (∀ r, r < c.rows → s.cellsBad c r = false) →
      EngineEventRow s .matrixCommandStart (fun t => sameMem s t
        ∧ due t (s.now + (14 + (if sparse then 2 else if f = .f16 ∨ f = .bf16 then 8 else 4) * c.steps)) (.matrixCommandComplete tile)
        ∧ ∃ d, mxHas t tile d ∧ d.id = c.id ∧ d.st = .running ∧ d.start = s.now ∧ d.failAt = none
          ∧ ∀ iv, iv < c.nint →
            (∀ r x, r < c.rows → x < perRow c iv →
              aCode d iv r x = scratchCode s tile c (elemAddr c.sa (c.perStep * kFirst c iv + x) r 0 0) (Shape.esz c.sa))
            ∧ (∀ k n, k < 8 * (kFirst c (iv + 1) - kFirst c iv) → n < c.cols →
              bCode d iv k n = scratchCode s tile c (elemAddr c.sb n (8 * kFirst c iv + k) 0 0) (Shape.esz c.sb))
            ∧ (sparse = true → ∀ r k, r < c.rows → k < kFirst c (iv + 1) - kFirst c iv →
              d.posn.getD (c.rows * kFirst c iv + r * (kFirst c (iv + 1) - kFirst c iv) + k) 0
                = scratchCode s tile c (metaVa c r (kFirst c iv + k)) 1))
  /-- MDRAIN starts: the multipliers and shifts of its columns -/
  | startDrain {tile : Nat} {c : MCmd} {md : DrainMode} : mxMay s tile c → tileOf c.core = tile → c.op = .mdrain md → c.ord.acq = false →
      c.sq = false → (md ≠ .plain → ∀ i, i < 2 * c.cols → scratchReads s tile c (elemAddr c.sb i 0 0 0) 4) →
      EngineEventRow s .matrixCommandStart (fun t => sameMem s t ∧ due t (s.now + 4) (.matrixCommandComplete tile)
        ∧ ∃ d, mxHas t tile d ∧ d.id = c.id ∧ d.st = .running ∧ d.start = s.now
          ∧ (md ≠ .plain → ∀ i, i < 2 * c.cols → d.opB.getD i 0 = scratchCode s tile c (elemAddr c.sb i 0 0 0) 4))
  /-- an acquire comes first -/
  | startAcquire {tile : Nat} {c : MCmd} : mxMay s tile c → c.ord.acq = true → c.st = .queued →
      EngineEventRow s .matrixCommandStart (fun t => sameMem s t
        ∧ (∃ d, mxHas t tile d ∧ d.id = c.id ∧ d.st = .acquiring)
        ∧ asked s t tile c.core (syncOff (Shape.sync c.sa)) (.matrix tile) (.matrixAcquire tile))
  /-- the object's home performs it; the reply starts the command -/
  | acquire {tile w : Nat} {c : MCmd} {v : Waiter} : acquires s tile c v →
      s.engineSync c.core (syncOff (Shape.sync c.sa)) false = .done w →
      EngineEventRow s .matrixAcquire (fun t => t.dram = s.dram ∧ t.scratch = s.scratch
        ∧ stored s.accum t.accum (syncOff (Shape.sync c.sa)) (leBytes 8 w)
        ∧ (∃ d, mxHas t tile d ∧ d.id = c.id ∧ d.st = .acquired)
        ∧ due t (s.now + (6 + 2 * s.hops tile (accTile (syncOff (Shape.sync c.sa))))) (.matrixCommandStart tile))
  | acquireWaits {tile : Nat} {c : MCmd} {v : Waiter} : acquires s tile c v →
      s.engineSync c.core (syncOff (Shape.sync c.sa)) false = .wait → EngineEventRow s .matrixAcquire (fun t => t = s)
  | acquireRefused {tile : Nat} {c : MCmd} {v : Waiter} {cause : Cause} : acquires s tile c v →
      s.engineSync c.core (syncOff (Shape.sync c.sa)) false = .refuse cause →
      EngineEventRow s .matrixAcquire (fun t => sameMem s t ∧ (∀ w ∈ t.waiters, w.who ≠ Requester.matrix tile)
        ∧ due t (s.now + (6 + 2 * s.hops tile (accTile (syncOff (Shape.sync c.sa))))) (.matrixCommandStop tile cause.code c.kdone c.rowg))
  /-- and the refusal that has come back stops the command where it stood -/
  | stopRefused {tile k g : Nat} {c : MCmd} {cause : Cause} : s.ev = .matrixCommandStop tile cause.code k g →
      (s.mx tile).cmds.find? (fun c => c.st == .running || c.st == .acquiring) = some c → c.st = .acquiring →
      EngineEventRow s .matrixCommandStop (fun t => sameMem s t ∧ (t.core c.core).sysReg 0x67 = mprog c c.kdone c.rowg
        ∧ (∃ d, mxHas t tile d ∧ d.id = c.id ∧ d.st = .stopped ∧ d.kdone = c.kdone ∧ d.rowg = c.rowg)
        ∧ ∃ r ∈ (t.core c.core).traps, r.cause = cause ∧ r.src = 1 ∧ r.stream = 1 ∧ r.info0 = 0)
  /-- MZERO completes: its cells are zero -/
  | completeZero {tile : Nat} {c : MCmd} : mxRuns s tile c → c.op = .mzero → c.kdone = 0 → c.rowg = 0 → c.ord.rel = false →
      c.ret = none → c.rows ≤ 128 → 0 < c.rows →
      EngineEventRow s .matrixCommandComplete (fun t => t.dram = s.dram ∧ t.scratch = s.scratch
        ∧ (∀ r n, r < c.rows → n < c.cols → t.accum.num (cellOff tile c.plane (c.row + r) (c.col + n)) 4 = 0)
        ∧ cellsOnly s t tile c ∧ mxEnds s t tile c)
  /-- MMA and MMAS complete: each cell has taken the promotion of every interval in turn -/
  | completeMma {tile : Nat} {c : MCmd} {f : MFmt} {sparse : Bool} : mxRuns s tile c → c.op = .mma f sparse → c.kdone = 0 → c.rowg = 0 →
      c.ord.rel = false → c.ret = none → c.paramsOk = true → 0 < c.steps →
      EngineEventRow s .matrixCommandComplete (fun t => t.dram = s.dram ∧ t.scratch = s.scratch
        ∧ (∀ r n, r < c.rows → n < c.cols → t.accum.num (cellOff tile c.plane (c.row + r) (c.col + n)) 4
            = (List.range c.nint).foldl (promoted c f sparse r n) (s.accum.num (cellOff tile c.plane (c.row + r) (c.col + n)) 4))
        ∧ cellsOnly s t tile c ∧ mxEnds s t tile c)
  /-- MDRAIN writes one row in a cycle: its codes into the scratchpad, and with UPD their merge -/
  | drainRow {tile va r : Nat} {c : MCmd} {md : DrainMode} : mxRuns s tile c → c.op = .mdrain md → c.kdone < 16 → r = 16 * c.rowg + c.kdone →
      r < c.rows → s.rowHeld c r = false → s.cellsBad c r = false → scrBase ≤ va →
      (∀ j, j < c.cols → elemAddr c.sa j r 0 0 = va + Shape.esz c.sa * j) →
      EngineEventRow s .matrixCommandComplete (fun t => t.dram = s.dram ∧ t.accum = s.accum
        ∧ (∃ codes : List Nat, codes.length = c.cols
          ∧ (∀ j, j < c.cols → drained c md (s.accum.num (cellOff tile c.plane (c.row + r) (c.col + j)) 4) j (codes.getD j 0))
          ∧ stored s.scratch t.scratch (scratchOf tile c.part va) (codes.flatMap (leBytes (Shape.esz c.sa)))
          ∧ (Shape.upd c.sa = true → ∀ p, foldGroup (Shape.albn c.sa) (Shape.fmt c.sa) (Shape.qfrac c.sa) codes = some p →
              due t s.now (.albedoMergeIssue c.core (.matrix c.id c.batch) p)))
        ∧ (∃ d, mxHas t tile d ∧ d.id = c.id ∧ d.st = .running ∧ 16 * d.rowg + d.kdone = r + 1 ∧ d.kdone < 16)
        ∧ due t (s.now + 1) (.matrixCommandComplete tile))
  /-- a row waits for a range that another batch holds -/
  | drainWaits {tile r : Nat} {c : MCmd} {md : DrainMode} : mxRuns s tile c → c.op = .mdrain md → r = 16 * c.rowg + c.kdone → c.kdone < 16 →
      r < c.rows → s.rowHeld c r = true →
      EngineEventRow s .matrixCommandComplete (fun t => t = s.after 1 (.matrixCommandComplete tile))
  /-- after its last row MDRAIN is done -/
  | drainEnds {tile : Nat} {c : MCmd} {md : DrainMode} : mxRuns s tile c → c.op = .mdrain md → c.kdone = c.rows % 16 → c.rowg = c.rows / 16 →
      c.ord.rel = false → c.ret = none → EngineEventRow s .matrixCommandComplete (fun t => sameMem s t ∧ mxEnds s t tile c)
  /-- a release asks its object's home in the cycle of completion, when the merges of the core's commands are applied -/
  | asksRelease {tile off : Nat} {c : MCmd} {md : DrainMode} : mxRuns s tile c → c.op = .mdrain md → c.kdone = c.rows % 16 →
      c.rowg = c.rows / 16 → c.ord.rel = true → off = syncOff (Shape.sync c.sa) → s.muted tile (accTile off) = false →
      s.mergesOf c.core (fun m => match m with | .matrix _ _ => true | _ => false) = false →
      EngineEventRow s .matrixCommandComplete (fun t => sameMem s t ∧ (∃ d, mxHas t tile d ∧ d.id = c.id ∧ d.st = .releasing)
        ∧ t.waiters = waiterPut s.waiters ⟨off, s.now, c.core, .matrix tile⟩ ∧ due t s.now (.syncAccept off))
  | released {tile off w : Nat} {c : MCmd} {v : Waiter} : s.ev = .syncAccept off → soleAsk s off v → v.who = Requester.matrix tile →
      (s.mx tile).cmds.find? (fun c => c.st == .acquiring || c.st == .releasing) = some c → c.st = .releasing → tileOf c.core = tile →
      off = syncOff (Shape.sync c.sa) → c.ret = none → s.engineSync c.core off true = .done w →
      EngineEventRow s .syncAccept (fun t => t.dram = s.dram ∧ t.scratch = s.scratch ∧ stored s.accum t.accum off (leBytes 8 w)
        ∧ mxEnds s t tile c)
  /-- a command stops where it failed: MPROG and an asynchronous trap -/
  | stop {tile va k g : Nat} {c : MCmd} {cause : Cause} : s.ev = .matrixCommandStop tile cause.code k g →
      (s.mx tile).cmds.find? (fun c => c.st == .running || c.st == .acquiring) = some c → c.st = .running →
      c.failAt = some (cause.code, va, k, g) → c.op = .mzero →
      16 * g + k = 16 * c.rowg + c.kdone →
      EngineEventRow s .matrixCommandStop (fun t => sameMem s t ∧ (t.core c.core).sysReg 0x67 = mprog c k g
        ∧ (∃ d, mxHas t tile d ∧ d.id = c.id ∧ d.st = .stopped ∧ d.kdone = k ∧ d.rowg = g)
        ∧ ∃ r ∈ (t.core c.core).traps, r.cause = cause ∧ r.src = 1 ∧ r.stream = 1 ∧ r.info0 = va)
  /-- a check of the array itself stops the command at the point that it names, within what the command has reached -/
  | stopCheck {tile k g : Nat} {c : MCmd} {cause : Cause} : s.ev = .matrixCommandStop tile cause.code k g →
      (s.mx tile).cmds.find? (fun c => c.st == .running || c.st == .acquiring) = some c → c.st = .running → c.failAt = none →
      c.clampPoint k g = (c.kdone, c.rowg) →
      EngineEventRow s .matrixCommandStop (fun t => sameMem s t ∧ (t.core c.core).sysReg 0x67 = mprog c c.kdone c.rowg
        ∧ (∃ d, mxHas t tile d ∧ d.id = c.id ∧ d.st = .stopped ∧ d.kdone = c.kdone ∧ d.rowg = c.rowg)
        ∧ ∃ r ∈ (t.core c.core).traps, r.cause = cause ∧ r.src = 1 ∧ r.stream = 1 ∧ r.info0 = 0)
  /-- an empty q5 lets the array wait; the oldest entry of q5 is taken when it is ready -/
  | scaleWaits {core : Nat} {c : MCmd} : s.ev = .scaleQueuePop core →
      (s.mx (tileOf core)).cmds.find? (fun c => c.st == .running && c.core == core && c.sq) = some c →
      c.biv < c.nint → c.blk ≤ c.biv → c.rest.length < c.rows + c.cols → (s.core core).q.ld[5] = [] →
      EngineEventRow s .scaleQueuePop (fun t => t = s.after 1 s.ev)
  | scalePop {core k : Nat} {c : MCmd} {e : LoadEntry} {rest : List LoadEntry} : s.ev = .scaleQueuePop core →
      (s.mx (tileOf core)).cmds.find? (fun c => c.st == .running && c.core == core && c.sq) = some c →
      c.biv < c.nint → c.blk ≤ c.biv → c.rest.length < c.rows + c.cols → (s.core core).q.ld[5] = e :: rest →
      e.ready = some k → k ≤ s.now →
      EngineEventRow s .scaleQueuePop (fun t => sameMem s t ∧ (t.core core).q.ld[5] = rest
        ∧ (∃ d, mxHas t (tileOf core) d ∧ d.id = c.id ∧ d.rest = c.rest ++ lanesOf e.data 8) ∧ due t s.now s.ev)
  /-- a free channel takes the one waiting command -/
  | take {tile : Nat} {ch : Fin 4} {m : CCmd} : s.ev = .copyChannelTake tile ch.val → (s.cp tile).cmds = [m] → m.st = .queued →
      m.tag.val % 4 = ch.val → m.core / 4 = tile → m.op ≠ .recall → (s.core m.core).engineHold = false →
      EngineEventRow s .copyChannelTake (fun t => sameMem s t ∧ (t.cp tile).cmds = [{ m with st := .taken }]
        ∧ (t.cp tile).served = (s.cp tile).served.set ch (m.core % 4) ∧ due t (max s.now (m.issue + 2)) (.copyCommandStart tile ch.val))
  | channelBusy {tile ch : Nat} {m : CCmd} : s.ev = .copyChannelTake tile ch → (s.cp tile).current ch = some m →
      EngineEventRow s .copyChannelTake (fun t => t = s)
  /-- a copy waits for the queue stores its A stream issued before it -/
  | copyWaits {tile ch : Nat} {m : CCmd} {w : QStore} : s.ev = .copyCommandStart tile ch → (s.cp tile).current ch = some m →
      m.st = .taken → w ∈ (s.core m.core).q.wr → w.id < m.store →
      EngineEventRow s .copyCommandStart (fun t => t = s.after 1 s.ev)
  | copyAcquires {tile ch : Nat} {m : CCmd} : s.ev = .copyCommandStart tile ch → (s.cp tile).current ch = some m →
      m.st = .taken → copyMay s m → m.op.isTail = false → m.ord.acq = true →
      EngineEventRow s .copyCommandStart (fun t => sameMem s t ∧ (∃ d, cpHas t tile d ∧ d.id = m.id ∧ d.st = .acquiring)
        ∧ asked s t tile m.core (syncOff (Shape.sync m.src)) (.copy tile ch) (.syncAccept (syncOff (Shape.sync m.src))))
  | copyAcquired {tile ch off w : Nat} {m : CCmd} {v : Waiter} : asks s tile ch off m v → m.st = .acquiring →
      s.engineSync m.core off false = .done w →
      EngineEventRow s .syncAccept (fun t => t.dram = s.dram ∧ t.scratch = s.scratch ∧ stored s.accum t.accum off (leBytes 8 w)
        ∧ (∃ d, cpHas t tile d ∧ d.id = m.id ∧ d.st = .ready)
        ∧ due t (s.now + (6 + 2 * s.hops tile (accTile off))) (.copyCommandStart tile ch))
  | copyStarts {tile ch : Nat} {m : CCmd} : s.ev = .copyCommandStart tile ch → (s.cp tile).current ch = some m →
      m.st = .taken → copyMay s m → m.ord.acq = false → m.op.isTail = false → (m.op = .cpyr → m.ord.rel = false) →
      EngineEventRow s .copyCommandStart (fun t => sameMem s t
        ∧ (∃ d, cpHas t tile d ∧ d.id = m.id ∧ d.st = .running ∧ d.start = s.now ∧ d.base = s.now ∧ d.from_ = m.elem ∧ d.elem = m.elem ∧ d.due = 0)
        ∧ due t s.now (.copyCommandComplete tile ch))
  /-- the cycle in which a copy in the scratchpad moves its next elements: four cycles, and one for 64 bytes moved since it began -/
  | copyReckons {tile ch n : Nat} {m : CCmd} : copyMoves s tile ch m → m.sticky = false → m.elem < elements m → m.due = 0 →
      (∃ gc ex, m.op = .cpy gc ex) → n = (s.movePlan m).runLen m m.elem → 0 < s.now →
      (∀ k, k < n → inScratchWindow (elemVa m.src (m.elem + k)) = true
        ∧ inScratchWindow ((elemVa m.src (m.elem + k) + Shape.esz m.src - 1) % 2 ^ 64) = true
        ∧ inScratchWindow (elemVa m.dst (m.elem + k)) = true
        ∧ inScratchWindow ((elemVa m.dst (m.elem + k) + Shape.esz m.dst - 1) % 2 ^ 64) = true) →
      EngineEventRow s .copyCommandComplete (fun t => sameMem s t ∧ ∃ d, cpHas t tile d ∧ d.id = m.id ∧ d.elem = m.elem ∧ d.st = .running
        ∧ d.due = max s.now (m.base + 4 + ((m.elem + n - m.from_) * Shape.esz m.dst + 63) / 64 + m.slow)
        ∧ due t d.due (.copyCommandComplete tile ch))
  /-- CPY and CPYG move the elements that follow each other in a block of the destination: to the scratchpad, or to plain device memory,
  where the block takes the destination's version -/
  | copyBlock {tile ch n d : Nat} {m : CCmd} {codes : List Nat} {pl : Place} : copyDue s tile ch m → m.op ≠ .cpyr → m.op.isTail = false →
      m.groups = [] → (m.op = .cpyg ∨ Shape.upd m.dst = false) → n = (s.movePlan m).runLen m m.elem → d = destVa m m.elem →
      d % 128 + n * destSize m ≤ 128 → d < 2 ^ 64 → 0 < destSize m → s.dstHeld m d (n * destSize m) = false → codes.length = n →
      (∀ k, k < n → ∃ va, sourceVa s m (m.elem + k) va ∧ readsAs s m (checked m) va (Shape.esz m.src) (codes.getD k 0)) →
      s.copyPlace m d .write = .ok pl → ((∃ o, pl = .scratch o) ∨ ∃ a, pl = .dram a ∧ inDram a = true) →
      EngineEventRow s .copyCommandComplete (fun t => t.accum = s.accum ∧ t.remote = s.remote ∧ movedOn s t tile ch n m
        ∧ (∀ o, pl = .scratch o → t.dram = s.dram
            ∧ stored s.scratch t.scratch o (codes.flatMap (fun x => leBytes (destSize m) (expanded m x))))
        ∧ (∀ a, pl = .dram a → t.scratch = s.scratch
            ∧ stored s.dram t.dram a (codes.flatMap (fun x => leBytes (destSize m) (expanded m x)))
            ∧ (t.lineMeta (a / 128)).gver = BitVec.ofNat 16 (Shape.gver m.dst) ∧ (t.lineMeta (a / 128)).nova = false))
  /-- CPYR adds the elements of one source block to the cells of the destination, INT32 with wrap or FP32 rounded; a sum or an element
  that is no finite number raises the sticky bit -/
  | copyAdds {tile n : Nat} {ch : Fin 4} {m : CCmd} {codes : List Nat} : copyDue s tile ch.val m → m.op = .cpyr → bitOf m.cfg 44 = false →
      n = (s.movePlan m).runLen m m.elem → codes.length = n →
      (∀ k, k < n → readsAs s m (checked m) (elemVa m.src (m.elem + k)) 4 (codes.getD k 0)
        ∧ accBase ≤ elemVa m.dst (m.elem + k) ∧ elemVa m.dst (m.elem + k) = elemVa m.dst m.elem + 4 * k
        ∧ s.routerFenced (accTile (elemVa m.dst (m.elem + k) - accBase)) = false
        ∧ s.placeEcc (.acc (elemVa m.dst (m.elem + k) - accBase)) 4 = none) →
      (s.cpyrPort tile ch.val (planeNo (elemVa m.dst m.elem - accBase))).isSome = true →
      EngineEventRow s .copyCommandComplete (fun t => t.dram = s.dram ∧ t.scratch = s.scratch ∧ t.remote = s.remote
        ∧ movedOn s t tile ch.val n m
        ∧ (∀ k, k < n → t.accum.num (elemVa m.dst (m.elem + k) - accBase) 4
            = (if Shape.fmt m.src = 1 then
                fp32.round rne (Machine.Num.add false (fp32.decode (s.accum.num (elemVa m.dst (m.elem + k) - accBase) 4)) (fp32.decode (codes.getD k 0)))
              else (s.accum.num (elemVa m.dst (m.elem + k) - accBase) 4 + codes.getD k 0) % 2 ^ 32))
        ∧ (∀ a, a < elemVa m.dst m.elem - accBase ∨ elemVa m.dst m.elem - accBase + 4 * n ≤ a → Mem.byte t.accum a = Mem.byte s.accum a)
        ∧ ∃ d, cpHas t tile d ∧ d.id = m.id ∧ (d.sticky = true ↔ Shape.fmt m.src = 1
            ∧ ∃ k, k < n ∧ (codes.getD k 0 / 2 ^ 23 % 2 ^ 8 = 255
              ∨ t.accum.num (elemVa m.dst (m.elem + k) - accBase) 4 / 2 ^ 23 % 2 ^ 8 = 255)))
  /-- the port of the plane is another's in this cycle -/
  | copyPortWaits {tile n : Nat} {ch : Fin 4} {m : CCmd} {codes : List Nat} : copyDue s tile ch.val m → m.op = .cpyr → bitOf m.cfg 44 = false →
      n = (s.movePlan m).runLen m m.elem → codes.length = n →
      (∀ k, k < n → readsAs s m (checked m) (elemVa m.src (m.elem + k)) 4 (codes.getD k 0)) → accBase ≤ elemVa m.dst m.elem →
      s.cpyrPort tile ch.val (planeNo (elemVa m.dst m.elem - accBase)) = none →
      EngineEventRow s .copyCommandComplete (fun t => t = s.after 1 (.copyCommandComplete tile (m.tag.val % 4)))
  /-- after the last element the sticky bit goes to the flag word -/
  | copyFlag {tile off : Nat} {ch : Fin 4} {m : CCmd} : copyMoves s tile ch.val m → m.op = .cpyr → bitOf m.cfg 44 = false → m.sticky = true →
      elements m ≤ m.elem → accBase ≤ flagAddr m.dst → off = flagAddr m.dst - accBase → s.routerFenced (accTile off) = false →
      s.placeEcc (.acc off) 4 = none → (s.cpyrPort tile ch.val (planeNo off)).isSome = true →
      EngineEventRow s .copyCommandComplete (fun t => t.dram = s.dram ∧ t.scratch = s.scratch
        ∧ bitOf (t.accum.num off 4) 0 = true ∧ (∀ k, k ≠ 0 → bitOf (t.accum.num off 4) k = bitOf (s.accum.num off 4) k)
        ∧ (∀ a, a < off ∨ off + 4 ≤ a → Mem.byte t.accum a = Mem.byte s.accum a)
        ∧ (∃ d, cpHas t tile d ∧ d.id = m.id ∧ d.sticky = false ∧ d.elem = m.elem) ∧ due t s.now (.copyCommandComplete tile (m.tag.val % 4)))
  /-- with its elements moved the copy is done: the tag is ready and the channel is free -/
  | copyEnds {tile ch : Nat} {m : CCmd} : copyMoves s tile ch m → m.op.isTail = false → m.sticky = false → elements m ≤ m.elem →
      m.ord.rel = false →
      EngineEventRow s .copyCommandComplete (fun t => sameMem s t ∧ (∀ d, cpHas t tile d → d.id ≠ m.id)
        ∧ (t.core m.core).tags = (s.core m.core).tags ||| (1#64 <<< m.tag.val) ∧ due t s.now (.copyChannelTake tile (m.tag.val % 4)))
  /-- a release leaves for its object's home when the elements are moved and the command's merges are applied -/
  | copyReleases {tile ch : Nat} {m : CCmd} : copyMoves s tile ch m → s.mergesOf m.core (mergeOf m) = false → m.op.isTail = false →
      m.sticky = false → ch = m.tag.val % 4 → m.ord.rel = true → elements m ≤ m.elem →
      EngineEventRow s .copyCommandComplete (fun t => sameMem s t ∧ (∃ d, cpHas t tile d ∧ d.id = m.id ∧ d.st = .releasing)
        ∧ asked s t tile m.core (syncOff (Shape.sync m.dst)) (.copy tile ch) (.syncAccept (syncOff (Shape.sync m.dst))))
  | copyReleased {tile ch off w : Nat} {m : CCmd} {v : Waiter} : asks s tile ch off m v → m.st = .releasing →
      s.engineSync m.core off true = .done w →
      EngineEventRow s .syncAccept (fun t => t.dram = s.dram ∧ t.scratch = s.scratch ∧ stored s.accum t.accum off (leBytes 8 w)
        ∧ (∃ d, cpHas t tile d ∧ d.id = m.id ∧ d.st = .replying)
        ∧ due t (s.now + (6 + 2 * s.hops tile (accTile off))) (.copyCommandComplete tile ch))
  | copyReplied {tile ch : Nat} {m : CCmd} : s.ev = .copyCommandComplete tile ch → (s.cp tile).current ch = some m → m.st = .replying →
      EngineEventRow s .copyCommandComplete (fun t => sameMem s t ∧ (∀ d, cpHas t tile d → d.id ≠ m.id)
        ∧ (t.core m.core).tags = (s.core m.core).tags ||| (1#64 <<< m.tag.val) ∧ due t s.now (.copyChannelTake tile (m.tag.val % 4)))
  /-- a refusal at the home comes back and stops the command -/
  | copyRefused {tile ch off : Nat} {m : CCmd} {v : Waiter} {cause : Cause} : asks s tile ch off m v →
      m.st = .acquiring ∨ m.st = .releasing → s.engineSync m.core off (m.st == .releasing) = .refuse cause →
      EngineEventRow s .syncAccept (fun t => sameMem s t ∧ (∃ d, cpHas t tile d ∧ d.id = m.id ∧ d.st = .replying)
        ∧ due t (s.now + (6 + 2 * s.hops tile (accTile off))) (.copyCommandStop tile ch cause.code))
  | copyStopsRefused {tile ch : Nat} {m : CCmd} {cause : Cause} : s.ev = .copyCommandStop tile ch cause.code →
      (s.cp tile).current ch = some m → m.st = .replying → bitOf ((s.core m.core).sysReg 0x68).toNat 63 = false →
      EngineEventRow s .copyCommandStop (fun t => sameMem s t
        ∧ (∃ d, cpHas t tile d ∧ d.id = m.id ∧ d.st = .stopped ∧ d.elem = m.elem)
        ∧ (∃ r ∈ (t.core m.core).traps, r.cause = cause ∧ r.src = 2 ∧ r.ch = m.tag.val % 4 ∧ r.info0 = 0)
        ∧ (t.core m.core).sysReg 0x68 = cpyprog m)
  /-- a copy stops where it may not read its source: at the first element, `e`, that touches a 64 KiB unit which that element touches; the
  block checked last is not checked again -/
  | copyStops {tile ch e : Nat} {m : CCmd} {cause : Cause} {gc ex : Bool} : copyDue s tile ch m → m.op = .cpy gc ex → 1 ≤ Shape.esz m.src →
      byteFails s m (if m.blk = some (elemVa m.src m.elem / 128) then none else checked m) (elemVa m.src m.elem) cause → cause ≠ .copyIndex →
      elemVa m.src m.elem < 2 ^ 64 → bitOf ((s.core m.core).sysReg 0x68).toNat 63 = false →
      (e = m.elem ∨ e < m.elem ∧ ∃ q ∈ (s.movePlan m).pagesOf e, q ∈ (s.movePlan m).pagesOf m.elem) →
      (∀ k, k < e → ∀ q ∈ (s.movePlan m).pagesOf k, q ∉ (s.movePlan m).pagesOf m.elem) →
      EngineEventRow s .copyCommandComplete (fun t => sameMem s t
        ∧ (∃ d, cpHas t tile d ∧ d.id = m.id ∧ d.st = .stopped ∧ d.elem = e)
        ∧ (∃ r ∈ (t.core m.core).traps, r.cause = cause ∧ r.src = 2 ∧ r.ch = m.tag.val % 4 ∧ r.info0 = elemVa m.src m.elem)
        ∧ (t.core m.core).sysReg 0x68 = cpyprog { m with elem := e })
  /-- an index beyond the table stops a CPYG at the first element of its row -/
  | copyIndexStops {tile ch j e : Nat} {m : CCmd} : copyDue s tile ch m → m.op = .cpyg →
      readsAs s m none (elemAddr m.idx (m.elem / Shape.ext m.src 0) 0 0 0) 4 j → Shape.ext m.src 1 ≤ j →
      e = m.elem / Shape.ext m.src 0 * Shape.ext m.src 0 → bitOf ((s.core m.core).sysReg 0x68).toNat 63 = false →
      EngineEventRow s .copyCommandComplete (fun t => sameMem s t
        ∧ (∃ d, cpHas t tile d ∧ d.id = m.id ∧ d.st = .stopped ∧ d.elem = e)
        ∧ (∃ r ∈ (t.core m.core).traps, r.cause = .copyIndex ∧ r.src = 2 ∧ r.ch = m.tag.val % 4 ∧ r.info0 = 0)
        ∧ (t.core m.core).sysReg 0x68 = cpyprog { m with elem := e })
  /-- a fault that the engine meets stops the command at the element that it has reached -/
  | copyStopsAt {tile ch : Nat} {m : CCmd} {cause : Cause} : s.ev = .copyCommandStop tile ch cause.code → (s.cp tile).current ch = some m →
      m.st = .running → m.sticky = false → bitOf ((s.core m.core).sysReg 0x68).toNat 63 = false →
      EngineEventRow s .copyCommandStop (fun t => sameMem s t
        ∧ (∃ d, cpHas t tile d ∧ d.id = m.id ∧ d.st = .stopped ∧ d.elem = m.elem)
        ∧ (∃ r ∈ (t.core m.core).traps, r.cause = cause ∧ r.src = 2 ∧ r.ch = m.tag.val % 4 ∧ r.info0 = 0)
        ∧ (t.core m.core).sysReg 0x68 = cpyprog m)
  /-- the segment's state when a tail command is accepted: TAILPUT makes it FILLING, OFFLOAD of a RESIDENT one OUTBOUND -/
  | tailPut {tile ch : Nat} {m : CCmd} : s.ev = .tailCommandAccept tile ch → (s.cp tile).cmds = [m] → m.tag.val % 4 = ch → m.op = .tailput → s.segEcc tile m.part m.seg = false →
      EngineEventRow s .tailCommandAccept (fun t => t.dram = s.dram ∧ t.accum = s.accum ∧ segState (t.seg tile m.part m.seg) = 1
        ∧ segSealv (t.seg tile m.part m.seg) = segSealv (s.seg tile m.part m.seg))
  | tailOffload {tile ch : Nat} {m : CCmd} : s.ev = .tailCommandAccept tile ch → (s.cp tile).cmds = [m] → m.tag.val % 4 = ch → m.op = .offload →
      segState (s.seg tile m.part m.seg) = 2 → s.segEcc tile m.part m.seg = false →
      EngineEventRow s .tailCommandAccept (fun t => t.dram = s.dram ∧ t.accum = s.accum ∧ segState (t.seg tile m.part m.seg) = 3)
  | tailRecall {tile ch : Nat} {m : CCmd} : s.ev = .tailCommandAccept tile ch → (s.cp tile).cmds = [m] → m.tag.val % 4 = ch → m.op = .recall →
      segState (s.seg tile m.part m.seg) = 4 → s.segEcc tile m.part m.seg = false →
      EngineEventRow s .tailCommandAccept (fun t => t.dram = s.dram ∧ t.accum = s.accum ∧ segState (t.seg tile m.part m.seg) = 5)
  /-- its state after the transfer: RESIDENT after TAILPUT and RECALL, OFFLOADED after OFFLOAD, FREE after TAILGET.F -/
  | tailDone {tile ch n : Nat} {m : CCmd} : s.ev = .tailCommandComplete tile ch → (s.cp tile).current ch = some m →
      (m.op = .tailput ∧ n = 2 ∨ m.op = .recall ∧ n = 2 ∨ m.op = .offload ∧ n = 4 ∨ m.op = .tailget true ∧ n = 0) → s.segEcc tile m.part m.seg = false →
      EngineEventRow s .tailCommandComplete (fun t => t.dram = s.dram ∧ t.accum = s.accum ∧ segState (t.seg tile m.part m.seg) = n
        ∧ (∀ d, cpHas t tile d → d.id ≠ m.id) ∧ (t.core m.core).tags = (s.core m.core).tags ||| (1#64 <<< m.tag.val))

/-- Orbits, the schedule counter, mail (12 R269, R270; 14 R313 to R317; 16 R353). -/
inductive OrbitEventRow (s : State) : Instr → (State → Prop) → Prop
  /-- an aligned core's orbit stops: SC stands still -/
  | stop {core : Nat} : s.ev = .orbitStop core → (s.core core).aligned = true → (s.core core).stopped = false →
      OrbitEventRow s .orbitStop (fun t => sameMem s t ∧ (t.core core).stopped = true ∧ t.sc core = s.sc core
        ∧ (t.core core).sc.run = false ∧ (t.core core).s = (s.core core).s)
  | stopped {core : Nat} : s.ev = .orbitStop core → ((s.core core).aligned = false ∨ (s.core core).stopped = true) →
      OrbitEventRow s .orbitStop (fun t => t = s)
  | resume {core : Nat} : s.ev = .orbitResume core → (s.core core).stopped = true →
      OrbitEventRow s .orbitResume (fun t => sameMem s t ∧ (t.core core).stopped = false ∧ t.sc core = s.sc core
        ∧ (t.core core).sc.run = true ∧ due t s.now (.matrixCommandStart (tileOf core))
        ∧ (∀ ch, ch < 4 → due t s.now (.copyChannelTake (tileOf core) ch)) ∧ (t.core core).s = (s.core core).s)
  /-- the word that waits retires when SC has reached its source -/
  | waited {core : Nat} {g : Guard} {a : Reg} : s.ev = .waitscDone core →
      decode .c ((s.core core).halfwords .c (s.core core).c.pos.pc 6) = .ok (.waitsc g a) → (s.core core).mode = .running →
      (s.core core).c.pos.phase = .words → ((s.core core).getS a).toNat ≤ s.sc core → (s.core core).stopped = false →
      ((s.core core).sysReg 0x0B).toNat < 16384 →
      OrbitEventRow s .waitscDone (fun t => sameMem s t ∧ (t.core core).s = (s.core core).s
        ∧ (t.core core).c.pos.pc = (s.core core).c.pos.pc + 2 ∧ (t.core core).c.pos.left = (s.core core).c.pos.left - 1)
  | waitsOn {core : Nat} {g : Guard} {a : Reg} : s.ev = .waitscDone core →
      decode .c ((s.core core).halfwords .c (s.core core).c.pos.pc 6) = .ok (.waitsc g a) → (s.core core).mode = .running →
      (s.core core).c.pos.phase = .words → s.sc core < ((s.core core).getS a).toNat →
      OrbitEventRow s .waitscDone (fun t => sameMem s t ∧ t.core core = s.core core
        ∧ (2 * (s.now + (((s.core core).getS a).toNat - s.sc core)) + 1, Event.waitscDone core) ∈ t.agenda)
  /-- one arrival of several -/
  | arrives {core src n : Nat} {w : Word} : s.ev = .orbitArrival core src false w → n ∈ tgtCores (s.core core).orbitset → n ≠ src →
      (∀ a ∈ (s.core core).arrivals, a.src ≠ n) →
      OrbitEventRow s .orbitArrival (fun t => inCore s core t ∧ (t.core core).s = (s.core core).s
        ∧ ⟨src, s.now - s.mailTime src core, false, w.toNat⟩ ∈ (t.core core).arrivals)
  /-- the last arrival of a set of one: the orbit aligns 128 cycles after it was sent -/
  | lastArrives {core : Nat} {w : Word} : s.ev = .orbitArrival core core false w → (s.core core).sent = true →
      tgtCores (s.core core).orbitset = [core] → (s.core core).arrivals = [] → w.toNat = (s.core core).syzyWord →
      OrbitEventRow s .orbitArrival (fun t => sameMem s t
        ∧ (2 * (s.now - s.mailTime core core + 128) + 1, Event.orbitAlign core) ∈ t.agenda)
  /-- the members differ: each traps at its word -/
  | differs {core : Nat} {w : Word} : s.ev = .orbitArrival core core false w → (s.core core).sent = true →
      tgtCores (s.core core).orbitset = [core] → (s.core core).arrivals = [] → w.toNat ≠ (s.core core).syzyWord →
      (s.core core).atSyzy = true →
      OrbitEventRow s .orbitArrival (fun t => sameMem s t ∧ (t.core core).sent = false
        ∧ ⟨0, 0, 0, .orbitUnaligned, (s.core core).c.pos.blk, 0, 0⟩ ∈ (t.core core).traps)
  /-- a context that is trapped meanwhile traps when it comes back to the word -/
  | differsLater {core : Nat} {w : Word} : s.ev = .orbitArrival core core false w → (s.core core).sent = true →
      tgtCores (s.core core).orbitset = [core] → (s.core core).arrivals = [] → w.toNat ≠ (s.core core).syzyWord →
      (s.core core).mode = .trapped →
      OrbitEventRow s .orbitArrival (fun t => inCore s core t ∧ (t.core core).sent = false ∧ (t.core core).mode = .trapped
        ∧ (t.core core).traps = (s.core core).traps ∧ (t.core core).before = (s.core core).before ++ [(.orbitUnaligned, 0)])
  | align {core : Nat} : s.ev = .orbitAlign core →
      OrbitEventRow s .orbitAlign (fun t => sameMem s t ∧ (t.core core).aligned = true ∧ t.sc core = 0 ∧ (t.core core).mail = []
        ∧ (t.core core).s = (s.core core).s
        ∧ ((s.core core).atSyzy = true → ((s.core core).sysReg 0x0B).toNat < 16384 →
            (t.core core).c.pos.phase = .runEnd ∧ (t.core core).sent = false)
        ∧ ((s.core core).atSyzy = false → (t.core core).synced = true ∧ (t.core core).c.pos = (s.core core).c.pos))
  /-- a post reaches its slot -/
  | mail {core id : Nat} {p : Post} : s.ev = .mailArrival core id → (s.core core).posts.find? (fun p => p.id == id) = some p →
      p.owner ≠ core → (s.core p.owner).mail = [] →
      OrbitEventRow s .mailArrival (fun t => sameMem s t ∧ (t.core p.owner).mail = [p.mail]
        ∧ (t.core p.owner).s = (s.core p.owner).s ∧ due t (s.now + s.mailTime core p.owner) (.mailAck core id))
  | mailGone {core id : Nat} : s.ev = .mailArrival core id → (s.core core).posts.find? (fun p => p.id == id) = none →
      OrbitEventRow s .mailArrival (fun t => t = s)
  | ack {core id : Nat} {p : Post} : s.ev = .mailAck core id → (s.core core).posts.find? (fun p => p.id == id) = some p → p.raised = none →
      OrbitEventRow s .mailAck (fun t => inCore s core t ∧ (∀ q ∈ (t.core core).posts, q.id ≠ id) ∧ (t.core core).s = (s.core core).s)
  | ackLate {core id c : Nat} {p : Post} : s.ev = .mailAck core id → (s.core core).posts.find? (fun p => p.id == id) = some p →
      p.raised = some c →
      OrbitEventRow s .mailAck (fun t => sameMem s t ∧ (∀ q ∈ (t.core core).posts, q.id ≠ id)
        ∧ (t.core core).sysReg 0x51 = (s.core core).sysReg 0x51 + BitVec.ofNat 64 (s.now - c))
  | early {core id : Nat} {p : Post} : s.ev = .mailLate core id → (s.core core).posts.find? (fun p => p.id == id) = some p →
      s.sc core + 17 < p.mail.due →
      OrbitEventRow s .mailLate (fun t => t = s.after (p.mail.due - 17 - s.sc core) s.ev)
  | late {core id : Nat} {p : Post} : s.ev = .mailLate core id → (s.core core).posts = [p] → p.id = id → p.mail.due ≤ s.sc core + 17 →
      p.raised = none → bitOf ((s.core core).sysReg 0x50).toNat 0 = false →
      OrbitEventRow s .mailLate (fun t => sameMem s t ∧ (t.core core).posts = [{ p with raised := some s.now }])
  /-- with SBMODE 1 the core traps before its next run -/
  | lateTraps {core id : Nat} {p : Post} : s.ev = .mailLate core id → (s.core core).posts.find? (fun p => p.id == id) = some p →
      p.mail.due ≤ s.sc core + 17 → p.raised = none → bitOf ((s.core core).sysReg 0x50).toNat 0 = true →
      (s.core core).atRunStart = true → (s.core core).before = [] → (s.core core).traps = [] →
      OrbitEventRow s .mailLate (fun t => sameMem s t
        ∧ ⟨0, 0, 0, .scoreboardLate, (s.core core).c.pos.blk, p.owner * 64 + p.mail.slot, 0⟩ ∈ (t.core core).traps)

/-- Launch units, overlays, contexts (14 R302, R306 to R308, R311, R312; 16 R347, R348). -/
inductive LaunchEventRow (s : State) : Instr → (State → Prop) → Prop
  /-- a record becomes STARTED on its cores -/
  | start {r alb : Nat} {plan : List (Nat × Nat × Nat)} {ovs : List (Overlay × P1)} : s.ev = .recordStart r →
      (s.die (recDie r)).arms.any (fun a => a.r == r && a.ready.isSome) = true → s.startPlan r = some (plan, alb) →
      plan.mapM (fun x => s.ovlCheck x.1 false [] ⟨[], [], 0, false⟩ (recOvl (s.rcd r).img)) = .ok ovs → plan.length = 1 →
      LaunchEventRow s .recordStart (fun t => recState (t.rcd r).img = 3 ∧ (∀ a ∈ (t.die (recDie r)).arms, a.r ≠ r)
        ∧ ∀ x ∈ plan, (t.core x.1).mode = .loading ∧ (t.core x.1).lr = some r ∧ (t.core x.1).s = startRegs (s.rcd r).img r 0
          ∧ (t.core x.1).sysReg 0x60 = BitVec.ofNat 64 x.2.1 ∧ (t.core x.1).sysReg 0x61 = BitVec.ofNat 64 x.2.2)
  /-- an overlay that does not pass its checks makes the record FAULTED; no context runs -/
  | startFails {r alb i0 i1 : Nat} {p : P1} {plan : List (Nat × Nat × Nat)} {cause : Cause} : s.ev = .recordStart r →
      (s.die (recDie r)).arms.any (fun a => a.r == r && a.ready.isSome) = true → s.startPlan r = some (plan, alb) →
      plan.mapM (fun x => s.ovlCheck x.1 false [] ⟨[], [], 0, false⟩ (recOvl (s.rcd r).img)) = .error ((cause, i0, i1), p) →
      LaunchEventRow s .recordStart (fun t => sameMem s t ∧ recState (t.rcd r).img = 5 ∧ (∀ a ∈ (t.die (recDie r)).arms, a.r ≠ r)
        ∧ t.cores = s.cores)
  /-- START has come and the predecessors are DONE -/
  | timed {r : Nat} : s.ev = .startTimeReached r → (s.die (recDie r)).arms.any (fun a => a.r == r && s.timeReached a) = true →
      s.predsDone (s.rcd r).img = true →
      LaunchEventRow s .startTimeReached (fun t => sameMem s t ∧ t.cores = s.cores
        ∧ ∀ a ∈ (t.die (recDie r)).arms, a.r = r → a.ready = some s.now)
  /-- or are not: FAULTED with PRED_UNFINISHED -/
  | timedFails {r : Nat} : s.ev = .startTimeReached r → (s.die (recDie r)).arms.any (fun a => a.r == r && s.timeReached a) = true →
      s.predsDone (s.rcd r).img = false →
      LaunchEventRow s .startTimeReached (fun t => sameMem s t ∧ recState (t.rcd r).img = 5 ∧ ∀ a ∈ (t.die (recDie r)).arms, a.r ≠ r)
  | age {r k : Nat} {a : Arm} : s.ev = .priorityAge r → (s.die (recDie r)).arms = [a] → a.r = r → a.ready = some k →
      s.now = k + (a.age + 1) * 2 ^ 20 →
      LaunchEventRow s .priorityAge (fun t => sameMem s t ∧ t.cores = s.cores
        ∧ (t.die (recDie r)).arms = [{ a with age := a.age + 1 }])
  | child {k r : Nat} {rest : List Nat} : s.ev = .childQueueMove k → (s.die k).childq = r :: rest → 0 < s.armsLeft k →
      LaunchEventRow s .childQueueMove (fun t => sameMem s t ∧ t.cores = s.cores ∧ (t.die k).childq = rest
        ∧ (t.die k).arms = (s.die k).arms ++ [⟨r, s.now, none, 0, []⟩])
  | childWaits {k : Nat} : s.ev = .childQueueMove k → s.armsLeft k = 0 →
      LaunchEventRow s .childQueueMove (fun t => t = s)
  /-- the streams enter the code that has arrived -/
  | loaded {core : Nat} {o : Overlay} : s.ev = .overlayLoadDone core → (s.core core).mode = .loading → (s.core core).load = some o →
      (s.core core).frame = none → (s.core core).c.pos.exit ≠ some .rft → (s.core core).before = [] → (s.core core).inHandler = false →
      s.ovlEcc o = false →
      LaunchEventRow s .overlayLoadDone (fun t => sameMem s t ∧ (t.core core).mode = .running ∧ (t.core core).c.pos.phase = .header
        ∧ (t.core core).c.pos.pc = 0 ∧ (t.core core).c.stack = [] ∧ (t.core core).sysReg 6 = BitVec.ofNat 64 o.va
        ∧ (t.core core).trailer = o.trailer ∧ (t.core core).s = (s.core core).s
        ∧ ∀ k, k < o.clen → (Map.get 0 (t.core core).imemC k).toNat
            = (s.ovlByte o (64 + 2 * k)).toNat + 256 * (s.ovlByte o (64 + 2 * k + 1)).toNat)
  /-- what was loaded holds an uncorrectable error: a trap as the code is entered -/
  | loadedBad {core : Nat} {o : Overlay} : s.ev = .overlayLoadDone core → (s.core core).mode = .loading → (s.core core).load = some o →
      (s.core core).frame = none → (s.core core).c.pos.exit ≠ some .rft → s.ovlEcc o = true →
      LaunchEventRow s .overlayLoadDone (fun t => sameMem s t ∧ (t.core core).mode = .running ∧ (t.core core).c.pos.phase = .header
        ∧ (t.core core).c.pos.pc = 0 ∧ (t.core core).s = (s.core core).s ∧ ⟨0, 0, 0, .eccDram, 0, 0, 0⟩ ∈ (t.core core).traps)
  /-- in the handler's own code it is a double trap -/
  | handlerBad {core : Nat} {o : Overlay} {f : Saved} : s.ev = .overlayLoadDone core → (s.core core).mode = .loading →
      (s.core core).load = some o → (s.core core).frame = some f → (s.core core).inHandler = false → s.ovlEcc o = true →
      LaunchEventRow s .overlayLoadDone (fun t => t.dram = s.dram ∧ t.scratch = s.scratch ∧ (t.core core).mode = .held
        ∧ (t.core core).sysReg 0 = BitVec.ofNat 64 (Cause.code .doubleTrap) ∧ (t.core core).sysReg 3 = 0
        ∧ (t.core core).sysReg 4 = BitVec.ofNat 64 (Cause.code .eccDram) ∧ (t.core core).frame = some f)
  /-- the handler's first block runs at SUPERVISOR with its registers 0 -/
  | handler {core : Nat} {o : Overlay} {f : Saved} : s.ev = .overlayLoadDone core → (s.core core).mode = .loading →
      (s.core core).load = some o → (s.core core).frame = some f → (s.core core).inHandler = false → s.ovlEcc o = false →
      LaunchEventRow s .overlayLoadDone (fun t => sameMem s t ∧ (t.core core).mode = .running ∧ (t.core core).c.pos.phase = .header
        ∧ (t.core core).c.pos.pc = 0 ∧ (t.core core).sup = true ∧ (t.core core).inHandler = true ∧ (t.core core).frame = some f
        ∧ (∀ r, (t.core core).getS r = 0) ∧ (t.core core).xr.sealAcc = (s.core core).xr.sealAcc)
  /-- the return from a handler: TASK privilege, every register as the frame holds it -/
  | returned {core : Nat} {o : Overlay} {f : Saved} : s.ev = .overlayLoadDone core → (s.core core).mode = .loading →
      (s.core core).load = some o → (s.core core).frame = some f → (s.core core).inHandler = true →
      (s.core core).c.pos.exit = some .rft → (s.core core).pend = [] → (s.core core).before = [] → s.ovlEcc o = false →
      (∀ off acc, s.savePlace core off acc = none) → ((s.mx (tileOf core)).cmds = []) → ((s.cp (tileOf core)).cmds = []) →
      LaunchEventRow s .overlayLoadDone (fun t => sameMem s t ∧ (t.core core).mode = .running ∧ (t.core core).frame = none
        ∧ (t.core core).sup = false ∧ (t.core core).inHandler = false ∧ (t.core core).s = f.s ∧ (t.core core).a = f.a
        ∧ (t.core core).xr = { f.xr with sealAcc := (s.core core).xr.sealAcc })
  /-- the task boundary of an exit to the next overlay, of `exit end`, of RFT -/
  | boundaryEnd {core : Nat} : s.ev = .taskBoundary core → (s.core core).mode = .running → (s.core core).c.pos.phase = .boundary →
      s.xIdle core = true → s.aIdle core = true → (s.core core).c.pos.exit = some .finish → (s.core core).posts = [] →
      s.trailerBusy core = false →
      LaunchEventRow s .taskBoundary (fun t => t = (s.flushStores core).at_ s.now (.contextEnd core))
  | boundaryNext {core va : Nat} {o : Overlay} : s.ev = .taskBoundary core → (s.core core).mode = .running →
      (s.core core).c.pos.phase = .boundary → s.xIdle core = true → s.aIdle core = true →
      (s.core core).c.pos.exit = some (.overlay va) → (s.core core).posts = [] → s.trailerBusy core = false → (s.core core).c.ovl = some o →
      LaunchEventRow s .taskBoundary (fun t => sameMem (s.flushStores core) t ∧ (t.core core).mode = .loading ∧ (t.core core).load = some o
        ∧ (t.core core).s = (s.core core).s ∧ due t (s.now + o.time) (.overlayLoadDone core))
  | boundaryWaits {core : Nat} : s.ev = .taskBoundary core → (s.core core).mode = .running → (s.core core).c.pos.phase = .boundary →
      (s.xIdle core = false ∨ s.aIdle core = false) → LaunchEventRow s .taskBoundary (fun t => t = s)
  | ends {core : Nat} : s.ev = .contextEnd core → (s.core core).mode = .running → (s.core core).c.pos.phase = .boundary →
      (s.core core).c.pos.exit = some .finish → (s.core core).lr = none → (s.mx (tileOf core)).runs = [] → (s.mx (tileOf core)).owner = none →
      LaunchEventRow s .contextEnd (fun t => t.dram = s.dram ∧ t.scratch = s.scratch ∧ (t.core core).mode = .ended
        ∧ (t.core core).c.pos.phase = .idle ∧ (t.core core).frame = none ∧ (t.core core).sc = (s.core core).sc
        ∧ due t s.now (.allotmentReturn core))
  | returns {core : Nat} : s.ev = .allotmentReturn core → (s.core core).mode = .ended → s.commandsOf core = false →
      LaunchEventRow s .allotmentReturn (fun t => sameMem s t ∧ (t.core core).mode = .free ∧ (t.core core).sc = (s.core core).sc)
  | returnsLater {core : Nat} : s.ev = .allotmentReturn core → (s.core core).mode = .ended → s.commandsOf core = true →
      LaunchEventRow s .allotmentReturn (fun t => t = s.after 1 s.ev)

/-- The order among traps of one cycle: the C, A and X streams, the matrix array, the copy channels (16 R343). -/
def trapOrder (q : TrapReq) : Nat := match q.src with | 1 => 3 | 2 => 4 + q.ch | _ => q.stream
/-- The first in that order, of several. -/
def takesFirst (qs : List TrapReq) (q : TrapReq) (others : List TrapReq) : Prop :=
  ∃ l r, qs = l ++ q :: r ∧ others = l ++ r ∧ (∀ u ∈ l, trapOrder q < trapOrder u) ∧ ∀ u ∈ r, trapOrder q ≤ trapOrder u

/-- Traps taken, watchdogs, breakpoints, pre-emption, saving and restoring (16 R341 to R343, R351 to R354; 19 R390). -/
inductive TrapEventRow (s : State) : Instr → (State → Prop) → Prop
  /-- the first of a cycle's traps is taken: the trap registers, the streams stop, a C run before phase 2 is rolled back; the others of the
  streams are dropped, those of the engines stay pending -/
  | taken {core : Nat} {q : TrapReq} {others : List TrapReq} : s.ev = .trapDelivery core → takesFirst (s.core core).traps q others →
      (s.core core).mode = .running → (s.core core).inHandler = false → (s.core core).frame = none → q.src = 0 → q.cause ≠ .watchdog → q.cause ≠ .hostKill →
      (s.core core).c.pos.phase = .words → (s.core core).c.undo = [] → (s.core core).q.wr ≠ [] →
      TrapEventRow s .trapDelivery (fun t => sameMem s t ∧ (t.core core).mode = .trapped ∧ (t.core core).traps = []
        ∧ (t.core core).pend = (s.core core).pend ++ others.filter (fun u => u.src ≠ 0)
        ∧ (t.core core).sysReg 0 = BitVec.ofNat 64 q.cause.code ∧ (t.core core).sysReg 1 = BitVec.ofNat 64 q.pc
        ∧ (t.core core).sysReg 2 = BitVec.ofNat 64 (q.stream % 4 + q.ch % 4 * 16) ∧ (t.core core).sysReg 3 = BitVec.ofNat 64 q.info0
        ∧ (t.core core).sysReg 4 = BitVec.ofNat 64 q.info1 ∧ (t.core core).s = (s.core core).c.s0 ∧ (t.core core).c.p = (s.core core).c.p0
        ∧ (t.core core).c.held = [] ∧ (t.core core).c.pos.phase = .header ∧ (t.core core).c.pos.pc = (s.core core).c.pos.blk
        ∧ (t.core core).c.pos.run = (s.core core).c.pos.run ∧ (t.core core).a = (s.core core).a
        ∧ (t.core core).xr.v = (s.core core).xr.v ∧ due t (s.now + 1) (.trapDelivery core))
  /-- the frame waits until everything that was issued has completed -/
  | waitsQuiet {core : Nat} : s.ev = .trapDelivery core → (s.core core).traps = [] → (s.core core).mode = .trapped →
      (s.core core).quiet = false → TrapEventRow s .trapDelivery (fun t => t = s.after 1 s.ev)
  /-- with no handler, or for causes that are always its own, the die management core takes the trap -/
  | toDmc {core : Nat} : s.ev = .trapDelivery core → (s.core core).traps = [] → (s.core core).mode = .trapped → (s.core core).quiet = true →
      s.hovl core = 0 → (∀ off, s.savePlace core off .write = none) →
      TrapEventRow s .trapDelivery (fun t => (t.core core).mode = .held ∧ (t.core core).frame = some (s.core core).saved
        ∧ (t.core core).sysReg 0 = (s.core core).sysReg 0 ∧ (t.core core).s = (s.core core).s)
  /-- a trap in the handler is a double trap -/
  | double {core : Nat} {q : TrapReq} : s.ev = .trapDelivery core → (s.core core).traps = [q] → (s.core core).mode = .running →
      (s.core core).inHandler = true → q.src = 0 → q.cause ≠ .watchdog → q.cause ≠ .hostKill →
      TrapEventRow s .trapDelivery (fun t => t.dram = s.dram ∧ t.scratch = s.scratch ∧ (t.core core).mode = .held
        ∧ (t.core core).sysReg 0 = BitVec.ofNat 64 (Cause.code .doubleTrap) ∧ (t.core core).sysReg 3 = 0
        ∧ (t.core core).sysReg 4 = BitVec.ofNat 64 q.cause.code ∧ (t.core core).frame = (s.core core).frame)
  | debug {core : Nat} : s.ev = .debugBreak ⟨core, .c⟩ → (s.core core).c.pos.pfx = none →
      TrapEventRow s .debugBreak (fun t => sameMem s t ∧ (t.core core).c.pos.brk = true ∧ (t.core core).s = (s.core core).s
        ∧ ⟨0, 0, 0, .debugBreak, (s.core core).c.pos.blk, 0, 0⟩ ∈ (t.core core).traps)
  | safept {core : Nat} : s.ev = .safeptLate core →
      TrapEventRow s .safeptLate (fun t => sameMem s t ∧ (t.core core).s = (s.core core).s
        ∧ ⟨0, 0, 0, .safeptLate, (s.core core).c.pos.blk, 0, 0⟩ ∈ (t.core core).traps)
  | watch {core : Nat} : s.ev = .watchdog core → (s.core core).mode = .running → ((s.core core).sysReg 0x0D).toNat ≤ s.wdcnt core →
      TrapEventRow s .watchdog (fun t => sameMem s t ∧ (t.core core).s = (s.core core).s
        ∧ ⟨0, 0, 0, .watchdog, (s.core core).c.pos.blk, 0, 0⟩ ∈ (t.core core).traps)
  | watchLater {core : Nat} : s.ev = .watchdog core → (s.core core).mode = .running → s.wdcnt core < ((s.core core).sysReg 0x0D).toNat →
      TrapEventRow s .watchdog (fun t => t = s.after (((s.core core).sysReg 0x0D).toNat - s.wdcnt core) s.ev)
  | watchFree {core : Nat} : s.ev = .watchdog core → (s.core core).mode = .free → TrapEventRow s .watchdog (fun t => t = s)
  | preempt {core r : Nat} : s.ev = .preemptRequest core → (s.core core).aligned = false → (s.core core).lr = some r →
      TrapEventRow s .preemptRequest (fun t => inCore s core t ∧ (t.core core).preempt = true ∧ (t.core core).s = (s.core core).s)
  | preemptFree {core : Nat} : s.ev = .preemptRequest core → (s.core core).aligned = false → (s.core core).lr = none →
      TrapEventRow s .preemptRequest (fun t => t = s)
  /-- a context at rest at its safe point is saved; its core is free -/
  | save {core : Nat} : s.ev = .orbitSave core → (s.core core).aligned = false → (s.core core).mode = .saving →
      (s.core core).quiet = true → (s.core core).cst = [] → s.enginesQuiet core = true → (∀ off, s.savePlace core off .write = none) →
      TrapEventRow s .orbitSave (fun t => (t.core core).mode = .free ∧ (t.core core).lr = none
        ∧ (∃ v ∈ t.saves, v.core = core ∧ v.img.lr = (s.core core).lr ∧ v.img.sh = (s.core core).sh ∧ v.img.batch = (s.core core).batch
            ∧ v.img.sysReg 0 = BitVec.ofNat 64 (Cause.code .preempt)
            ∧ (∀ r, v.img.getS r = if bitOf ((s.core core).c.safept.getD (false, 0)).2 0 then (s.core core).getS r else 0)
            ∧ (∀ r, v.img.getA r = if bitOf ((s.core core).c.safept.getD (false, 0)).2 1 then (s.core core).getA r else 0))
        ∧ (t.core core).sysReg 5 = (s.core core).sysReg 5)
  | saveWaits {core : Nat} : s.ev = .orbitSave core → (s.core core).aligned = false → (s.core core).mode = .saving →
      (s.core core).quiet = false → TrapEventRow s .orbitSave (fun t => t = s.after 1 s.ev)
  /-- a saved context goes on, on the core that saved it, when that is free -/
  | restoreWaits {core id : Nat} : s.ev = .contextRestore core id → (s.core core).mode ≠ .free →
      TrapEventRow s .contextRestore (fun t => t = s)
  | restore {core id : Nat} {v : Save} : s.ev = .contextRestore core id → s.saves = [v] → v.id = id → v.core = core →
      (s.core core).mode = .free → v.runs = [] → v.cmds = [] → v.ccmds = [] → v.img.pend = [] → v.img.before = [] → v.img.aligned = false →
      TrapEventRow s .contextRestore (fun t => t.saves = [] ∧ (t.core core).lr = v.img.lr
        ∧ ((t.core core).mode = .running ∧ (t.core core).sys = v.img.sys ∧ sameMem s t ∨ (t.core core).mode = .held))

/-- Memory controllers, translations, heartbeats, fences, suspect scores (12 R262, R271, R277, R279; 17 R358 to R373; 18 R378, R379). -/
inductive TileEventRow (s : State) : Instr → (State → Prop) → Prop
  /-- a write of a line of DRAM that is no home -/
  | line {r : LineReq} : s.ev = .lineAccess r → inDram r.dpa = true → s.kindOf r.dpa = 0 → s.fencedR.contains (columnOf r.dpa) = false →
      r.bytes ≠ [] → r.bytes.length ≤ 128 - r.dpa % 128 →
      TileEventRow s .lineAccess (fun t => storedSome s.dram t.dram r.dpa r.bytes ∧ t.scratch = s.scratch ∧ t.accum = s.accum ∧ t.cores = s.cores)
  /-- refused, or a read: nothing changes -/
  | lineRead {r : LineReq} : s.ev = .lineAccess r → (dpaPlace r.dpa).isSome = true → r.bytes = [] →
      TileEventRow s .lineAccess (fun t => t = s)
  /-- a unit of 32 KiB becomes a compressed home -/
  | home {unit kind : Nat} : s.ev = .homeCreate unit kind → inDram (unit * 0x8000) = true → s.kindOf (unit * 0x8000) = 0 →
      (s.die (dieOf (columnOf (unit * 0x8000)))).idxcnt ≠ 0 → kind = 1 ∨ kind = 2 →
      TileEventRow s .homeCreate (fun t => t.scratch = s.scratch ∧ t.accum = s.accum ∧ t.cores = s.cores
        ∧ Mem.num t.dram (sizeEntry s (unit * 0x8000)) 1 = kind
        ∧ ∀ l, l < 512 → (t.lineMeta (apertureOf (unit * 0x8000) / 128 + l)).enc = 1)
  | homeNever {unit kind : Nat} : s.ev = .homeCreate unit kind → inDram (unit * 0x8000) = false → TileEventRow s .homeCreate (fun t => t = s)
  | homeGone {unit : Nat} : s.ev = .homeRelease unit → inDram (unit * 0x8000) = true → s.kindOf (unit * 0x8000) ≠ 0 →
      TileEventRow s .homeRelease (fun t => t.scratch = s.scratch ∧ t.accum = s.accum ∧ t.cores = s.cores
        ∧ Mem.num t.dram (sizeEntry s (unit * 0x8000)) 1 = 0)
  /-- entries are dropped from the C TLB, from the stream TLBs of the queues and of the tile's engines; GO waits for the data of loads under
  way -/
  | inval {k n : Nat} {c : Core} : s.ev = .tlbinvGo k → invGo (s.die k).tlbinv = true → s.cores = [(n, c)] →
      (s.tile (tileOf n)).space = field (s.die k).tlbinv 112 8 →
      TileEventRow s .tlbinvGo (fun t => sameMem s t ∧ (∀ e ∈ (t.core n).ctlb, invHits (s.die k).tlbinv e = false)
        ∧ (∀ x, x ∈ (t.core n).q.tlb.toList ++ (t.tile (tileOf n)).etlb.toList → ∀ e, x.cur = some e ∨ x.nxt = some e →
            invHits (s.die k).tlbinv e = false)
        ∧ (∀ l ∈ c.c.ready, l.2 ≤ (t.die k).invTill)
        ∧ (t.core n).s = c.s ∧ due t (s.now + 1) (.tlbinvComplete k))
  | invalDone {k : Nat} : s.ev = .tlbinvComplete k → invGo (s.die k).tlbinv = true → (s.die k).inval.all s.invDone = true →
      (s.die k).invTill ≤ s.now → (s.die k).tlbinv < 2 ^ 128 →
      TileEventRow s .tlbinvComplete (fun t => sameMem s t ∧ t.cores = s.cores ∧ invGo (t.die k).tlbinv = false)
  /-- a beat to each neighbour that is not fenced; SEQ counts -/
  | beat {k d u : Nat} : s.ev = .beatSend k → d < 4 → neighbour k d = some u → ((s.hb k).at_ d).fence ≠ 2 →
      TileEventRow s .beatSend (fun t => sameMem s t ∧ t.cores = s.cores ∧ (t.hb k).seqOut = ((s.hb k).seqOut + 1) % 2 ^ 16
        ∧ due t (s.now + 8) (.beatReceive u ((d + 2) % 4) (beatFlit (s.beatOf k))))
  | beatIn {k flit : Nat} {d : Fin 4} {b : Beat} : s.ev = .beatReceive k d.val flit → beatOfFlit flit = b → s.hbc % 4096 < 2048 → b.kind = 1 →
      (s.hb k).nbr[d].fence ≠ 2 → b.crcOk = true → beatAccOk b = true → neighbour k d.val = some b.tile →
      TileEventRow s .beatReceive (fun t => sameMem s t ∧ t.cores = s.cores ∧ (t.hb k).nbr[d].beats = (s.hb k).nbr[d].beats ++ [b])
  | vote {k d flit : Nat} {b : Beat} : s.ev = .beatReceive k d flit → beatOfFlit flit = b → s.hbc % 4096 < 2048 → b.kind = 3 →
      ((s.hb k).at_ d).fence ≠ 2 → b.crcOk = true → beatAccOk b = true →
      TileEventRow s .beatReceive (fun t => sameMem s t ∧ t.cores = s.cores ∧ (t.hb k).votes = (s.hb k).votes ++ [b])
  /-- a malformed vote flit is dropped and accuses nobody -/
  | voteBad {k flit : Nat} {d : Fin 4} {b : Beat} : s.ev = .beatReceive k d.val flit → beatOfFlit flit = b → s.hbc % 4096 < 2048 → b.kind = 3 →
      (s.hb k).nbr[d].fence ≠ 2 → b.crcOk = false →
      TileEventRow s .beatReceive (fun t => sameMem s t ∧ t.cores = s.cores ∧ (t.hb k).votes = (s.hb k).votes
        ∧ (t.hb k).nbr[d].beats = (s.hb k).nbr[d].beats)
  /-- after the judge point a flit is discarded -/
  | beatLate {k flit : Nat} {d : Fin 4} : s.ev = .beatReceive k d.val flit → 2048 ≤ s.hbc % 4096 → (s.hb k).nbr[d].fence ≠ 2 →
      TileEventRow s .beatReceive (fun t => sameMem s t ∧ t.cores = s.cores ∧ (t.hb k).votes = (s.hb k).votes
        ∧ (t.hb k).nbr[d].beats = (s.hb k).nbr[d].beats ∧ (t.hb k).nbr[d].drops = (s.hb k).nbr[d].drops)
  /-- a closed port drops and counts what is no APPEAL -/
  | beatDropped {k flit : Nat} {d : Fin 4} : s.ev = .beatReceive k d.val flit → (s.hb k).nbr[d].fence = 2 → (beatOfFlit flit).kind ≠ 2 →
      TileEventRow s .beatReceive (fun t => sameMem s t ∧ t.cores = s.cores ∧ (t.hb k).votes = (s.hb k).votes
        ∧ (t.hb k).nbr[d].beats = (s.hb k).nbr[d].beats ∧ (t.hb k).nbr[d].drops = min 65535 ((s.hb k).nbr[d].drops + 1))
  /-- an epoch in which nobody is accused and nobody readmitted leaves the fences as they are -/
  | judge : (∀ k u, s.verdict (s.known k) u = 0 ∧ s.readmits (s.known k) u = false) →
      TileEventRow s .judgePoint (fun t => sameMem s t ∧ t.cores = s.cores
        ∧ (∀ k, k < 256 → t.fencedR.contains k = s.fencedR.contains k ∧ t.fencedC.contains k = (s.fencedC.contains k && !s.fencedR.contains k)
            ∧ (t.hb k).votes = []))
  /-- a neighbour that a quorum accuses at router level is fenced at router level, by a neighbour that is not eclipsed -/
  | fence {k d u : Nat} : k < 256 → d < 4 → neighbour k d = some u → s.fencedR.contains k = false → s.fencedC.contains k = false →
      s.verdict (s.known k) u = 2 → (∀ j, s.verdict (s.known j) j = 0) → (∀ j v, s.readmits (s.known j) v = false) →
      (∀ e ∈ s.cores, e.2.c.air = [] ∧ e.2.q.air = []) →
      TileEventRow s .judgePoint (fun t => sameMem s t ∧ t.cores = s.cores ∧ t.fencedR.contains u = true)
  /-- a load of a core from the column of a tile that comes to be fenced at router level faults at the next word of its stream -/
  | fenceCuts {k d u n till : Nat} {c : Core} : k < 256 → d < 4 → neighbour k d = some u → s.fencedR.contains k = false →
      s.fencedC.contains k = false → s.fencedR.contains u = false →
      s.verdict (s.known k) u = 2 → (∀ j, s.verdict (s.known j) j = 0) → (∀ j v, s.readmits (s.known j) v = false) →
      s.cores = [(n, c)] → c.c.air = [(u, till)] → s.now < till → c.q.air = [] →
      TileEventRow s .judgePoint (fun t => sameMem s t ∧ t.fencedR.contains u = true ∧ (t.core n).s = c.s
        ∧ ⟨0, 0, 0, .destEclipsed, c.c.pos.blk, 0, 0⟩ ∈ (t.core n).traps)
  | notice {die k lev epoch : Nat} : s.ev = .fenceNotice die k lev epoch →
      (∃ d, d < 4 ∧ Notice.fence k lev epoch ∈ (s.die d).notices) →
      TileEventRow s .fenceNotice (fun t => sameMem s t ∧ t.cores = s.cores
        ∧ (t.die die).notices = (s.die die).notices ++ [.fence k lev epoch])
  /-- a fenced port drops and counts -/
  | flitDropped {f : Flit} {d : Fin 4} : s.ev = .fabricFlitArrival f → f.dir = d.val → f.wellFormed = true → f.sender = none →
      (s.hb f.at_).nbr[d].fence = 2 →
      TileEventRow s .fabricFlitArrival (fun t => sameMem s t ∧ t.cores = s.cores
        ∧ (t.hb f.at_).nbr[d].drops = min 65535 ((s.hb f.at_).nbr[d].drops + 1))
  /-- a request of a core to a tile fenced at router level is returned: its run is refused -/
  | flitReturned {f : Flit} {core : Nat} : s.ev = .fabricFlitArrival f → f.sender = some (.run core) → s.fencedR.contains f.dest = true →
      (s.core core).c.pos.phase = .commit1 →
      TileEventRow s .fabricFlitArrival (fun t => sameMem s t
        ∧ ⟨0, 0, 0, .destEclipsed, (s.core core).c.pos.blk, 0, 0⟩ ∈ (t.core core).traps)
  | selfTest {k sig : Nat} : s.ev = .selfTestDone k sig → (s.hb k).self ≠ 0 → (s.hb k).appeals < 3 →
      TileEventRow s .selfTestDone (fun t => sameMem s t ∧ t.cores = s.cores ∧ (t.hb k).appeals = (s.hb k).appeals + 1
        ∧ (t.hb k).appealing = true ∧ (t.hb k).sigOut = sig % 2 ^ 64)
  /-- a fourth self-test ends the appeals -/
  | selfTestSpent {k sig : Nat} : s.ev = .selfTestDone k sig → (s.hb k).self ≠ 0 → 3 ≤ (s.hb k).appeals →
      TileEventRow s .selfTestDone (fun t => sameMem s t ∧ t.cores = s.cores ∧ (t.hb k).appeals = (s.hb k).appeals
        ∧ (t.hb k).appealing = false)
  | selfTestNone {k sig : Nat} : s.ev = .selfTestDone k sig → (s.hb k).self = 0 → TileEventRow s .selfTestDone (fun t => t = s)
  /-- scores rise and saturate; a unit at the threshold is quarantined -/
  | score {k inc : Nat} {u : Fin 6} : s.ev = .suspctlInc k u.val inc →
      TileEventRow s .suspctlInc (fun t => sameMem s t ∧ t.cores = s.cores
        ∧ (t.tile k).susp.score[u] = min 255 ((s.tile k).susp.score[u] + inc % 256)
        ∧ (∀ v : Fin 6, v ≠ u → (t.tile k).susp.score[v] = (s.tile k).susp.score[v])
        ∧ ((s.tile k).susp.thresh ≤ min 255 ((s.tile k).susp.score[u] + inc % 256) → (t.tile k).susp.quar[u] = true)
        ∧ ((s.tile k).susp.quar[u] = true → (t.tile k).susp.quar[u] = true))
  | noUnit {k u inc : Nat} : s.ev = .suspctlInc k u inc → 6 ≤ u → TileEventRow s .suspctlInc (fun t => t = s)
  | clear {k : Nat} {u : Fin 6} : s.ev = .suspctlClrq k u.val →
      TileEventRow s .suspctlClrq (fun t => sameMem s t ∧ t.cores = s.cores ∧ (t.tile k).susp.score = (s.tile k).susp.score
        ∧ (t.tile k).susp.quar[u] = (if (s.tile k).susp.score[u] < (s.tile k).susp.thresh then false else (s.tile k).susp.quar[u])
        ∧ ∀ v : Fin 6, v ≠ u → (t.tile k).susp.quar[v] = (s.tile k).susp.quar[v])
  | threshold {k : Nat} {v : Word} : s.ev = .suspcfgWrite k v →
      TileEventRow s .suspcfgWrite (fun t => sameMem s t ∧ t.cores = s.cores ∧ (t.tile k).susp.score = (s.tile k).susp.score
        ∧ (t.tile k).susp.thresh = (if v.toNat % 256 = 0 then 1 else min 200 (v.toNat % 256)))
  | decay {k : Nat} {ti : Tile} : s.ev = .scoreDecay → s.tiles = [(k, ti)] →
      TileEventRow s .scoreDecay (fun t => sameMem s t ∧ t.cores = s.cores
        ∧ (∀ u : Fin 6, (t.tile k).susp.score[u] = ti.susp.score[u] - 1 ∧ (ti.susp.quar[u] = true → (t.tile k).susp.quar[u] = true))
        ∧ due t (s.now + 2 ^ 30) .scoreDecay)

/-- The host link, registers, work queues, span links, starts, power and the clock (00 R7; 12 R271; 17 R358; 19 R381 to R390). -/
inductive HostEventRow (s : State) : Instr → (State → Prop) → Prop
  /-- a read of bytes of one line of DRAM by the physical function -/
  | read {a n : Nat} : s.ev = .hostRequest ⟨.memory, 0, false, a, n, []⟩ → s.fromHost = [] → 0 < n → n ≤ 128 - a % 128 → inDram a = true → s.kindOf a = 0 →
      s.fencedR.contains (columnOf a) = false → s.pkg.go = false → s.pkg.safe = false →
      HostEventRow s .hostRequest (fun t => sameMem s t ∧ t.cores = s.cores ∧ t.toHost = s.toHost ++ [.data 0 (Mem.bytes s.dram a n)])
  | write {a : Nat} {bytes : List Byte} : s.ev = .hostRequest ⟨.memory, 0, true, a, 0, bytes⟩ → s.fromHost = [] → bytes ≠ [] → bytes.length ≤ 128 - a % 128 →
      inDram a = true → s.kindOf a = 0 → s.fencedR.contains (columnOf a) = false → s.pkg.go = false → s.pkg.safe = false →
      HostEventRow s .hostRequest (fun t => stored s.dram t.dram a bytes ∧ t.scratch = s.scratch ∧ t.accum = s.accum ∧ t.cores = s.cores
        ∧ t.toHost = s.toHost ++ [.done 0] ∧ (t.lineMeta (a / 128)).gver = 0 ∧ (t.lineMeta (a / 128)).nova = true)
  /-- a compressed home reached by its DRAM address is refused and logged -/
  | abort {a n : Nat} : s.ev = .hostRequest ⟨.memory, 0, false, a, n, []⟩ → s.fromHost = [] → 0 < n → n ≤ 128 - a % 128 → inDram a = true → s.kindOf a ≠ 0 →
      s.fencedR.contains (columnOf a) = false → s.pkg.go = false → s.pkg.safe = false → s.pkg.hosterr = 0 →
      HostEventRow s .hostRequest (fun t => sameMem s t ∧ t.cores = s.cores ∧ t.toHost = s.toHost ++ [.abort 0]
        ∧ t.pkg.hosterr = 2 ^ 63 + 1 * 2 ^ 57 + a)
  /-- the package block: PKGID -/
  | register {v : Word} : s.ev = .hostRegisterWrite 0 (registerBase + 0x4_0000_0000) v → s.fromHost = [] →
      HostEventRow s .hostRegisterWrite (fun t => sameMem s t ∧ t.cores = s.cores ∧ t.pkg = { s.pkg with pkgid := field v.toNat 0 12 })
  /-- firmware's SAVEVA of a core -/
  | saveVa {core : Nat} {v : Word} : s.ev = .hostRegisterWrite 257 (2 ^ 48 + core * 2 ^ 12 + 8 * 5) v → core < 1024 →
      HostEventRow s .hostRegisterWrite (fun t => inCore s core t ∧ (t.core core).sysReg 5 = v ∧ (t.core core).s = (s.core core).s)
  | submit {fn q v : Nat} : s.ev = .workQueueSubmit fn q v →
      HostEventRow s .workQueueSubmit (fun t => sameMem s t ∧ t.cores = s.cores ∧ t.wq q = { s.wq q with sub := v % 2 ^ 32 }
        ∧ due t s.now (.workQueueEntryArm q))
  /-- an entry arms its record -/
  | arm {q e : Nat} : s.ev = .workQueueEntryArm q → (s.wq q).stop = false → (s.wq q).cons ≠ (s.wq q).sub → 4 ≤ (s.wq q).log → (s.wq q).log ≤ 16 →
      s.ringEntry (s.wq q) (s.wq q).cons = .ok e → ((s.wq q).sub + 2 ^ 32 - (s.wq q).cons) % 2 ^ 32 ≤ 2 ^ (s.wq q).log →
      s.recTurn (field e 0 14) q = true → s.entryRefusal q e = none →
      HostEventRow s .workQueueEntryArm (fun t => sameMem s t ∧ t.cores = s.cores
        ∧ t.wq q = { s.wq q with cons := ((s.wq q).cons + 1) % 2 ^ 32 }
        ∧ recState (t.rcd (field e 0 14)).img = 2 ∧ (t.rcd (field e 0 14)).wq = some q
        ∧ (t.die (recDie (field e 0 14))).arms = (s.die (recDie (field e 0 14))).arms ++ [⟨field e 0 14, s.now, none, 0, []⟩]
        ∧ due t (s.now + 1) (.workQueueEntryArm q))
  /-- a refused entry stops the queue -/
  | stops {q e : Nat} {c : Cause} : s.ev = .workQueueEntryArm q → (s.wq q).stop = false → (s.wq q).cons ≠ (s.wq q).sub → 4 ≤ (s.wq q).log →
      (s.wq q).log ≤ 16 → s.ringEntry (s.wq q) (s.wq q).cons = .ok e →
      ((s.wq q).sub + 2 ^ 32 - (s.wq q).cons) % 2 ^ 32 ≤ 2 ^ (s.wq q).log → s.recTurn (field e 0 14) q = true →
      s.entryRefusal q e = some c → c ≠ .launchPoolEmpty →
      HostEventRow s .workQueueEntryArm (fun t => sameMem s t ∧ t.cores = s.cores ∧ t.recs = s.recs
        ∧ t.wq q = { s.wq q with stop := true, cause := c.code, rcd := field e 0 14, cons := ((s.wq q).cons + 1) % 2 ^ 32 })
  /-- ownership is checked before the fill of the ring -/
  | foreign {q e : Nat} : s.ev = .workQueueEntryArm q → (s.wq q).stop = false → (s.wq q).cons ≠ (s.wq q).sub → 4 ≤ (s.wq q).log →
      (s.wq q).log ≤ 16 → s.ringEntry (s.wq q) (s.wq q).cons = .ok e → s.entryForeign q (field e 0 14) = true →
      HostEventRow s .workQueueEntryArm (fun t => sameMem s t ∧ t.cores = s.cores ∧ t.recs = s.recs
        ∧ t.wq q = { s.wq q with stop := true, cause := Cause.code .privilege, rcd := field e 0 14,
                                 cons := ((s.wq q).cons + 1) % 2 ^ 32 })
  /-- an entry waits for its turn at its record -/
  | entryWaits {q e : Nat} : s.ev = .workQueueEntryArm q → (s.wq q).stop = false → (s.wq q).cons ≠ (s.wq q).sub → 4 ≤ (s.wq q).log →
      (s.wq q).log ≤ 16 → s.ringEntry (s.wq q) (s.wq q).cons = .ok e → s.entryForeign q (field e 0 14) = false →
      ((s.wq q).sub + 2 ^ 32 - (s.wq q).cons) % 2 ^ 32 ≤ 2 ^ (s.wq q).log → s.recTurn (field e 0 14) q = false →
      HostEventRow s .workQueueEntryArm (fun t => sameMem s t ∧ t.cores = s.cores ∧ t.recs = s.recs ∧ t.wq q = s.wq q
        ∧ due t (s.now + 1) (.workQueueEntryArm q))
  /-- firmware rolls back no record of which a context has had EFFECT set -/
  | noRollback {r : Nat} {v : Word} : s.ev = .hostRegisterWrite 257 (registerBase + 0x3_0000_0000 + 256 * r) v → r < 16384 →
      s.recTurn r 1025 = true → recState (s.rcd r).img = 5 → (s.rcd r).effect = true →
      HostEventRow s .hostRegisterWrite (fun t => sameMem s t ∧ t.cores = s.cores ∧ recState (t.rcd r).img = 5 ∧ t.wqs = s.wqs)
  /-- the host arms a record that has finished -/
  | hostArms {r : Nat} {v : Word} : s.ev = .hostRegisterWrite 0 (registerBase + 0x3_0000_0000 + 256 * r) v → r < 16384 → s.fromHost = [] →
      s.pkg.go = false → s.pkg.safe = false → s.recTurn r 1024 = true → recState (s.rcd r).img = 4 → field v.toNat 0 3 = 2 →
      HostEventRow s .hostRegisterWrite (fun t => sameMem s t ∧ t.cores = s.cores ∧ recState (t.rcd r).img = 2
        ∧ (t.rcd r).wq = none ∧ (t.rcd r).effect = false
        ∧ (t.die (recDie r)).arms = (s.die (recDie r)).arms ++ [⟨r, s.now, none, 0, []⟩])
  | empty {q : Nat} : s.ev = .workQueueEntryArm q → (s.wq q).stop = true ∨ (s.wq q).cons = (s.wq q).sub →
      HostEventRow s .workQueueEntryArm (fun t => t = s)
  | resume {q : Nat} : s.ev = .workQueueResume q →
      HostEventRow s .workQueueResume (fun t => sameMem s t ∧ t.cores = s.cores ∧ t.wq q = { s.wq q with stop := false }
        ∧ due t s.now (.workQueueEntryArm q))
  | vector {q : Nat} : s.ev = .msixHoldoffEnd q → (s.wq q).hold ≤ s.now → (s.wq q).owed = true →
      HostEventRow s .msixHoldoffEnd (fun t => sameMem s t ∧ t.cores = s.cores
        ∧ t.wq q = { s.wq q with hold := s.now + 4096, owed := false }
        ∧ t.toHost = s.toHost ++ [.msix (s.pkg.queueVector q).1 (s.pkg.queueVector q).2] ∧ due t (s.now + 4096) s.ev)
  | noVector {q : Nat} : s.ev = .msixHoldoffEnd q → (s.wq q).owed = false → HostEventRow s .msixHoldoffEnd (fun t => t = s)
  /-- a span flit that arrives damaged does nothing; an integer addition is performed; a write reaches its line -/
  | badFlit {f : SpanFlit} : s.ev = .spanFlitReceive f → f.crcOk = false → HostEventRow s .spanFlitReceive (fun t => t = s)
  | addFlit {f : SpanFlit} {off v : Nat} : s.ev = .spanFlitReceive f → f.crcOk = true → f.flag = none → f.add = some (false, off, v) →
      s.routerFenced (accTile off) = false →
      HostEventRow s .spanFlitReceive (fun t => t.cores = s.cores ∧ t.dram = s.dram ∧ t.scratch = s.scratch
        ∧ t.accum.num off 4 = (s.accum.num off 4 + v) % 2 ^ 32
        ∧ ∀ a, a < off ∨ off + 4 ≤ a → Mem.byte t.accum a = Mem.byte s.accum a)
  /-- the setting of a CPYR's flag word -/
  | flagFlit {f : SpanFlit} {off : Nat} : s.ev = .spanFlitReceive f → f.crcOk = true → f.flag = some off → s.routerFenced (accTile off) = false →
      HostEventRow s .spanFlitReceive (fun t => t.cores = s.cores ∧ t.dram = s.dram ∧ t.scratch = s.scratch
        ∧ bitOf (t.accum.num off 4) 0 = true ∧ (∀ k, k ≠ 0 → bitOf (t.accum.num off 4) k = bitOf (s.accum.num off 4) k)
        ∧ ∀ a, a < off ∨ off + 4 ≤ a → Mem.byte t.accum a = Mem.byte s.accum a)
  | writeFlit {f : SpanFlit} : s.ev = .spanFlitReceive f → f.crcOk = true → f.flag = none → f.add = none → inDram f.dpa = true → s.kindOf f.dpa = 0 →
      s.fencedR.contains (columnOf f.dpa) = false → f.bytes ≠ [] → f.bytes.length ≤ 128 - f.dpa % 128 →
      HostEventRow s .spanFlitReceive (fun t => stored s.dram t.dram f.dpa f.bytes ∧ t.scratch = s.scratch ∧ t.accum = s.accum
        ∧ t.cores = s.cores ∧ (t.lineMeta (f.dpa / 128)).gver = BitVec.ofNat 16 f.gver)
  | link {l : Nat} {up : Bool} : s.ev = .spanLinkState l up → l < 32 →
      HostEventRow s .spanLinkState (fun t => sameMem s t ∧ t.cores = s.cores ∧ bitOf t.pkg.spanstat l = up
        ∧ ∀ k, k ≠ l → bitOf t.pkg.spanstat k = bitOf s.pkg.spanstat k)
  | power : s.ev = .powerOn →
      HostEventRow s .powerOn (fun t => t.cores = [] ∧ t.tiles = [] ∧ t.scratch = [] ∧ t.accum = [] ∧ t.recs = [] ∧ t.now = 0
        ∧ (∀ a, inDram a = true → Mem.byte t.dram a = 0) ∧ t.pkg = { Package.fresh with go := true })
  /-- a cold start clears DRAM; the power cap, the clock and the count of failed starts stay -/
  | cold : s.ev = .coldStart →
      HostEventRow s .coldStart (fun t => t.cores = [] ∧ t.scratch = [] ∧ t.accum = [] ∧ t.recs = [] ∧ t.now = 0
        ∧ (∀ a, Mem.byte t.dram a = if inDram a then 0 else Mem.byte s.dram a) ∧ t.pkg.go = true ∧ t.pkg.pwrcap = s.pkg.pwrcap
        ∧ t.pkg.fails = s.pkg.fails)
  /-- a warm start with KEEP keeps DRAM and the records -/
  | warm : s.ev = .warmStart → s.pkg.fails < 3 → s.pkg.keep = true →
      HostEventRow s .warmStart (fun t => t.cores = [] ∧ t.scratch = [] ∧ t.accum = [] ∧ t.dram = s.dram ∧ t.lines = s.lines ∧ t.now = 0
        ∧ t.pkg.go = true ∧ ∀ r, (t.rcd r).img = (s.rcd r).img)
  | ready : s.ev = .startComplete true → s.pkg.go = true →
      HostEventRow s .startComplete (fun t => sameMem s t ∧ t.cores = s.cores ∧ t.pkg = { s.pkg with go := false, fails := 0, safe := false }
        ∧ t.hbc0 = some s.now ∧ due t s.now (.beatSend 0) ∧ due t s.now .scoreDecay)
  | failed : s.ev = .startComplete false → s.pkg.go = true →
      HostEventRow s .startComplete (fun t => sameMem s t ∧ t.cores = s.cores
        ∧ t.pkg = { s.pkg with go := false, fails := min 3 (s.pkg.fails + 1), safe := decide (s.pkg.fails = 3) })
  | noStart {ok : Bool} : s.ev = .startComplete ok → s.pkg.go = false → HostEventRow s .startComplete (fun t => t = s)
  | cap {v : Nat} : s.ev = .pwrcapWrite v →
      HostEventRow s .pwrcapWrite (fun t => sameMem s t ∧ t.cores = s.cores
        ∧ t.pkg = { s.pkg with pwrcap := if 1200 ≤ v ∧ v ≤ 2900 then v else 2900 })
  | clock {up : Bool} : s.ev = .arithmeticClockStep up →
      HostEventRow s .arithmeticClockStep (fun t => sameMem s t ∧ t.cores = s.cores ∧ t.now = s.now
        ∧ t.pkg = { s.pkg with clock := if up then min 850 (s.pkg.clock + 25) else max 425 (s.pkg.clock - 25) })

/-! Words and their streams; steps (03 R44, R56 to R63; 05 R92, R96). -/

/-- The streams in which a word of the instruction is an instruction (03 R56 to R63). -/
def streamsOf (i : Instr) : List Stream :=
  match i with
  | .nop16 | .blockHeader .. | .pfx .. => [.c, .a, .x]
  | .aaddiShort .. | .aliShort .. | .ldqShort .. | .stqShort .. | .exitAShort .. | .bqputAShort .. | .tagwallShort ..
  | .aadd .. | .asub .. | .amul .. | .aand .. | .aor .. | .amin .. | .amax .. | .aaddi .. | .ashli .. | .ashri .. | .ali ..
  | .alui .. | .acmp .. | .acmpi .. | .ldq .. | .ldqs .. | .ldqb .. | .gathq .. | .stq .. | .stqs .. | .scatq .. | .cpy ..
  | .cpyg .. | .cpyr .. | .tailput .. | .tailget .. | .offload .. | .recall .. | .tagwany .. | .tagwall .. | .tagffr ..
  | .tagclr .. | .mma .. | .mmas .. | .mzero .. | .mcommit .. | .mwaitb .. | .mstat .. | .mdrain .. | .bqputA .. | .bqgetA ..
  | .exitA .. | .pgdist .. => [.a]
  | .pfxGuarded ..
  | .vmovShort .. | .xaddiShort .. | .exitXShort .. | .vadd .. | .vsub .. | .vmul .. | .vfma .. | .vfms .. | .vfnma ..
  | .vmin .. | .vmax .. | .vabs .. | .vneg .. | .viadd .. | .visub .. | .vimul .. | .vimulh .. | .vshl .. | .vshr .. | .vsra ..
  | .vand .. | .vor .. | .vxor .. | .vnot .. | .viabs .. | .vcmp .. | .vsel .. | .mand .. | .mor .. | .mxor .. | .mnot ..
  | .mpop .. | .mff .. | .mset .. | .vmov .. | .vmovl .. | .vbcast .. | .vli .. | .vimin .. | .vimax .. | .vcvt .. | .vqnt ..
  | .vdqnt .. | .qscale .. | .qflt .. | .qfix .. | .revadd .. | .revsub .. | .sealclr .. | .sealget .. | .vexp2 .. | .vlog2 ..
  | .vrcp .. | .vrsqrt .. | .vtanh .. | .vrnd .. | .vredsum .. | .vredmax .. | .vredmin .. | .vredarg .. | .vscan ..
  | .vsortk .. | .vperm .. | .vslide .. | .acld .. | .acst .. | .acsta .. | .xli .. | .xaddi .. | .xlane .. | .bqputX ..
  | .bqgetX .. | .exitX .. | .katchk .. => [.x]
  | _ => [.c]

/-- A stream stands at a word that it may issue: its core runs, its orbit is not stopped, no trap of the core waits for delivery, no
breakpoint is at the word, the C stream does not wait for an orbit's safe point, and no merge of the A or X stream waits for room at its
record's home (12 R270; 13 R288; 16 R342, R353; 19 R390). -/
def standsAtWord (s : State) (ag : Agent) : Prop :=
  (s.core ag.core).mode = .running ∧ ((s.core ag.core).pos ag.st).phase = .words ∧ (s.core ag.core).stopped = false
  ∧ (s.core ag.core).traps = [] ∧ (s.core ag.core).sent = false
  ∧ (ag.st = .a → s.mergeWaits ag.core .queue = false) ∧ (ag.st = .x → s.mergeWaits ag.core .vqnt = false)
  ∧ bitOf ((s.tile (tileOf ag.core)).brk.getD (ag.core % 4) 0) 63 = false

/-- The state in which the stream's word executes: it is that stream's turn, and the word's length is known. -/
def issuing (s : State) (ag : Agent) (i : Instr) : State :=
  let s : State := { s with turn := none, who := ag }
  s.setPos { s.pos with flen := lengthOf i, fwords := wordsOf i }

/-- The device physical addresses that 12 R262 reserves. -/
def reservedAddress (a : Nat) : Prop :=
  0x60_0000_0000 ≤ a ∧ a < 0x80_0000_0000 ∨ 0x140_0000_0000 ≤ a ∧ a < 0x4000_0000_0000

/-- The causes of the fates of an encoding (03 R64 to R66). -/
def fateIs : Fate → Cause
  | .blockHeader => .blockHeader | .illegalWord => .illegalWord | .reservedField => .reservedField | .queueDirection => .queueDirection
end Sys2Proof.Claims

open Sys2Proof Sys2Proof.Machine Sys2Proof.Claims

/-- Memory after a start lists nothing and is in its canonical form.
Rests on the model's reading of notes/assumptions/5.md. -/
def Obligations.ResetMemoryIsCanonical : Prop :=
  State.reset.memWf = true ∧ State.reset.dram = [] ∧ State.reset.scratch = [] ∧ State.reset.accum = [] ∧ State.reset.remote = []

/-- Every step that answers a next state keeps the canonical form of DRAM and host memory, other packages' memory, the scratchpads and
the accumulators. -/
def Obligations.StepsKeepMemoryCanonical : Prop :=
  ∀ (s t : State), s.memWf = true → step s = .next t → t.memWf = true

/-- Decoding the encoding of a well-formed instruction gives it back, in every stream that has it, with every operand at every value
that the encoding admits (03 R44 to R65). -/
def Obligations.DecodeOfEncode : Prop :=
  ∀ (i : Instr) (st : Stream), isWord i = true → WellFormed i → st ∈ streamsOf i → decode st (encode i) = .ok i

/-- Words that the spec writes out decode to the instructions they stand for (05 R107; 07 R147, R151, R154; 09 R189, R206; 10 R229,
R231; 14 R303, R309, R313, R317; 16 R350). -/
def Obligations.WordsOfTheSpecDecode : Prop :=
  decode .c [0xCA08, 0x0010] = .ok (.dispX p0 2 0 0x010) ∧ decode .a [0x2012] = .ok (.ldqShort 0 2 2)
  ∧ decode .a [0xA801, 0x17FE] = .ok (.ldq p0 1 2 0x7FE) ∧ decode .a [0xAE03, 0x1100] = .ok (.gathq p0 3 2 4)
  ∧ decode .a [0x3840] = .ok (.bqputAShort 0 1) ∧ decode .a [0xF600, 0x1800] = .ok (.pgdist p0 0 3)
  ∧ decode .c [0xEE00, 0x0001] = .ok (.unlease p0) ∧ decode .a [0xDE00, 0x0101] = .ok (.mwaitb p0 1)
  ∧ decode .c [0xD405, 0x31C0] = .ok (.bind p0 5 6 7) ∧ decode .c [0xD800, 0x2802] = .ok (.acq p0 5 .orbit)
  ∧ decode .c [0xDA00, 0x2801] = .ok (.rel p0 5 .tile) ∧ decode .c [0xEC0A, 0x0002] = .ok (.widf p0 10 1)
  ∧ decode .c [0xE000, 0x0000] = .ok .syzy ∧ decode .c [0xE204, 0x2828] = .ok (.post p0 4 5 40)
  ∧ decode .c [0xFA05, 0x005D] = .ok (.srd p0 5 0x5D) ∧ decode .c [0xFA00, 0x1C53] = .ok (.swr p0 3 0x53)
  ∧ decode .x [0xCE40, 0xA000] = .ok (.sealget 0 5)

/-- A step of a stream that stands at a word runs the instruction that the bytes at its program counter decode to: SEALOP by the CHK
bit of its source; a word that would take SPCNT past 16,384 traps SAFEPT_LATE in its place; bytes that are no instruction trap as
their fate says. At a block's place the bytes are its header, and nothing else may stand there (03 R44, R47, R65; 16 R351).
Rests on the model's reading of notes/assumptions/3.md, notes/assumptions/32.md. -/
def Obligations.StepRunsTheDecodedWord : Prop :=
  ∀ (s : State) (ag : Agent), s.turn = some ag → standsAtWord s ag →
    (∀ i j, decode ag.st ((s.core ag.core).halfwords ag.st ((s.core ag.core).pos ag.st).pc 6) = .ok i →
      j = (match i with
        | .swr g a idx => if idx = 0x5A then (if ((s.core ag.core).getS a).toNat.testBit 16 then .sealopCheck g a else .sealopPut g a) else i
        | i => i) →
      (∀ t, exec j (issuing s ag j) = .next t → ag.st = .c → ((t.core ag.core).sysReg 0x0B).toNat ≤ 16384) →
      step s = exec j (issuing s ag j))
    ∧ (∀ f, decode ag.st ((s.core ag.core).halfwords ag.st ((s.core ag.core).pos ag.st).pc 6) = .error f → ag.st = .c →
        (s.core ag.core).c.pos.pfx = none →
        ∃ t info, step s = .next t ∧ (t.core ag.core).traps
          = [⟨0, 0, 0, fateIs f, (s.core ag.core).c.pos.blk, (s.core ag.core).c.pos.pc, info⟩])

/-- A step of which an event is the first due in its cycle executes that event's row; while a stream keeps its turn, no event comes
between.
Rests on the model's reading of notes/assumptions/3.md. -/
def Obligations.StepRunsTheDueEvent : Prop :=
  ∀ (s : State) (k : Nat) (e : Event) (rest : List (Nat × Event)), s.turn = none → s.agenda = (k, e) :: rest → k ≤ 2 * s.now →
    step s = exec e.row { s with agenda := rest, ev := e }

/-- Every event completes in every state, but a line access to a device physical address that does not exist (12 R262).
Rests on the model's reading of notes/assumptions/11.md, notes/assumptions/30.md. -/
def Obligations.EventsComplete : Prop :=
  (∀ (s : State) (e : Event), (∀ r, e = .lineAccess r → ¬reservedAddress r.dpa) → ∃ t, exec e.row { s with ev := e } = .next t)
  ∧ ∀ (s : State) (r : LineReq), reservedAddress r.dpa → exec .lineAccess { s with ev := .lineAccess r } = .fault .noSuchAddress

/-- Division does not trap: DIV and DIVU by zero give all ones, REM and REMU by zero give the dividend; DIV of -2^63 by -1 gives -2^63
and REM gives 0 (06 R124). -/
def Obligations.DivisionHasNoTrap : Prop :=
  ∀ (s : State) (g : Guard) (d a b : Reg), cGo s g [a, b] →
    (∀ i, i ∈ [Instr.div g d a b, .divu g d a b, .rem g d a b, .remu g d a b] →
      ∃ t v, exec i s = .next t ∧ cDone s t (putR s.me.getS d v) (s.me.pred .c) s.me.c.held)
    ∧ (s.me.getS b = 0 →
      (∃ t, exec (.div g d a b) s = .next t ∧ cDone s t (putR s.me.getS d 0xFFFF_FFFF_FFFF_FFFF#64) (s.me.pred .c) s.me.c.held)
      ∧ (∃ t, exec (.divu g d a b) s = .next t ∧ cDone s t (putR s.me.getS d 0xFFFF_FFFF_FFFF_FFFF#64) (s.me.pred .c) s.me.c.held)
      ∧ (∃ t, exec (.rem g d a b) s = .next t ∧ cDone s t (putR s.me.getS d (s.me.getS a)) (s.me.pred .c) s.me.c.held)
      ∧ ∃ t, exec (.remu g d a b) s = .next t ∧ cDone s t (putR s.me.getS d (s.me.getS a)) (s.me.pred .c) s.me.c.held)
    ∧ (s.me.getS a = 0x8000_0000_0000_0000#64 → s.me.getS b = 0xFFFF_FFFF_FFFF_FFFF#64 →
      (∃ t, exec (.div g d a b) s = .next t ∧ cDone s t (putR s.me.getS d 0x8000_0000_0000_0000#64) (s.me.pred .c) s.me.c.held)
      ∧ ∃ t, exec (.rem g d a b) s = .next t ∧ cDone s t (putR s.me.getS d 0) (s.me.pred .c) s.me.c.held)

/-- WIDF is C major 0x36 in layout RI: the destination in [20:16], [15:3] zero, the level in [2:0]; levels 0 and 7 trap
RESERVED_FIELD. It writes the field of its level of the work identifier, 0 for a field of no width, and delivers in the next cycle
(14 R309). -/
def Obligations.WidfReadsItsField : Prop :=
  (∀ (g : Guard) (d : Reg) (m n : Nat), m < 2 ^ 13 → n < 8 →
    decode .c [0xEC00 + 32 * (b2n g.neg * 8 + g.p.val) + d.val, 8 * m + n]
      = if h : m = 0 ∧ 1 ≤ n ∧ n ≤ 6 then .ok (.widf g d ⟨n - 1, by omega⟩) else .error .reservedField)
  ∧ (∀ (s : State) (ag : Agent) (g : Guard) (d : Reg) (n : Nat) (rest : List Nat), n = 0 ∨ n = 7 →
      s.turn = some ag → standsAtWord s ag → ag.st = .c → (s.core ag.core).c.pos.pfx = none →
      (s.core ag.core).halfwords .c (s.core ag.core).c.pos.pc 6 = (0xEC00 + 32 * (b2n g.neg * 8 + g.p.val) + d.val) :: n :: rest →
      ∃ t info, step s = .next t ∧ (t.core ag.core).traps
        = [⟨0, 0, 0, .reservedField, (s.core ag.core).c.pos.blk, (s.core ag.core).c.pos.pc, info⟩])
  ∧ ∀ (s : State) (g : Guard) (d : Reg) (lev : Fin 6) (r off n : Nat) (v : Word), cGo s g [] → s.me.lr = some r →
      off = ((List.range lev.val).map (recWidw (s.rcd r).img)).sum → n = recWidw (s.rcd r).img lev.val →
      v = (if n = 0 then 0 else BitVec.ofNat 64 ((s.me.sysReg 9).toNat / 2 ^ off % 2 ^ n)) →
      ∃ t, exec (.widf g d lev) s = .next t ∧ cDone s t (putR s.me.getS d v) (s.me.pred .c) s.me.c.held
        ∧ busy t.me.c.ready (s.now + 1) [d] = false

/-- A cold or warm start makes every vote TRUSTED and lifts every fence, and HBSTAT keeps nothing but APPEALS; heartbeats begin from
HBC 0 when the start has completed (17 R374). -/
def Obligations.StartsResetHeartbeats : Prop :=
  (∀ (s : State) (i : Instr), (i = .coldStart ∧ s.ev = .coldStart ∨ i = .warmStart ∧ s.ev = .warmStart) →
    ∃ t, exec i s = .next t ∧ t.fencedC = [] ∧ t.fencedR = []
      ∧ ∀ k, (∀ d : Fin 4, (t.hb k).nbr[d].vote = 0 ∧ (t.hb k).nbr[d].fence = 0)
        ∧ (t.hb k).appeals = (s.hb k).appeals ∧ (t.hb k).stat = (s.hb k).appeals * 2 ^ 96)
  ∧ ∀ (s : State), s.ev = .startComplete true → s.pkg.go = true →
    ∃ t, exec .startComplete s = .next t ∧ t.hbc = 0 ∧ (2 * s.now, Event.beatSend 0) ∈ t.agenda

/-- After a start no core has a context, SC counts from 0, commit batches are FREE with MBSTAT 0x5555, thresholds, limits and the power
cap hold their reset values, and heartbeats begin (09 R206; 14 R312, R314; 16 R351, R357; 17 R362; 18 R379; 19 R386, R389).
PWRCAP and the arithmetic clock at their start values are the model's choice (notes/assumptions/6.md). -/
def Obligations.ResetValues : Prop :=
  (∀ n, (State.reset.core n).mode = .free ∧ (State.reset.core n).batch.stat = 0x5555 ∧ State.reset.sc n = 0
    ∧ (State.reset.core n).sysReg 0x0D = BitVec.ofNat 64 (2 ^ 28) ∧ (State.reset.core n).sysReg 0x64 = 16)
  ∧ (∀ k, (State.reset.hb k).missmax = 4 ∧ (State.reset.hb k).injcap = 0x2_0000 ∧ (State.reset.tile k).susp.thresh = 200
    ∧ (∀ u : Fin 6, (State.reset.tile k).susp.score[u] = 0 ∧ (State.reset.tile k).susp.quar[u] = false))
  ∧ State.reset.pkg.pwrcap = 2900 ∧ State.reset.pkg.clock = 850 ∧ State.reset.fencedC = [] ∧ State.reset.fencedR = []
  ∧ (0, Event.beatSend 0) ∈ State.reset.agenda
/-- C register, immediate and short words write their value to the destination (s0 discards it) and change nothing else
(06 R123 to R125; 03 R56). -/
def Obligations.CAluWritesItsValue : Prop :=
  ∀ (s : State) (i : Instr) (g : Guard) (srcs : List Reg) (d : Reg) (v : Word),
    CAluRow s.me i g srcs d v → cGo s g srcs →
    ∃ t, exec i s = .next t ∧ cDone s t (putR s.me.getS d v) (s.me.pred .c) s.me.c.held

/-- Compares and predicate words of the C and A streams write their value to the predicate (p0 discards it) and change nothing else
(06 R126, R127; 09 R206). -/
def Obligations.CompareWordsWriteTheirPredicate : Prop :=
  (∀ (s : State) (i : Instr) (g : Guard) (srcs : List Reg) (p : N8) (v : Bool),
    CPredRow s.me i g srcs p v → cGo s g srcs →
    ∃ t, exec i s = .next t ∧ cDone s t s.me.getS (putP (s.me.pred .c) p v) s.me.c.held)
  ∧
  (∀ (s : State) (i : Instr) (g : Guard) (srcs : List Reg) (p : N8) (v : Bool),
    APredRow s.me i g srcs p v → aGo s g srcs →
    ∃ t, exec i s = .next t ∧ aDone s t s.me.getA (putP (s.me.pred .a) p v))

/-- A register, immediate and short words write their value to the destination (a0 discards it) and change nothing else (06 R123,
R125; 03 R56). TAGFFR gives the lowest ready tag of its mask, 64 where there is none, and puts the merges of that tag's command before
the core's later releases (11 R243, R259; 13 R290). -/
def Obligations.AAluWritesItsValue : Prop :=
  (∀ (s : State) (i : Instr) (g : Guard) (srcs : List Reg) (d : Reg) (v : Word),
    AAluRow s.me i g srcs d v → aGo s g srcs →
    ∃ t, exec i s = .next t ∧ aDone s t (putR s.me.getA d v) (s.me.pred .a))
  ∧ ∀ (s : State) (g : Guard) (d m : Reg) (n : Nat), aGo s g [m] → n = trailingZeros (s.me.sysReg 0x5D &&& s.me.getA m) →
    ∃ t u, exec (.tagffr g d m) s = .next t ∧ mergesRaised s u s.who.core (copiesIn (1#64 <<< n))
      ∧ aDone u t (putR s.me.getA d (BitVec.ofNat 64 n)) (s.me.pred .a)

/-- Words that read counters, system registers, the seal accumulator or the work identifier write what they read and change nothing
else (14 R309, R314; 15 R326; 16 R350, R351). -/
def Obligations.CReadsOfTheMachine : Prop :=
  ∀ (s : State) (i : Instr) (g : Guard) (d : Reg) (v : Word),
    CReadRow s i g d v → cGo s g [] →
    ∃ t, exec i s = .next t ∧ cDone s t (putR s.me.getS d v) (s.me.pred .c) s.me.c.held

/-- NOP, DJOIN of idle streams and WAITSC of a reached value only retire; DJOIN puts the merges that it covers before the core's later
releases (05 R113; 13 R290; 14 R314; 16 R348). -/
def Obligations.CWordsThatOnlyRetire : Prop :=
  ∀ (s : State) (i : Instr) (g : Guard) (srcs : List Reg) (f : Merge → Nat),
    COnlyRetires s i g srcs f → cGo s g srcs →
    ∃ t u, exec i s = .next t ∧ mergesRaised s u s.who.core f ∧ cDone u t s.me.getS (s.me.pred .c) s.me.c.held

/-- SWR of a register of the stream's own, and of the supervisor's, stores the value with its reserved fields 0 at issue, keeps the old
value for a rollback, and changes nothing else: SEAL gives the seal accumulator, MPROG and CPYPROG take ABANDON alone, ORBITSET clears
ALIGNED, and the break of the orbit that it left waits for the run's commit (16 R350, R357; 05 R102; 09 R209; 11 R257; 14 R299, R316;
15 R325).
Rests on the model's reading of notes/assumptions/31.md. -/
def Obligations.SwrWritesAtIssue : Prop :=
  (∀ (s : State) (g : Guard) (a : Reg) (i : Fin 1024) (w : Word),
    SwrRow s.me i.val (s.me.getS a) w → cGo s g [a] →
    ∃ t, exec (.swr g a i) s = .next t ∧ onlyMe s t ∧ swrFrame s.me t.me i.val ∧ t.me.sysReg i.val = w
      ∧ t.me.c.undo = (i.val, s.me.sysReg i.val) :: s.me.c.undo)
  ∧ (∀ (s : State) (g : Guard) (a : Reg), cGo s g [a] → s.me.sup = true →
    ∃ t, exec (.swr g a 0x59) s = .next t ∧ onlyMe s t
      ∧ t.me = { s.me with xr := { s.me.xr with sealAcc := s.me.getS a }, sys := t.me.sys,
                           c := { s.me.c with pos := t.me.c.pos, undo := (0x59, s.me.xr.sealAcc) :: s.me.c.undo } }
      ∧ t.me.sysReg 0x0B = s.me.sysReg 0x0B + 1 ∧ ∀ j, j ≠ 0x0B → t.me.sysReg j = s.me.sysReg j)
  ∧ ∀ (s : State) (g : Guard) (a : Reg), cGo s g [a] → s.me.sup = true →
    ∃ t, exec (.swr g a 0x63) s = .next t ∧ onlyMe s t
      ∧ t.me = { s.me with sys := t.me.sys,
                           c := { s.me.c with pos := t.me.c.pos, undo := (0x63, s.me.sysReg 0x63) :: s.me.c.undo,
                                              held := s.me.c.held ++ [.unalign (s.me.sysReg 0x63)] } }
      ∧ t.me.sysReg 0x63 = BitVec.ofNat 64 ((s.me.getS a).toNat % 2 ^ 21) ∧ t.me.aligned = false
      ∧ t.me.sysReg 0x0B = s.me.sysReg 0x0B + 1 ∧ ∀ j, j ≠ 0x0B → j ≠ 0x63 → t.me.sysReg j = s.me.sysReg j

/-- Words with an effect at commit are held with their operands read at issue, and change nothing else before it (05 R100).
Rests on the model's reading of notes/assumptions/31.md. -/
def Obligations.HeldAtIssue : Prop :=
  ∀ (s : State) (i : Instr) (g : Guard) (srcs : List Reg) (h : Held),
    CHeldRow s i g srcs h → cGo s g srcs →
    ∃ t, exec i s = .next t ∧ cDone s t s.me.getS (s.me.pred .c) (s.me.c.held ++ [h])

/-- The first exit word of a run records where the run leads, in each stream, and changes nothing else (05 R97, R98, R104 to R106;
14 R311; 16 R347). -/
def Obligations.ExitsRecordTheirTarget : Prop :=
  (∀ (s : State) (i : Instr) (g : Guard) (srcs : List Reg) (e : ExitTo),
    CExitRow s i g srcs e → cGo s g srcs → s.me.c.pos.exit = none →
    ∃ t, exec i s = .next t ∧ cDone s t s.me.getS (s.me.pred .c) s.me.c.held ∧ t.me.c.pos.exit = some e)
  ∧
  (∀ (s : State) (i : Instr) (g : Guard) (e : ExitTo),
    AExitRow s.me i g e → aGo s g [] → s.me.ao.pos.exit = none →
    ∃ t, exec i s = .next t ∧ aDone s t s.me.getA (s.me.pred .a) ∧ t.me.ao.pos.exit = some e)
  ∧
  (∀ (s : State) (i : Instr) (g : Guard) (e : ExitTo),
    XExitRow s.me i g e → xGo s { guard := g } → s.me.xo.pos.exit = none →
    ∃ t, exec i s = .next t ∧ onlyMe s t ∧ t.me = { s.me with xo := { s.me.xo with pos := t.me.xo.pos } } ∧ t.me.xo.pos.exit = some e)

/-- LD writes the extended value of the bytes seen, SHLD gives the C stream the 64 bytes seen as its shape, held over the committed
register; both complete wherever the TLB or the ended walk gives the page and the place is readable, deliver after the access time of
the memory reached, and change nothing else beside the order of use of the TLB's entries or the ended walk (06 R128, R129, R135,
R137; 05 R100; 12 R265, R267).
Rests on the model's reading of notes/assumptions/21.md, notes/assumptions/37.md. -/
def Obligations.LoadsReadMemory : Prop :=
  (∀ (s s' : State) (g : Guard) (wd : MemW) (r b : Reg) (disp : BitVec 8) (p : Place),
    cGo s g [b] → reaches s (eaOf (s.me.getS b) disp (bytesOf wd)) (bytesOf wd) p s' →
    ∃ t u, exec (.ld g wd r b disp) s = .next t
      ∧ t = u.after (s.accessTime s.myTile p) (.dramReadReturn s.who.core 0)
      ∧ cDone (flying s' p (s.accessTime s.myTile p)) u
          (putR s.me.getS r (extended wd (ofBytes (seenBytes s' p (eaOf (s.me.getS b) disp (bytesOf wd)) (bytesOf wd)))))
          (s.me.pred .c) s.me.c.held
      ∧ (r ≠ 0 → (r.val, s.now + s.accessTime s.myTile p) ∈ u.me.c.ready))
  ∧
  (∀ (s s' : State) (g : Guard) (sh : N16) (b : Reg) (disp : BitVec 11) (p : Place),
    cGo s g [b] → reaches s (eaOf (s.me.getS b) disp 64) 64 p s' →
    ∃ t u, exec (.shld g sh b disp) s = .next t
      ∧ t = u.after (s.accessTime s.myTile p) (.dramReadReturn s.who.core 0)
      ∧ onlyMe (flying s' p (s.accessTime s.myTile p)) u ∧ u.me.sh = s.me.sh ∧ u.me.s = s.me.s ∧ u.me.c.held = s.me.c.held
      ∧ u.me.shapeC sh = BitVec.ofNat 512 (ofBytes (seenBytes s' p (eaOf (s.me.getS b) disp 64) 64))
      ∧ (32 + sh.val, s.now + s.accessTime s.myTile p) ∈ u.me.c.ready
      ∧ ∀ k, k ≠ sh → u.me.shapeC k = s.me.shapeC k)

/-- SHGET gives the field of the stream's view of the shape, strides sign-extended; SHSET of a value that fits changes that field of
the view and no other, and the committed register stays until commit; both wait for an SHLD in flight to the shape (06 R122, R132, R136,
R137).
Rests on the model's reading of notes/assumptions/58.md. -/
def Obligations.ShapeFieldsAreReadAndWritten : Prop :=
  (∀ (s : State) (g : Guard) (v : Reg) (sh : N16) (f : ShField),
    cGo s g [] → (∀ e ∈ s.me.c.ready, e.1 = 32 + sh.val → e.2 ≤ s.now) →
    ∃ t, exec (.shget g v sh f) s = .next t
      ∧ cDone s t (putR s.me.getS v (fieldValue (s.me.shapeC sh) f)) (s.me.pred .c) s.me.c.held)
  ∧
  (∀ (s : State) (g : Guard) (v : Reg) (sh : N16) (f : ShField),
    cGo s g [v] → (∀ e ∈ s.me.c.ready, e.1 = 32 + sh.val → e.2 ≤ s.now) → fieldFits f (s.me.getS v) →
    ∃ t, exec (.shset g v sh f) s = .next t ∧ onlyMe s t ∧ t.me.sh = s.me.sh ∧ t.me.s = s.me.s ∧ t.me.c.held = s.me.c.held
      ∧ fieldValue (t.me.shapeC sh) f = s.me.getS v
      ∧ (∀ h, h ≠ f → fieldValue (t.me.shapeC sh) h = fieldValue (s.me.shapeC sh) h)
      ∧ ∀ k, k ≠ sh → t.me.shapeC k = s.me.shapeC k)

/-- C words that trap at issue raise their cause and do nothing else (05 R97, R106, R107; 06 R129, R135, R136; 14 R299; 15 R325;
16 R346, R349, R350). -/
def Obligations.CTrapsAtIssue : Prop :=
  ∀ (s : State) (i : Instr) (g : Guard) (srcs : List Reg) (cause : Cause),
    CTrapRow s i g srcs cause → cGo s g srcs → ∃ t, exec i s = .next t ∧ cTrapped s t cause 0

/-- A word that its privilege forbids raises PRIVILEGE whatever its guard and sources, and does nothing else (16 R344, R347, R349,
R350, R357; notes/assumptions/14.md). -/
def Obligations.PrivilegeIsChecked : Prop :=
  ∀ (s : State) (i : Instr), PrivRow s.me i → s.who.st = .c → ∃ t, exec i s = .next t ∧ cTrapped s t .privilege 0

/-- A C or A word whose guard is false only retires: no register, predicate, queue, tag, batch, held operation or memory changes
(05 R99). An X word's is in XWordsHeldBack. -/
def Obligations.FalseGuardOnlyRetires : Prop :=
  ∀ (s : State) (i : Instr) (st : Stream) (g : Guard) (srcs : List Reg),
    GuardRow s.me i st g srcs → s.who.st = st → s.me.guard st g = false →
    ∃ t, exec i s = .next t ∧ onlyMe s t
      ∧ t.me = { s.me with sys := t.me.sys, c := { s.me.c with pos := t.me.c.pos }, ao := { s.me.ao with pos := t.me.ao.pos } }
      ∧ ∀ k, k ≠ 0x0B → t.me.sysReg k = s.me.sysReg k

/-- A C or A word whose guard is true waits unchanged while a source register is not delivered (06 R122). -/
def Obligations.WordsWaitForTheirSources : Prop :=
  ∀ (s : State) (i : Instr) (st : Stream) (g : Guard) (srcs : List Reg),
    GuardRow s.me i st g srcs → s.who.st = st → s.me.guard st g = true → (st = .a → iqHolds s.me.ao = true) →
    (∃ r ∈ srcs, ∃ k, (r.val, k) ∈ (if st = .a then s.me.aReady else s.me.c.ready) ∧ s.now < k) →
    exec i s = .next s

/-- BQ2POP and BQ3POP read the oldest entry that the run has not read, and count it as read; the pop itself waits for commit
(07 R153).
Rests on the model's reading of notes/assumptions/32.md. -/
def Obligations.BranchQueuePopRead : Prop :=
  ∀ (s : State) (g : Guard) (d : Reg) (three : Bool) (v : Byte) (at_ : Nat),
    cGo s g [] →
    (if three then s.me.q.bq[3][s.me.c.peek3]? else s.me.q.bq[2][s.me.c.peek2]?) = some (v, at_) → at_ ≤ s.now →
    (if three then s.me.c.peek3 + s.me.bqOpen 3 < s.me.q.bq[3].length else s.me.c.peek2 + s.me.bqOpen 2 < s.me.q.bq[2].length) →
    ∃ t, exec (.bqPopRead g d three) s = .next t ∧ exec (.srd g d (if three then 0x5C else 0x5B)) s = .next t ∧ onlyMe s t
      ∧ (∀ r, t.me.getS r = putR s.me.getS d (BitVec.ofNat 64 v.toNat) r)
      ∧ t.me.q = s.me.q ∧ t.me.c.held = s.me.c.held
      ∧ t.me.c.peek3 = (if three then s.me.c.peek3 + 1 else s.me.c.peek3)
      ∧ t.me.c.peek2 = (if three then s.me.c.peek2 else s.me.c.peek2 + 1)

/-- A block header where a stream enters a block begins a run of it: REPEAT, ROT and LEN are taken, no exit is recorded, and the C
stream keeps its registers and predicates for a rollback. A header with LEN 0, with ROT in the C stream, or whose ATOM bit is not that
of its stream traps BLOCK_HEADER (03 R46, R47; 05 R96, R102). -/
def Obligations.HeadersBeginRunsOrTrap : Prop :=
  (∀ (s : State) (rot atom : Bool) (len : Fin 128) (rep : BitVec 16),
    s.pos.phase = .header → 0 < len.val → ¬(s.who.st = .c ∧ rot = true) → (atom = true ↔ s.who.st = .c) →
    s.pos.pc + 2 + spanOf s.me s.who.st len.val 0 (s.pos.pc + 2) ≤ imemSize s.who.st →
    ∃ t, exec (.blockHeader rot atom len rep) s = .next t ∧ onlyMe s t
      ∧ t.pos = { s.pos with phase := .words, blk := s.pos.pc, pc := s.pos.pc + 2, left := len.val, rep := rep.toNat, rot := rot,
                             len := len.val, exit := none, last := s.now }
      ∧ (s.who.st = .c → t.me.c.s0 = s.me.s ∧ t.me.c.p0 = s.me.c.p ∧ t.me.c.held = [] ∧ t.me.c.undo = [] ∧ t.me.c.shapes = [])
      ∧ t.me.s = s.me.s ∧ t.me.a = s.me.a ∧ t.me.c.p = s.me.c.p ∧ t.me.xr = s.me.xr ∧ t.me.q = s.me.q ∧ t.me.sh = s.me.sh)
  ∧
  (∀ (s : State) (rot atom : Bool) (len : Fin 128) (rep : BitVec 16),
    s.pos.phase = .header → s.pos.pfx = none → (len.val = 0 ∨ (s.who.st = .c ∧ rot = true) ∨ ¬(atom = true ↔ s.who.st = .c)) →
    ∃ t q, exec (.blockHeader rot atom len rep) s = .next t ∧ t.me.traps = s.me.traps ++ [q] ∧ q.cause = .blockHeader
      ∧ q.pc = s.pos.pc ∧ q.stream = streamCode s.who.st ∧ memSame s t
      ∧ t.me = { s.me.setPos s.who.st (t.me.pos s.who.st) with traps := t.me.traps })

/-- A prefix before a word that it may modify waits for that word, which keeps the turn; it changes nothing else (03 R54,
05 R118). -/
def Obligations.PrefixWaitsForItsWord : Prop :=
  ∀ (s : State) (i : Instr) (p : Pfx),
    ((∃ rnd msel iq sat, i = .pfx rnd msel iq sat ∧ p = ⟨none, rnd, msel, iq, sat⟩)
      ∨ (∃ g rnd iq, i = .pfxGuarded g rnd iq ∧ p = ⟨some g, rnd, 0, iq, false⟩)) →
    2 ≤ s.pos.left → pairFate s.who.st p (s.me.halfwords s.who.st (s.pos.pc + 1) 6) = .ok →
    ∃ t, exec i s = .next t ∧ onlyMe s t ∧ t.turn = some s.who
      ∧ t.pos = { s.pos with pc := s.pos.pc + 1, left := s.pos.left - 1, pfx := some p, pfxAt := s.pos.pc }
      ∧ t.me = s.me.setPos s.who.st t.pos

/-- SYZY alone in its block, of a core in an orbit with idle outer streams and no post unacknowledged, sends its arrival to every
member and stays (14 R313). -/
def Obligations.SyzySendsItsArrival : Prop :=
  ∀ (s : State), s.who.st = .c → s.me.c.pos.len = 1 → s.me.c.pos.rep = 0 → s.me.sent = false → tgtOrb s.me.orbitset = true →
    s.xIdle s.who.core = true → s.aIdle s.who.core = true → s.me.posts = [] →
    ∃ t, exec .syzy s = .next t ∧ t.me = { s.me with sent := true } ∧ (∀ n, n ≠ s.who.core → t.core n = s.core n) ∧ memSame s t
      ∧ t = { s with cores := t.cores, agenda := t.agenda }
      ∧ ∀ n ∈ tgtCores s.me.orbitset,
          (2 * (s.now + s.mailTime s.who.core n), Event.orbitArrival n s.who.core false (BitVec.ofNat 64 s.me.syzyWord)) ∈ t.agenda

/-- A queue load takes a slot in its queue with the bytes of its four segments, lowest address first, under the stores of the same
core not yet written, the newest on top; the entry is ready when its data has come (07 R144, R147, R148, R156; 10 R225). -/
def Obligations.QueueLoadsTakeTheirBytes : Prop :=
  ∀ (s : State) (i : Instr) (g : Guard) (srcs : List Reg) (q : N8) (stride : Nat) (segs : List Nat) (got : List (Nat × Place))
    (tlb : StreamTlb),
    QLoadRow s.me i g srcs q stride segs → aGo s g srcs → (hq : q.val < 6) → s.me.q.ld[q.val].length < 16 →
    planned s q false stride segs got tlb → s.segCause ((placesOf got segs).map (fun e => e.2)) true = none →
    ∃ t d lat, exec i s = .next t ∧ onlyMeAnd s t ∧ 1 ≤ lat
      ∧ (∀ p ∈ (placesOf got segs).map (fun e => e.2), if p.isScratch then 6 ≤ lat else s.accessTime s.myTile p ≤ lat)
      ∧ (2 * (s.now + lat), Event.loadQueueEntryReady s.who.core s.me.q.nextId) ∈ t.agenda
      ∧ d = BitVec.ofNat 2048 (ofBytes (((placesOf got segs).map (fun e => e.2)).flatMap (fun p =>
          overlayStores s.me.onWay p (s.readPlace p 64))))
      ∧ t.me = { s.me with
          q := { s.me.q with ld := s.me.q.ld.set q.val (s.me.q.ld[q.val] ++ [⟨s.me.q.nextId, d, none⟩]), nextId := s.me.q.nextId + 1,
                             tlb := s.me.q.tlb.setIfInBounds q.val tlb
                             air := airPut s.me.q.air s.myTile s.now (s.now + lat) ((placesOf got segs).map (fun e => e.2)) }
          ao := { s.me.ao with pos := t.me.ao.pos } }

/-- A queue store pops the oldest entry of its queue and holds the bytes it enables for its segments, which it writes when their lines
are reached, each after an earlier store of the queue to the same place; memory is not yet written. A bound queue gives every write the
GVER of its shape, and one of them the merge to the shape's record where UPD is 1; a shape that may not be used traps (07 R144, R146,
R149, R150; 10 R225; 12 R268; 13 R286). -/
def Obligations.QueueStoresTakeTheirEntry : Prop :=
  (∀ (s : State) (i : Instr) (g : Guard) (srcs : List Reg) (q : N8) (stride : Nat) (segs : List Nat) (got : List (Nat × Place))
    (tlb : StreamTlb) (e : StoreEntry) (rest : List StoreEntry),
    QStoreRow s.me i g srcs q stride segs → aGo s g srcs → (hq : q.val = 6 ∨ q.val = 7) → storeEntry s q e rest →
    (∀ v, s.me.boundShape q = some v → shapeCheck s.me v = none) →
    planned s q true stride segs got tlb → s.segCause ((placesOf got segs).map (fun e => e.2)) false = none →
    ∃ t w, exec i s = .next t ∧ onlyMeAnd s t
      ∧ t.me = { s.me with
          q := { s.me.q with st := s.me.q.st.setIfInBounds (q.val - 6) rest, wr := s.me.q.wr ++ w, nextId := s.me.q.nextId + 5,
                             tlb := s.me.q.tlb.setIfInBounds q.val tlb }
          ao := { s.me.ao with pos := t.me.ao.pos } }
      ∧ (∀ g, g ∈ w.flatMap (fun x => x.segs) ↔
          ∃ k va pl, (placesOf got segs)[k]? = some (va, pl) ∧ g = ⟨pl, va, enabledBytes e k⟩)
      ∧ (w.map (fun x => x.id)).Nodup ∧ w.filterMap (fun x => x.merge) = mergeOfStore (s.me.boundShape q) e
      ∧ ∀ x ∈ w, s.me.q.nextId ≤ x.id ∧ x.id < s.me.q.nextId + 5 ∧ x.word = s.me.q.nextId
          ∧ x.gver = (s.me.boundShape q).map Shape.gver ∧ (2 * x.at_, Event.queueStoreWrite s.who.core x.id) ∈ t.agenda
          ∧ ∀ g ∈ x.segs, (if g.place.isScratch then s.now + 2 ≤ x.at_ else s.now + s.accessTime s.myTile g.place ≤ x.at_)
            ∧ (∀ y ∈ s.me.q.wr, ∀ h ∈ y.segs, h.place = g.place → y.at_ ≤ x.at_))
  ∧ ∀ (s : State) (i : Instr) (g : Guard) (srcs : List Reg) (q : N8) (stride : Nat) (segs : List Nat) (e : StoreEntry)
    (rest : List StoreEntry) (v : Shape) (cause : Cause),
    QStoreRow s.me i g srcs q stride segs → aGo s g srcs → storeEntry s q e rest → s.me.boundShape q = some v →
    shapeCheck s.me v = some cause → ∃ t, exec i s = .next t ∧ aTrapped s t cause

/-- Aligned segments inside the core's scratchpad partition need no translation, of a load or of a store to no held range: each leads to
its place, and the stream TLB is as before (07 R142, R143, R145; 09 R212). -/
def Obligations.ScratchSegmentsNeedNoWalk : Prop :=
  ∀ (s : State) (q : N8) (store : Bool) (stride : Nat) (segs : List Nat),
    s.me.q.walk = none → stride % 64 = 0 →
    (∀ va ∈ segs, va % 64 = 0 ∧ inScratchWindow va = true ∧ ∃ o, s.me.scratchAt s.myTile va 64 = some o
      ∧ (store = true → s.heldAt s.myTile va (some (.scratch o)) = false)) →
    ∃ got, planned s q store stride segs got (s.me.q.tlb.getD q.val StreamTlb.empty)
      ∧ placesOf got segs = segs.filterMap (fun va => (s.me.scratchAt s.myTile va 64).map (fun o => (va, Place.scratch o)))

/-- A queue load or a queue store the first of whose segments to fail its checks is no multiple of 64, or whose stride is none, traps
ALIGN; nothing is read, written or taken from its queue (07 R143). -/
def Obligations.MisalignedQueueWordsTrap : Prop :=
  ∀ (s : State) (i : Instr) (g : Guard) (srcs : List Reg) (q : N8) (store : Bool) (stride va : Nat) (segs before after : List Nat)
    (got : List (Nat × Place)) (tlb : StreamTlb),
    (store = false ∧ QLoadRow s.me i g srcs q stride segs ∧ (s.me.q.ld.getD q.val []).length < 16
      ∨ store = true ∧ QStoreRow s.me i g srcs q stride segs ∧ (∃ e rest, storeEntry s q e rest)
        ∧ ∀ v, s.me.boundShape q = some v → shapeCheck s.me v = none) →
    aGo s g srcs → segs = before ++ va :: after → planned s q store stride before got tlb → va % 64 ≠ 0 ∨ stride % 64 ≠ 0 →
    ∃ t, exec i s = .next t ∧ aTrapped (withTlb s q tlb) t .align

/-- A words that only retire change nothing but their position, and put the merges of the commands they await before the core's later
releases (13 R290); A words wait unchanged for tags in flight, CLOSED batches, room in a branch queue or a load queue, and entries to
take (07 R139; 09 R206; 11 R243). -/
def Obligations.AWordsRetireOrWait : Prop :=
  (∀ (s : State) (i : Instr) (g : Guard) (srcs : List Reg) (f : Merge → Nat),
    AOnlyRetires s i g srcs f → aGo s g srcs →
    ∃ t u, exec i s = .next t ∧ mergesRaised s u s.who.core f ∧ aDone u t s.me.getA (s.me.pred .a))
  ∧
  (∀ (s : State) (i : Instr) (g : Guard) (srcs : List Reg), AWaits s i g srcs → aGo s g srcs → exec i s = .next s)

/-- A words that trap at issue raise their cause and do nothing else (09 R193, R206; 11 R243, R245). -/
def Obligations.ATrapsAtIssue : Prop :=
  ∀ (s : State) (i : Instr) (g : Guard) (srcs : List Reg) (cause : Cause),
    ATrapRow s i g srcs cause → aGo s g srcs → ∃ t, exec i s = .next t ∧ aTrapped s t cause

/-- BQPUT of the A stream appends a byte that may be read from the next cycle on; BQGET pops the oldest byte into a register,
zero-extended, or a predicate that is 1 for a byte other than 0 (07 R151, R152). -/
def Obligations.ABranchQueueWords : Prop :=
  (∀ (s : State) (i : Instr) (g : Guard) (srcs : List Reg) (q : Fin 4) (v : Byte),
    BqPutRow s.me i g srcs q v → aGo s g srcs → s.me.q.bq[q].length < 32 →
    ∃ t, exec i s = .next t ∧ onlyMe s t
      ∧ t.me = { s.me with q := { s.me.q with bq := s.me.q.bq.set q (s.me.q.bq[q] ++ [(v, s.now + 1)]) }
                           ao := { s.me.ao with pos := t.me.ao.pos } })
  ∧
  (∀ (s : State) (g : Guard) (o : BqA) (q : Fin 4) (v : Byte) (at_ : Nat) (rest : List (Byte × Nat)),
    aGo s g [] → s.me.q.bq[q] = (v, at_) :: rest → at_ ≤ s.now → s.me.bqOpen q ≤ rest.length →
    ∃ t, exec (.bqgetA g o q) s = .next t ∧ onlyMe s t
      ∧ t.me = { s.me with q := { s.me.q with bq := s.me.q.bq.set q rest }, a := t.me.a, aReady := t.me.aReady
                           ao := { s.me.ao with p := t.me.ao.p, pos := t.me.ao.pos } }
      ∧ (∀ r, t.me.getA r = (match o with | .reg d => putR s.me.getA d (BitVec.ofNat 64 v.toNat) | .pred _ => s.me.getA) r)
      ∧ (∀ p, t.me.pred .a p = (match o with | .pred d => putP (s.me.pred .a) d (v != 0) | .reg _ => s.me.pred .a) p))

/-- PGDIST sets a channel's prefetch distance: at most 2^29 - 64, in whole 64 bytes. TAGCLR clears the bits of its mask in TAGS and
TAGERR but those of tags in flight. Neither changes anything else (07 R154; 11 R243).
Rests on the model's reading of notes/assumptions/55.md. -/
def Obligations.PgdistAndTagclr : Prop :=
  (∀ (s : State) (g : Guard) (ch : Fin 14) (a : Reg),
    aGo s g [a] →
    ∃ t v, exec (.pgdist g ch a) s = .next t ∧ onlyMe s t
      ∧ t.me = { s.me with q := { s.me.q with pref := s.me.q.pref.set ch v }, ao := { s.me.ao with pos := t.me.ao.pos } }
      ∧ v % 64 = 0 ∧ v ≤ 2 ^ 29 - 64 ∧ v ≤ (s.me.getA a).toNat ∧ ((s.me.getA a).toNat < v + 64 ∨ v = 2 ^ 29 - 64))
  ∧
  (∀ (s : State) (g : Guard) (m : Reg),
    aGo s g [m] →
    ∃ t, exec (.tagclr g m) s = .next t ∧ onlyMe s t
      ∧ t.me = { s.me with sys := t.me.sys, ao := { s.me.ao with pos := t.me.ao.pos } }
      ∧ t.me.sysReg 0x5D = s.me.sysReg 0x5D &&& (~~~s.me.getA m ||| s.flightMask s.who.core)
      ∧ t.me.sysReg 0x5E = s.me.sysReg 0x5E &&& (~~~s.me.getA m ||| s.flightMask s.who.core)
      ∧ ∀ k, k ≠ 0x5D → k ≠ 0x5E → t.me.sysReg k = s.me.sysReg k)

/-- MCOMMIT closes an OPEN batch; with no command of it outstanding the batch retires at once: FREE, with DONE 1 and FAULT as its
commands left it (09 R206). -/
def Obligations.McommitClosesABatch : Prop :=
  ∀ (s : State) (g : Guard) (b : N8),
    aGo s g [] → s.me.batch.st[b] = 1 →
    ∃ t, exec (.mcommit g b) s = .next t ∧ memSame s t ∧ (∀ n, n ≠ s.who.core → t.core n = s.core n)
      ∧ t.me = { s.me with batch := t.me.batch, ao := { s.me.ao with pos := t.me.ao.pos } }
      ∧ (if (s.mx s.myTile).cmds.any (fun x => x.core == s.who.core && x.batch == b && x.ret.isNone && x.st != .done) then
          t.me.batch = { s.me.batch with st := s.me.batch.st.set b 2 }
        else t.me.batch.st = s.me.batch.st.set b 0 ∧ t.me.batch.df.testBit (2 * b.val) = true
          ∧ t.me.batch.df.testBit (2 * b.val + 1) = s.me.batch.fault[b])

/-- CPY, CPYG and CPYR that pass their checks enter the core's copy queue with the shapes as they stand; the tag is in flight, its
channel may take the command from the next cycle on, and CPYR marks an effect (11 R238, R239, R242, R245).
Rests on the model's reading of notes/assumptions/40.md. -/
def Obligations.CopyCommandsAreAccepted : Prop :=
  ∀ (s : State) (i : Instr) (g : Guard) (op : COp) (tag : Tag) (d sr x : Shape) (ord : OrdF),
    CopyRow s.me i g op tag d sr x ord → aGo s g [] → copyCheck s.me op d sr x ord = none → s.copyBusy s.who.core tag = false →
    ∃ t m, exec i s = .next t ∧ memSame s t ∧ (∀ n, n ≠ s.who.core → t.core n = s.core n)
      ∧ (∀ k, k ≠ s.myTile → t.tile k = s.tile k)
      ∧ t.tile s.myTile = { s.tile s.myTile with
          cp := { s.cp s.myTile with cmds := (s.cp s.myTile).cmds ++ [m], nextId := (s.cp s.myTile).nextId + 1 } }
      ∧ m.op = op ∧ m.tag = tag ∧ m.dst = d ∧ m.src = sr ∧ m.idx = x ∧ m.ord = ord ∧ m.core = s.who.core ∧ m.st = .queued ∧ m.issue = s.now
      ∧ t.me = { s.me with sys := t.me.sys, ao := { s.me.ao with pos := t.me.ao.pos } }
      ∧ t.me.sysReg 0x5D = s.me.sysReg 0x5D &&& ~~~(1#64 <<< tag.val)
      ∧ t.me.sysReg 7 = (if op = .cpyr then s.me.sysReg 7 ||| 4 else s.me.sysReg 7)
      ∧ (∀ k, k ≠ 0x5D → k ≠ 7 → t.me.sysReg k = s.me.sysReg k)
      ∧ (2 * (s.now + 1), Event.copyChannelTake s.myTile (tag.val % 4)) ∈ t.agenda

/-- TAILPUT, TAILGET, OFFLOAD and RECALL that pass their checks and find their segment ready enter the core's copy queue with their
segment, and its state changes with the acceptance of this cycle; an OFFLOAD of a segment that is OUTBOUND or OFFLOADED, and a RECALL of
one that is RESIDENT, have no effect but that their tag is ready at once; an OFFLOAD marks an effect either way (15 R334, R337; 16 R356).
An error in the segment's descriptor traps (18 R375). -/
def Obligations.TailCommandsAtIssue : Prop :=
  (∀ (s : State) (i : Instr) (g : Guard) (r : Reg) (op : COp) (k : Nat) (sh : Shape) (tag : Tag) (space : Option (Nat × Bool)),
    TailRow s.me i g r op k sh tag → aGo s g [r] → s.tailCheck s.me op sh = none → s.copyBusy s.who.core tag = false →
    s.segEcc s.myTile (s.me.sysReg 0x60).toNat k = false → s.tailState s.me s.who.core op k sh = .accept space →
    ∃ t m, exec i s = .next t ∧ (t.cp s.myTile).cmds = (s.cp s.myTile).cmds ++ [m] ∧ m.op = op ∧ m.tag = tag ∧ m.seg = k ∧ m.dst = sh
      ∧ m.core = s.who.core ∧ m.st = .queued ∧ (∀ n, n ≠ s.who.core → t.core n = s.core n)
      ∧ t.me.sysReg 0x5D = s.me.sysReg 0x5D &&& ~~~(1#64 <<< tag.val)
      ∧ t.me.sysReg 7 = (if op = .offload then s.me.sysReg 7 ||| 4 else s.me.sysReg 7)
      ∧ (∀ j, j ≠ 0x5D → j ≠ 7 → t.me.sysReg j = s.me.sysReg j)
      ∧ (∀ a, a < stagingAt s.myTile (s.me.sysReg 0x60).toNat + 16 * k ∨ stagingAt s.myTile (s.me.sysReg 0x60).toNat + 16 * k + 16 ≤ a →
          Mem.byte t.scratch a = Mem.byte s.scratch a)
      ∧ (∀ r, t.me.getA r = s.me.getA r) ∧ t.me.s = s.me.s ∧ t.me.q = s.me.q ∧ t.me.xr = s.me.xr
      ∧ (∀ a, Mem.byte t.dram a = Mem.byte s.dram a) ∧ (∀ a, Mem.byte t.accum a = Mem.byte s.accum a)
      ∧ (2 * s.now, Event.tailCommandAccept s.myTile (tag.val % 4)) ∈ t.agenda)
  ∧
  (∀ (s : State) (i : Instr) (g : Guard) (r : Reg) (op : COp) (k : Nat) (sh : Shape) (tag : Tag),
    TailRow s.me i g r op k sh tag → aGo s g [r] → s.tailCheck s.me op sh = none → s.copyBusy s.who.core tag = false →
    s.segEcc s.myTile (s.me.sysReg 0x60).toNat k = false → s.tailState s.me s.who.core op k sh = .noEffect →
    ∃ t, exec i s = .next t ∧ onlyMe s t ∧ t.me = { s.me with sys := t.me.sys, ao := { s.me.ao with pos := t.me.ao.pos } }
      ∧ t.me.sysReg 0x5D = s.me.sysReg 0x5D ||| (1#64 <<< tag.val)
      ∧ t.me.sysReg 7 = (if op = .offload then s.me.sysReg 7 ||| 4 else s.me.sysReg 7)
      ∧ ∀ j, j ≠ 0x5D → j ≠ 7 → t.me.sysReg j = s.me.sysReg j)
  ∧
  (∀ (s : State) (i : Instr) (g : Guard) (r : Reg) (op : COp) (k : Nat) (sh : Shape) (tag : Tag),
    TailRow s.me i g r op k sh tag → aGo s g [r] → s.tailCheck s.me op sh = none → s.copyBusy s.who.core tag = false →
    s.segEcc s.myTile (s.me.sysReg 0x60).toNat k = true → ∃ t, exec i s = .next t ∧ aTrapped s t .eccScratch)

/-- A matrix word that passes its checks enters the array's queue: the lease counts it, its batch is OPEN, its place in the batch
follows the last, and the array may start it two cycles later (09 R188, R192, R206). -/
def Obligations.MatrixCommandsAreAccepted : Prop :=
  ∀ (s : State) (i : Instr) (op : MOp) (a b : N16) (d : Reg) (hold : Bool) (ord : OrdF) (sq : Bool) (r : MRun) (spans : List Span),
    MatrixRow i op a b d hold ord sq → aGo s p0 [d] → matrixClear s op (commandOf s op a b d hold ord sq) r spans →
    ∃ t m, exec i s = .next t ∧ memSame s t ∧ (∀ n, n ≠ s.who.core → t.core n = s.core n) ∧ (∀ k, k ≠ s.myTile → t.tile k = s.tile k)
      ∧ (t.mx s.myTile).cmds = (s.mx s.myTile).cmds ++ [m]
      ∧ m = { commandOf s op a b d hold ord sq with run := r.id, spans := spans, index := m.index }
      ∧ m.index = (if s.me.batch.st[m.batch] = 0 then 0 else s.me.batch.nidx[m.batch] % 32)
      ∧ t.me.batch.st = s.me.batch.st.set m.batch 1
      ∧ (∀ x ∈ (s.mx s.myTile).runs, x.id = r.id →
          { x with left := r.left - 1, closed := if r.left - 1 = 0 then 1 else 0 } ∈ (t.mx s.myTile).runs)
      ∧ t.me = { s.me with batch := t.me.batch, ao := { s.me.ao with pos := t.me.ao.pos } }
      ∧ (2 * (s.now + 2), Event.matrixCommandStart s.myTile) ∈ t.agenda

/-- X words with a vector destination compute each lane that the mask lets through and keep the other lanes; the result, the latch
and the counter draws are as given, and nothing else changes (08 R160 to R181; 04 R84).
Rests on the model's reading of notes/assumptions/7.md, notes/assumptions/8.md, notes/assumptions/45.md, notes/assumptions/57.md,
notes/assumptions/60.md. -/
def Obligations.XVectorWords : Prop :=
  ∀ (s : State) (i : Instr) (w : XIn) (d : Dst) (wd sr busy : Nat) (val : Nat → Option Nat) (so : SealOp),
    XVecRow s.me i w d wd sr val so busy → xGo s w →
    ∃ t v r, exec i s = .next t ∧ xDone s t w r v so sr busy ∧ placed s.me d wd val v r
      ∧ ∀ k, k < 2048 / wd → lane v wd k = (val k).getD (oldLane s.me d wd k) % 2 ^ wd

/-- Words that write a mask give it the bits of their rule; VCMP's latch receives all ones in the lanes that hold (08 R168, R170). -/
def Obligations.XMaskWords : Prop :=
  ∀ (s : State) (i : Instr) (w : XIn) (md : N8) (bit : Nat → Bool) (lw : Option Nat),
    XMaskRow s.me i w md bit lw → xGo s w →
    ∃ t v m, exec i s = .next t ∧ xDone s t w (.m md.val m) v .none 0 1 ∧ (∀ k, k < 256 → m.getLsbD k = bit k)
      ∧ ∀ wd, lw = some wd → ∀ k, k < 2048 / wd → lane v wd k = (if bit (wd / 8 * k) then 2 ^ wd - 1 else 0)

/-- Words that write an x scalar give it the value of their rule (08 R170, R183; 15 R324). -/
def Obligations.XScalarWords : Prop :=
  ∀ (s : State) (i : Instr) (w : XIn) (x : N16) (v : Word),
    XScalarRow s.me i w x v → xGo s w → ∃ t, exec i s = .next t ∧ xDone s t w (.x x.val v) 0 .none 0 1

/-- VSORTK orders the active lanes by key, the greatest first, NaN above every number, equal keys in lane order; inactive lanes follow
in lane order. The destination receives the keys, the latch the payloads (08 R182). -/
def Obligations.XSortWords : Prop :=
  ∀ (s : State) (f : Fmt) (dly : N8) (d : Dst) (a b : Src) (me : Bool) (w : XIn),
    w = { s.me.vecIn dly d false [(a, 32), (b, 32)] (.one 6) 12 with reads := if me then [.m s.me.xMaskNo.val] else [] } → xGo s w →
    ∃ t keys pays r, ∃ order : List Nat, exec (.vsortk f dly d a b me) s = .next t ∧ xDone s t w r pays .none 0 4
      ∧ placed s.me d 32 (fun _ => some 0) keys r
      ∧ order.Perm ((List.range 64).filter (fun k => s.me.active me 32 k))
      ∧ order.Pairwise (fun j k =>
          sortKey f (opLane s.me w.srcs 0 32 k) < sortKey f (opLane s.me w.srcs 0 32 j)
            ∨ sortKey f (opLane s.me w.srcs 0 32 k) = sortKey f (opLane s.me w.srcs 0 32 j) ∧ j < k)
      ∧ ∀ k j, (order ++ (List.range 64).filter (fun k => !s.me.active me 32 k))[k]? = some j →
          lane keys 32 k = (if laneNan f (opLane s.me w.srcs 0 32 j) then nanOf f else opLane s.me w.srcs 0 32 j)
            ∧ lane pays 32 k = opLane s.me w.srcs 1 32 j

/-- X words that trap as they issue raise their cause and do nothing else (05 R97; 08 R176, R184; 13 R292, R296; 15 R323). -/
def Obligations.XTrapsAtIssue : Prop :=
  ∀ (s : State) (i : Instr) (w : XIn) (cause : Cause) (info : Nat),
    XTrapRow s i w cause info → xGo s w → ∃ t, exec i s = .next t ∧ xTrapped s t cause info

/-- An X word waits for its DLY unchanged; one that takes q5 from under a command that takes scales traps QUEUE_DIRECTION whatever its
guard; one outside the iterations of its qualifier or with a false guard only retires; one with a true guard waits for its queues
unchanged. With an operand still to land it waits and counts in SBSTALLS under SBMODE 0, and traps SCOREBOARD_LATE under SBMODE 1; for
the result of a QSCALE it waits and counts nothing (03 R65; 05 R99, R111, R116; 07 R139; 08 R176; 09 R202). -/
def Obligations.XWordsHeldBack : Prop :=
  ∀ (s : State) (i : Instr) (w : XIn), xNeeds s.me i w → s.who.st = .x → s.me.xr.sbWait = false →
    (s.now < s.me.xo.pos.last + 1 + w.dly → exec i s = .next s)
    ∧ (s.me.xo.pos.last + 1 + w.dly ≤ s.now →
      ((∃ o ∈ w.srcs, o.1 = .q 5) → s.scaleReader s.who.core = true →
        ∃ t q, exec i s = .next t ∧ t.me.traps = s.me.traps ++ [q] ∧ q.cause = .queueDirection ∧ q.stream = 2 ∧ memSame s t)
      ∧ (((∃ o ∈ w.srcs, o.1 = .q 5) → s.scaleReader s.who.core = false) →
        (iqHolds s.me.xo = false →
          ∃ t, exec i s = .next t ∧ onlyMe s t ∧ t.me = { s.me with xo := { s.me.xo with pos := t.me.xo.pos } })
        ∧ (iqHolds s.me.xo = true → (∀ f ∈ s.me.xr.flights, f.hits (.p (s.me.xGuard w.guard).p.val) = false) →
          (s.me.guard .x (s.me.xGuard w.guard) = false →
            ∃ t, exec i s = .next t ∧ onlyMe s t ∧ t.me = { s.me with xo := { s.me.xo with pos := t.me.xo.pos } })
          ∧ (s.me.guard .x (s.me.xGuard w.guard) = true →
              (s.me.heads s.now w.srcs = false → exec i s = .next s)
              ∧ ((∃ n, w.qd = some n ∧ 16 ≤ (s.me.q.st.getD (n.val - 6) []).length) → exec i s = .next s)
              ∧ (s.me.heads s.now w.srcs = true → (∀ n, w.qd = some n → (s.me.q.st.getD (n.val - 6) []).length < 16) →
                  ((∃ f ∈ s.me.xr.flights, f.scale = false ∧ ∃ k ∈ s.me.srcItems w.srcs ++ w.reads, f.hits k = true) →
                    ((s.me.sysReg 0x50).toNat.testBit 0 = true → ∃ t, exec i s = .next t ∧ xTrapped s t .scoreboardLate 0)
                    ∧ ((s.me.sysReg 0x50).toNat.testBit 0 = false → s.me.aligned = false →
                        ∃ t, exec i s = .next t ∧ onlyMe s t ∧ t.me = { s.me with sys := t.me.sys }
                          ∧ t.me.sysReg 0x51 = s.me.sysReg 0x51 + 1 ∧ ∀ k, k ≠ 0x51 → t.me.sysReg k = s.me.sysReg k))
                  ∧ ((∃ f ∈ s.me.xr.flights, f.scale = true ∧ ∃ k ∈ s.me.srcItems w.srcs ++ w.reads, f.hits k = true) →
                    s.me.violation s.now w (s.me.srcItems w.srcs ++ w.reads) = false → exec i s = .next s))))))

/-- BQPUT of the X stream appends a byte that may be read from the next cycle on; BQGET pops the oldest byte into an x scalar,
zero-extended, or a predicate that is 1 for a byte other than 0, which lands in the next cycle (07 R151, R152). -/
def Obligations.XBranchQueueWords : Prop :=
  (∀ (s : State) (g : Guard) (o : BqX) (q : Fin 4),
    xGo s { guard := g, reads := match o with | .pred p => if p = 0 then [] else [.p p.val] | .x r => [.x r.val] } →
    s.me.q.bq[q].length < 32 →
    ∃ t, exec (.bqputX g o q) s = .next t ∧ onlyMe s t
      ∧ t.me = { s.me with
          scales := s.me.scales.map (fun v => { v with bqPut := v.bqPut ++ [q] })
          q := { s.me.q with bq := s.me.q.bq.set q (s.me.q.bq[q]
                  ++ [((match o with | .pred p => byteOf (s.me.pred .x p) | .x r => BitVec.ofNat 8 (s.me.getX r).toNat), s.now + 1)]) }
          xo := { s.me.xo with pos := t.me.xo.pos } })
  ∧ ∀ (s : State) (g : Guard) (o : BqX) (q : Fin 4) (b : Byte) (at_ : Nat) (rest : List (Byte × Nat)),
    xGo s { guard := g, writes := match o with | .pred p => [.p p.val] | .x r => [.x r.val] } →
    s.me.q.bq[q] = (b, at_) :: rest → at_ ≤ s.now → s.me.bqOpen q ≤ rest.length →
    ∃ t, exec (.bqgetX g o q) s = .next t ∧ onlyMeAnd s t
      ∧ (2 * (s.now + 1), Event.xResultLand s.who.core s.me.xr.nextId) ∈ t.agenda
      ∧ t.me = { s.me with
          scales := s.me.scales.map (fun v => { v with bqTaken := v.bqTaken ++ [(q, b, at_)] })
          q := { s.me.q with bq := s.me.q.bq.set q rest }
          xr := { s.me.xr with
            flights := s.me.xr.flights ++ [⟨s.me.xr.nextId, some (s.now + 1), none,
              (match o with | .pred p => .p p.val (b != 0) | .x r => .x r.val (BitVec.ofNat 64 b.toNat)), .none, false⟩],
            nextId := s.me.xr.nextId + 1 }
          xo := { s.me.xo with pos := t.me.xo.pos } }

/-- SEALCLR clears the seal accumulator as its result lands; KATCHK of a value whose CRC is its constant takes its operand and has no
other effect (08 R184; 15 R324). -/
def Obligations.XSealAndCheck : Prop :=
  (∀ (s : State) (dly : N8), xGo s { dly := dly.val, writes := [.sealAcc] } →
    ∃ t, exec (.sealclr dly) s = .next t ∧ xDone s t { dly := dly.val, writes := [.sealAcc] } .none 0 .clear 0 1)
  ∧ ∀ (s : State) (dly : N8) (v : Src) (k : Word), xGo s { dly := dly.val, srcs := [(v, 8)] } →
    crc64 0 ((List.range 256).map (opLane s.me [(v, 8)] 0 8)) = k.toNat →
    ∃ t, exec (.katchk dly v k) s = .next t ∧ onlyMe s t ∧ popped s.me t.me [(v, 8)] ∧ keptEntries s.me t.me
      ∧ t.me = { s.me with scales := t.me.scales, q := { s.me.q with ld := t.me.q.ld }, xo := { s.me.xo with pos := t.me.xo.pos } }

/-- VQNT under QNTBIND writes the lanes that it writes without it. With saturated lanes and TRAP 1 it traps RESCALE and tells the record;
with saturated lanes, TRAP 0 and UPD 1 it reports their number to the record in one merge; with none, or with TRAP 0 and UPD 0, it only
converts and sends nothing. A record that the context may not use traps PRIVILEGE where UPD is 1. What a word younger than an unanswered
QSCALE would send stays with that QSCALE (08 R174, R175; 13 R292, R296).
Rests on the model's reading of notes/assumptions/9.md, notes/assumptions/10.md. -/
def Obligations.XQuantiseBound : Prop :=
  ∀ (s : State) (dly : N8) (d : Dst) (a : Src) (qf : QFmt) (xs : N16) (me : Bool) (w : XIn) (sh n sats : Nat) (val : Nat → Option Nat),
    w = { s.me.vecIn dly d me [(a, 32)] (.one 7) 3 with
      reads := (s.me.vecIn dly d me [(a, 32)] (.one 7) 3).reads ++ [.x xs.val] } → xGo s w →
    (s.me.sysReg 0x55).toNat.testBit 4 = true → sh = (s.me.sh.getD ((s.me.sysReg 0x55).toNat % 16) 0).toNat → n = sh / 2 ^ 360 % 2 ^ 16 →
    sats = ((List.range 64).filter (fun k => s.me.active me 32 k
      && (quantLane qf ((s.me.getX xs).toNat % 256) (s.me.rounding k) (opLane s.me w.srcs 0 32 k)).2)).length →
    val = converted s.me me 32 64 (fun k =>
      (quantLane qf ((s.me.getX xs).toNat % 256) (s.me.rounding k) (opLane s.me w.srcs 0 32 k)).1) →
    (sh.testBit 376 = true → s.me.albOk n = false → ∃ t, exec (.vqnt dly d a qf xs me) s = .next t ∧ xTrapped s t .privilege 0)
    ∧ ((sh.testBit 376 = true → s.me.albOk n = true) → 0 < sats → sh.testBit 377 = true →
      ∃ t u, exec (.vqnt dly d a qf xs me) s = .next t ∧ xTrapped s u .rescale 0
        ∧ (s.me.scales = [] → s.muted s.myTile (n / 256) = false →
          (2 * (s.now + 7 + 2 * s.hops s.myTile (n / 256)), Event.homeRequest s.myTile (.rescale n)) ∈ t.agenda
          ∧ t = { u with waiters := t.waiters, agenda := t.agenda }
          ∧ t.waiters = waiterPut s.waiters ⟨recOff n, s.now + 7 + 2 * s.hops s.myTile (n / 256), s.who.core, Requester.rescale⟩)
        ∧ (s.me.scales ≠ [] → t = owing u s.now (.homeRequest s.myTile (.rescale n))))
    ∧ ((sh.testBit 376 = true → s.me.albOk n = true) → (0 < sats → sh.testBit 377 = false) →
      ∃ t v r u, exec (.vqnt dly d a qf xs me) s = .next t
        ∧ u = (if 0 < sats ∧ sh.testBit 376 = true then owing s (s.now + 3) (.albedoMergeIssue s.who.core .vqnt ⟨n, 0, 0, 0, 0, sats, []⟩)
            else s)
        ∧ xDone u t w r v .none 64 1 ∧ placed s.me d 8 val v r
        ∧ (∀ k, k < 256 → lane v 8 k = (val k).getD (oldLane s.me d 8 k) % 2 ^ 8)
        ∧ ∀ e, e ∈ t.agenda ↔ e ∈ u.agenda ∨ e = (2 * (s.now + 3), Event.xResultLand s.who.core s.me.xr.nextId))

/-- QSCALE of any record number asks the record's home, after the way to it; its x scalar is in flight until the reply, and the core
keeps what a refusal needs to trap precisely at the word (08 R176; 13 R296).
Rests on the model's reading of notes/assumptions/10.md. -/
def Obligations.QscaleAsksTheHome : Prop :=
  ∀ (s : State) (dly : N8) (xd xn : N16) (qf : QFmt) (h : N16) (n at_ : Nat),
    xGo s (scaleNeeds s dly xd xn) → n = (s.me.getX xn).toNat → n < 2 ^ 16 → s.muted s.myTile (n / 256) = false → at_ = s.now + 7 + 2 * s.hops s.myTile (n / 256) →
    ∃ t k, exec (.qscale dly xd xn qf h) s = .next t ∧ memSame s t ∧ (∀ m, m ≠ s.who.core → t.core m = s.core m)
      ∧ t = { s with cores := t.cores, turn := t.turn, agenda := t.agenda, waiters := t.waiters }
      ∧ t.waiters = waiterPut s.waiters ⟨recOff n, at_, s.who.core, Requester.scale s.who.core s.me.xr.nextId⟩
      ∧ (2 * at_, Event.homeRequest s.myTile (.qscale s.who.core xd qf h n s.me.xr.nextId)) ∈ t.agenda
      ∧ t.me = { s.me with
          scales := s.me.scales ++ [k]
          xr := { s.me.xr with
            flights := s.me.xr.flights
              ++ [⟨s.me.xr.nextId, some (s.now + (scaleNeeds s dly xd xn).lat), none, .x xd.val 0, .none, true⟩],
            nextId := s.me.xr.nextId + 1 }
          xo := { s.me.xo with pos := t.me.xo.pos } }
      ∧ k = ⟨s.me.xr.nextId, n, xd, qf, h.val, s.me.albOk n, none, s.me.xo, s.me.xr, s.me.sysReg 0x53, [], [], [], [], [], none, []⟩

/-- ACLD, ACST and ACSTA ask for the port of their plane in the next cycle, and write no memory as they issue; a row or a plane that
the context may not reach traps ACC_BOUNDS (10 R217, R218, R220). -/
def Obligations.AccumulatorWordsAskForAPort : Prop :=
  ∀ (s : State) (i : Instr) (op : AccOp) (hi : Bool) (p : Fin 64) (row : RowSel) (w : XIn) (r : FDst),
    AccRow s.me i op hi p row w r → xGo s w →
    (128 ≤ rowOf s.me row ∨ s.me.planeOk p.val = false → ∃ t, exec i s = .next t ∧ xTrapped s t .accBounds 0)
    ∧ (rowOf s.me row < 128 → s.me.planeOk p.val = true →
        s.mxConflict s.who.core p.val (rowOf s.me row) (if hi then 64 else 0) (op != .load) = false →
        (op = .store ∨ s.rowEcc s.myTile p.val (rowOf s.me row) (if hi then 64 else 0) = false) →
        ∃ t, exec i s = .next t ∧ memSame s t ∧ (∀ n, n ≠ s.who.core → t.core n = s.core n) ∧ popped s.me t.me w.srcs
          ∧ keptEntries s.me t.me ∧ t.tile s.myTile = { s.tile s.myTile with ports := (s.tile s.myTile).ports ++ [⟨s.who.core, s.me.xr.nextId, op, p.val,
              rowOf s.me row, if hi then 64 else 0, (s.me.srcVals w.srcs []).getD 0 0, s.me.xRnd, s.me.xSat, s.now + 1⟩] }
          ∧ (∀ k, k ≠ s.myTile → t.tile k = s.tile k)
          ∧ t.me = { s.me with
              scales := t.me.scales
              q := { s.me.q with ld := t.me.q.ld, st := slotted s.me r }
              xr := { s.me.xr with
                nextId := s.me.xr.nextId + 1,
                flights := s.me.xr.flights ++ (if op = .load then [⟨s.me.xr.nextId, some (s.now + 5), none, r, .none, false⟩] else []) }
              xo := { s.me.xo with pos := t.me.xo.pos } }
          ∧ (2 * (s.now + 1), Event.accumulatorPortGrant s.myTile p.val) ∈ t.agenda)

/-- Phase 1 of a commit asks the homes one after the other and goes on or traps by their answers; phase 2 makes the held effects
visible and nothing else; a run's end takes the exit that fired (05 R96 to R102, R110).
Rests on the model's reading of notes/assumptions/13.md, notes/assumptions/21.md, notes/assumptions/35.md,
notes/assumptions/41.md, notes/assumptions/49.md, notes/assumptions/59.md, notes/assumptions/62.md. -/
def Obligations.CommitAndRunEndEvents : Prop :=
  ∀ (s : State) (i : Instr) (P : State → Prop), CommitEventRow s i P → ∃ t, exec i s = .next t ∧ P t

/-- Dispatches start, results land, queue entries become ready, stores reach memory, walks end, accumulator ports serve rows, records
are merged and read: each event does its part and leaves the rest (05 R109, R115; 07 R140 to R150; 08 R176; 10 R218, R220; 13 R287).
Rests on the model's reading of notes/assumptions/9.md, notes/assumptions/10.md, notes/assumptions/21.md, notes/assumptions/54.md,
notes/assumptions/64.md. -/
def Obligations.CycleEvents : Prop :=
  ∀ (s : State) (i : Instr) (P : State → Prop), CycleEventRow s i P → ∃ t, exec i s = .next t ∧ P t

/-- The matrix array and the copy engine serve their commands: grants, acquires, starts, completions, stops, and the states of a tail
segment (09 R187, R194, R202, R204, R209, R214; 11 R239 to R257; 15 R334).
Rests on the model's reading of notes/assumptions/21.md, notes/assumptions/39.md, notes/assumptions/48.md, notes/assumptions/51.md,
notes/assumptions/52.md, notes/assumptions/53.md, notes/assumptions/54.md. -/
def Obligations.EngineEvents : Prop :=
  ∀ (s : State) (i : Instr) (P : State → Prop), EngineEventRow s i P → ∃ t, exec i s = .next t ∧ P t

/-- Orbits stop, resume, align and break their wait; the schedule counter stands still in a stopped orbit; posts reach their slots and
lateness raises the wire or traps (12 R269; 14 R313 to R317).
Rests on the model's reading of notes/assumptions/24.md, notes/assumptions/26.md, notes/assumptions/36.md, notes/assumptions/65.md. -/
def Obligations.OrbitEvents : Prop :=
  ∀ (s : State) (i : Instr) (P : State → Prop), OrbitEventRow s i P → ∃ t, exec i s = .next t ∧ P t

/-- Records start or fault, arms age, overlays load, handlers start and return, contexts end and give their core back (14 R302, R306 to
R312; 16 R342, R347).
Rests on the model's reading of notes/assumptions/3.md, notes/assumptions/20.md, notes/assumptions/23.md, notes/assumptions/27.md, notes/assumptions/42.md. -/
def Obligations.LaunchEvents : Prop :=
  ∀ (s : State) (i : Instr) (P : State → Prop), LaunchEventRow s i P → ∃ t, exec i s = .next t ∧ P t

/-- A trap is taken by the core's own handler or by the die management core; watchdogs, breakpoints and late safe points raise theirs;
contexts are pre-empted, saved and restored (16 R341 to R343, R351 to R354; 19 R390).
Rests on the model's reading of notes/assumptions/15.md, notes/assumptions/23.md, notes/assumptions/25.md, notes/assumptions/63.md,
notes/assumptions/64.md. -/
def Obligations.TrapEvents : Prop :=
  ∀ (s : State) (i : Instr) (P : State → Prop), TrapEventRow s i P → ∃ t, exec i s = .next t ∧ P t

/-- Lines are accessed, homes made and released, translations invalidated; heartbeats are sent, judged and voted on; suspect scores rise,
fall and quarantine (12 R271, R277, R279; 17 R358 to R373; 18 R378, R379).
Rests on the model's reading of notes/assumptions/16.md, notes/assumptions/28.md, notes/assumptions/29.md, notes/assumptions/50.md,
notes/assumptions/56.md. -/
def Obligations.TileEvents : Prop :=
  ∀ (s : State) (i : Instr) (P : State → Prop), TileEventRow s i P → ∃ t, exec i s = .next t ∧ P t

/-- The host reads and writes memory and registers, submits work, and starts the package; span links deliver; the power cap and the
clock move (19 R381 to R390).
Rests on the model's reading of notes/assumptions/11.md, notes/assumptions/12.md, notes/assumptions/17.md. -/
def Obligations.HostEvents : Prop :=
  ∀ (s : State) (i : Instr) (P : State → Prop), HostEventRow s i P → ∃ t, exec i s = .next t ∧ P t
end

