-- ==== Sys2Proof/Laws/Values.lean ====
section
/-! SUPPORT. The arithmetic of the register words as the integers of the operands give it (06 R123 to R125). -/

namespace Sys2Proof.Machine

/-- The subtraction of the model is that of the naturals. -/
theorem minus_eq (a b : Nat) : minus a b = a - b := by unfold minus; omega

theorem ofInt_sub_toInt (x y : Word) : BitVec.ofInt 64 (x.toInt - y.toInt) = x - y := by
  rw [← BitVec.toInt_inj]; simp [BitVec.toInt_sub]
theorem sdiv_eq_ofInt (x y : Word) : x.sdiv y = BitVec.ofInt 64 (x.toInt.tdiv y.toInt) := by
  rw [← BitVec.toInt_inj]; simp [BitVec.toInt_sdiv]
theorem udiv_eq_ofNat (x y : Word) : x / y = BitVec.ofNat 64 (x.toNat / y.toNat) := by
  rw [← BitVec.toNat_inj, BitVec.toNat_ofNat, Nat.mod_eq_of_lt (Nat.lt_of_le_of_lt (Nat.div_le_self _ _) x.isLt)]; rfl
theorem srem_eq_ofInt (x y : Word) : x.srem y = BitVec.ofInt 64 (x.toInt - y.toInt * x.toInt.tdiv y.toInt) := by
  rw [← Int.tmod_def, ← BitVec.toInt_srem, BitVec.ofInt_toInt]
theorem umod_eq_ofNat (x y : Word) : x % y = BitVec.ofNat 64 (x.toNat - y.toNat * (x.toNat / y.toNat)) := by
  rw [← BitVec.toNat_inj]
  have := Nat.div_add_mod x.toNat y.toNat
  have h2 : x.toNat - y.toNat * (x.toNat / y.toNat) = x.toNat % y.toNat := by omega
  rw [h2]; simp
  have := Nat.mod_le x.toNat y.toNat; omega
theorem shiftLeft_eq_ofNat (x : Word) (n : Nat) : x <<< n = BitVec.ofNat 64 (x.toNat * 2 ^ n) := by
  rw [← BitVec.toNat_inj]; simp [Nat.shiftLeft_eq]
theorem ushiftRight_eq_ofNat (x : Word) (n : Nat) : x >>> n = BitVec.ofNat 64 (x.toNat / 2 ^ n) := by
  rw [← BitVec.toNat_inj, BitVec.toNat_ofNat, Nat.mod_eq_of_lt (Nat.lt_of_le_of_lt (Nat.div_le_self _ _) x.isLt),
    BitVec.toNat_ushiftRight, Nat.shiftRight_eq_div_pow]
theorem sshiftRight_eq_ofInt (x : Word) (n : Nat) : x.sshiftRight n = BitVec.ofInt 64 (x.toInt / 2 ^ n) := by
  rw [← BitVec.toInt_inj, BitVec.toInt_sshiftRight, BitVec.toInt_ofInt, Int.shiftRight_eq_div_pow]
  have h : BitVec.ofInt 64 (x.toInt >>> n) = x.sshiftRight n := by
    simp [BitVec.sshiftRight]
  have h2 := congrArg BitVec.toInt h
  rw [BitVec.toInt_ofInt, BitVec.toInt_sshiftRight, Int.shiftRight_eq_div_pow] at h2
  exact_mod_cast h2.symm
theorem minS_eq_ofInt (x y : Word) : minS x y = BitVec.ofInt 64 (min x.toInt y.toInt) := by
  unfold minS; rw [BitVec.slt_eq_decide]; simp only [decide_eq_true_eq]
  split
  · rw [min_eq_left (by omega)]; simp
  · rw [min_eq_right (by omega)]; simp
theorem maxS_eq_ofInt (x y : Word) : maxS x y = BitVec.ofInt 64 (max x.toInt y.toInt) := by
  unfold maxS; rw [BitVec.slt_eq_decide]; simp only [decide_eq_true_eq]
  split
  · rw [max_eq_right (by omega)]; simp
  · rw [max_eq_left (by omega)]; simp
theorem minU_eq_ofNat (x y : Word) : minU x y = BitVec.ofNat 64 (min x.toNat y.toNat) := by
  unfold minU; rw [BitVec.ult_eq_decide]; simp only [decide_eq_true_eq]
  split
  · rw [min_eq_left (by omega)]; simp
  · rw [min_eq_right (by omega)]; simp
theorem maxU_eq_ofNat (x y : Word) : maxU x y = BitVec.ofNat 64 (max x.toNat y.toNat) := by
  unfold maxU; rw [BitVec.ult_eq_decide]; simp only [decide_eq_true_eq]
  split
  · rw [max_eq_right (by omega)]; simp
  · rw [max_eq_left (by omega)]; simp
theorem find_getD_eq_takeWhile (p : Nat → Bool) (m : Nat) : ∀ n, (((List.range' m n).find? p).getD (m + n)) = m + ((List.range' m n).takeWhile (fun k => !p k)).length := by
  intro n
  induction n generalizing m with
  | zero => simp
  | succ n ih =>
    rw [List.range'_succ, List.find?_cons, List.takeWhile_cons]
    cases h : p m
    · simp
      have := ih (m + 1)
      rw [show m + 1 + n = m + (n + 1) by omega] at this
      rw [this]; omega
    · simp
theorem ctz_eq_takeWhile (x : Word) : ctz x = ((List.range 64).takeWhile (fun k => !x.getLsbD k)).length := by
  unfold ctz
  have := find_getD_eq_takeWhile (fun k => x.getLsbD k) 0 64
  simpa [List.range_eq_range'] using this
theorem popc_eq_sum (x : Word) : popc x = ((List.range 64).map (fun k => if x.getLsbD k then 1 else 0)).sum := by
  unfold popc
  generalize List.range 64 = l
  induction l with
  | nil => rfl
  | cons a t ih => simp only [List.countP_cons, List.map_cons, List.sum_cons, ih]; omega
theorem clz_eq_takeWhile (x : Word) : clz x = ((List.range 64).takeWhile (fun k => !x.getLsbD (63 - k))).length := by
  unfold clz
  have h := find_getD_eq_takeWhile (fun k => x.getLsbD (63 - k)) 0 64
  simp only [Nat.zero_add, ← List.range_eq_range'] at h
  rw [← h]
  by_cases hx : x = 0
  · subst hx; decide
  · rw [if_neg hx]
    have hn : x.toNat ≠ 0 := fun e => hx (by rw [← BitVec.toNat_inj]; simpa using e)
    have hlt : Nat.log2 x.toNat < 64 := (Nat.log2_lt hn).2 x.isLt
    have hb : x.getLsbD (Nat.log2 x.toNat) = true := by
      rw [BitVec.getLsbD]; exact Nat.testBit_log2 hn
    have hhi : ∀ k, k > Nat.log2 x.toNat → x.getLsbD k = false := by
      intro k hk
      rw [BitVec.getLsbD]; apply Nat.testBit_lt_two_pow
      exact Nat.lt_of_lt_of_le Nat.lt_log2_self (Nat.pow_le_pow_right (by omega) hk)
    have : (List.range 64).find? (fun k => x.getLsbD (63 - k)) = some (63 - Nat.log2 x.toNat) := by
      rw [List.find?_range_eq_some]
      refine ⟨?_, ?_, ?_⟩
      · rw [show 63 - (63 - Nat.log2 x.toNat) = Nat.log2 x.toNat by omega]; exact hb
      · simp; omega
      · intro j hj; simp [hhi (63 - j) (by omega)]
    rw [this]; rfl
theorem zextTo_eq_ofNat (x : Word) (n : Nat) : zextTo n x = BitVec.ofNat 64 (x.toNat % 2 ^ n) := by
  rw [← BitVec.toNat_inj]; simp [zextTo]
theorem signExtend_eq_ofInt {n : Nat} (x : BitVec n) : x.signExtend 64 = BitVec.ofInt 64 x.toInt := by
  rw [BitVec.signExtend]
theorem append_zero_signExtend (x : BitVec 16) : (x ++ 0#16).signExtend 64 = BitVec.ofInt 64 (x.toInt * 2 ^ 16) := by
  rw [BitVec.signExtend]; congr 1
  have h := x.isLt
  have ha : (x ++ 0#16).toNat = x.toNat * 65536 := by rw [BitVec.toNat_append]; simp [Nat.shiftLeft_eq]
  rw [BitVec.toInt_eq_toNat_cond, BitVec.toInt_eq_toNat_cond, ha]
  split <;> split <;> omega

end Sys2Proof.Machine
end

