-- ==== Sys2Proof/Laws/Bits.lean ====
section
/-! SUPPORT. Fields of a number: what a field reads after another has been written, bit by bit. -/

namespace Sys2Proof.Laws

open Sys2Proof.Machine Sys2Proof.Claims

theorem field_testBit (n lo w i : Nat) : (field n lo w).testBit i = (decide (i < w) && n.testBit (lo + i)) := by
  unfold field; rw [Nat.testBit_mod_two_pow, Nat.testBit_div_two_pow, Nat.add_comm]
theorem store_testBit (n lo w v i : Nat) :
    (n - field n lo w * 2 ^ lo + v % 2 ^ w * 2 ^ lo).testBit i = if lo ≤ i ∧ i < lo + w then v.testBit (i - lo) else n.testBit i := by
  have h0 : n = (n / 2 ^ lo / 2 ^ w * 2 ^ w + field n lo w) * 2 ^ lo + n % 2 ^ lo := by
    unfold field; have := Nat.div_add_mod (n / 2 ^ lo) (2 ^ w); have h2 := Nat.div_add_mod n (2 ^ lo)
    rw [Nat.mul_comm (n / 2 ^ lo / 2 ^ w), this, Nat.mul_comm]; exact h2.symm
  have h1 : n - field n lo w * 2 ^ lo + v % 2 ^ w * 2 ^ lo = 2 ^ lo * (2 ^ w * (n / 2 ^ lo / 2 ^ w) + v % 2 ^ w) + n % 2 ^ lo := by
    have h2 : n = n / 2 ^ lo / 2 ^ w * 2 ^ w * 2 ^ lo + field n lo w * 2 ^ lo + n % 2 ^ lo := by rw [← Nat.add_mul]; exact h0
    have h3 : 2 ^ lo * (2 ^ w * (n / 2 ^ lo / 2 ^ w) + v % 2 ^ w) = n / 2 ^ lo / 2 ^ w * 2 ^ w * 2 ^ lo + v % 2 ^ w * 2 ^ lo := by ring
    rw [h3]
    generalize n / 2 ^ lo / 2 ^ w * 2 ^ w * 2 ^ lo = A at *
    generalize field n lo w * 2 ^ lo = B at *
    generalize v % 2 ^ w * 2 ^ lo = C at *
    omega
  rw [h1, Nat.testBit_two_pow_mul_add _ (Nat.mod_lt _ (Nat.two_pow_pos _))]
  by_cases hl : i < lo
  · rw [if_pos hl, if_neg (by omega), Nat.testBit_mod_two_pow]; simp [hl]
  · rw [if_neg hl, Nat.testBit_two_pow_mul_add _ (Nat.mod_lt _ (Nat.two_pow_pos _))]
    by_cases hw : i - lo < w
    · rw [if_pos hw, if_pos (by omega), Nat.testBit_mod_two_pow]; simp [hw]
    · rw [if_neg hw, if_neg (by omega), Nat.testBit_div_two_pow, Nat.testBit_div_two_pow]; congr 1; omega

theorem field_store (n lo w v lo' w' : Nat) (h : lo' + w' ≤ lo ∨ lo + w ≤ lo') :
    field (n - field n lo w * 2 ^ lo + v % 2 ^ w * 2 ^ lo) lo' w' = field n lo' w' := by
  apply Nat.eq_of_testBit_eq; intro i
  rw [field_testBit, field_testBit, store_testBit]
  by_cases hi : i < w'
  · rw [if_neg (by omega)]
  · simp [hi]
theorem field_store_self (n lo w v : Nat) : field (n - field n lo w * 2 ^ lo + v % 2 ^ w * 2 ^ lo) lo w = v % 2 ^ w := by
  apply Nat.eq_of_testBit_eq; intro i
  rw [field_testBit, store_testBit, Nat.testBit_mod_two_pow]
  by_cases hi : i < w
  · rw [if_pos (by omega)]; simp
  · simp [hi]
theorem bitOf_testBit (n k : Nat) : bitOf n k = n.testBit k := by
  unfold bitOf; rw [Nat.testBit_eq_decide_div_mod_eq]; simp [BEq.beq]
theorem b2n_bit (b : Bool) : b2n b % 2 ^ 1 = b2n b := by cases b <;> rfl
theorem b2n_field (n k : Nat) : b2n (bitOf n k) = field n k 1 := by
  unfold b2n bitOf field; have := Nat.mod_lt (n / 2 ^ k) (by decide : 2 > 0)
  by_cases h : n / 2 ^ k % 2 = 1
  · simp [h]
  · simp [h]; omega
theorem setBit_testBit (v k i : Nat) (b : Bool) : (setBit v k b).testBit i = if i = k then b else v.testBit i := by
  unfold setBit; rw [b2n_field, ← b2n_bit b, store_testBit]
  by_cases h : i = k
  · subst h; rw [if_pos (by omega), if_pos rfl]; cases b <;> simp [b2n]
  · rw [if_neg (by omega), if_neg h]

end Sys2Proof.Laws
end

