-- ==== Sys2Proof/Laws/Dispatch.lean ====
section
/-! SUPPORT. Each arm of the dispatch as an equation. -/

namespace Sys2Proof.Machine

theorem exec_add (g : Guard) (d : Reg) (a : Reg) (b : Reg) (st : State) : exec (.add g d a b) st = execAdd g d a b st := rfl
theorem exec_sub (g : Guard) (d : Reg) (a : Reg) (b : Reg) (st : State) : exec (.sub g d a b) st = execSub g d a b st := rfl
theorem exec_mul (g : Guard) (d : Reg) (a : Reg) (b : Reg) (st : State) : exec (.mul g d a b) st = execMul g d a b st := rfl
theorem exec_mulh (g : Guard) (d : Reg) (a : Reg) (b : Reg) (st : State) : exec (.mulh g d a b) st = execMulh g d a b st := rfl
theorem exec_mulhu (g : Guard) (d : Reg) (a : Reg) (b : Reg) (st : State) : exec (.mulhu g d a b) st = execMulhu g d a b st := rfl
theorem exec_div (g : Guard) (d : Reg) (a : Reg) (b : Reg) (st : State) : exec (.div g d a b) st = execDiv g d a b st := rfl
theorem exec_divu (g : Guard) (d : Reg) (a : Reg) (b : Reg) (st : State) : exec (.divu g d a b) st = execDivu g d a b st := rfl
theorem exec_rem (g : Guard) (d : Reg) (a : Reg) (b : Reg) (st : State) : exec (.rem g d a b) st = execRem g d a b st := rfl
theorem exec_remu (g : Guard) (d : Reg) (a : Reg) (b : Reg) (st : State) : exec (.remu g d a b) st = execRemu g d a b st := rfl
theorem exec_and (g : Guard) (d : Reg) (a : Reg) (b : Reg) (st : State) : exec (.and g d a b) st = execAnd g d a b st := rfl
theorem exec_or (g : Guard) (d : Reg) (a : Reg) (b : Reg) (st : State) : exec (.or g d a b) st = execOr g d a b st := rfl
theorem exec_xor (g : Guard) (d : Reg) (a : Reg) (b : Reg) (st : State) : exec (.xor g d a b) st = execXor g d a b st := rfl
theorem exec_andn (g : Guard) (d : Reg) (a : Reg) (b : Reg) (st : State) : exec (.andn g d a b) st = execAndn g d a b st := rfl
theorem exec_shl (g : Guard) (d : Reg) (a : Reg) (b : Reg) (st : State) : exec (.shl g d a b) st = execShl g d a b st := rfl
theorem exec_shr (g : Guard) (d : Reg) (a : Reg) (b : Reg) (st : State) : exec (.shr g d a b) st = execShr g d a b st := rfl
theorem exec_sra (g : Guard) (d : Reg) (a : Reg) (b : Reg) (st : State) : exec (.sra g d a b) st = execSra g d a b st := rfl
theorem exec_min (g : Guard) (d : Reg) (a : Reg) (b : Reg) (st : State) : exec (.min g d a b) st = execMin g d a b st := rfl
theorem exec_max (g : Guard) (d : Reg) (a : Reg) (b : Reg) (st : State) : exec (.max g d a b) st = execMax g d a b st := rfl
theorem exec_minu (g : Guard) (d : Reg) (a : Reg) (b : Reg) (st : State) : exec (.minu g d a b) st = execMinu g d a b st := rfl
theorem exec_maxu (g : Guard) (d : Reg) (a : Reg) (b : Reg) (st : State) : exec (.maxu g d a b) st = execMaxu g d a b st := rfl
theorem exec_clz (g : Guard) (d : Reg) (a : Reg) (st : State) : exec (.clz g d a) st = execClz g d a st := rfl
theorem exec_ctz (g : Guard) (d : Reg) (a : Reg) (st : State) : exec (.ctz g d a) st = execCtz g d a st := rfl
theorem exec_popc (g : Guard) (d : Reg) (a : Reg) (st : State) : exec (.popc g d a) st = execPopc g d a st := rfl
theorem exec_sext (g : Guard) (d : Reg) (a : Reg) (wd : ExtW) (st : State) : exec (.sext g d a wd) st = execSext g d a wd st := rfl
theorem exec_zext (g : Guard) (d : Reg) (a : Reg) (wd : ExtW) (st : State) : exec (.zext g d a wd) st = execZext g d a wd st := rfl
theorem exec_sel (g : Guard) (p : N8) (d : Reg) (a : Reg) (b : Reg) (st : State) : exec (.sel g p d a b) st = execSel g p d a b st := rfl
theorem exec_aadd (g : Guard) (d : Reg) (a : Reg) (b : Reg) (st : State) : exec (.aadd g d a b) st = execAadd g d a b st := rfl
theorem exec_asub (g : Guard) (d : Reg) (a : Reg) (b : Reg) (st : State) : exec (.asub g d a b) st = execAsub g d a b st := rfl
theorem exec_amul (g : Guard) (d : Reg) (a : Reg) (b : Reg) (st : State) : exec (.amul g d a b) st = execAmul g d a b st := rfl
theorem exec_aand (g : Guard) (d : Reg) (a : Reg) (b : Reg) (st : State) : exec (.aand g d a b) st = execAand g d a b st := rfl
theorem exec_aor (g : Guard) (d : Reg) (a : Reg) (b : Reg) (st : State) : exec (.aor g d a b) st = execAor g d a b st := rfl
theorem exec_amin (g : Guard) (d : Reg) (a : Reg) (b : Reg) (st : State) : exec (.amin g d a b) st = execAmin g d a b st := rfl
theorem exec_amax (g : Guard) (d : Reg) (a : Reg) (b : Reg) (st : State) : exec (.amax g d a b) st = execAmax g d a b st := rfl
theorem exec_addi (g : Guard) (d : Reg) (a : Reg) (imm : BitVec 11) (st : State) : exec (.addi g d a imm) st = execAddi g d a imm st := rfl
theorem exec_andi (g : Guard) (d : Reg) (a : Reg) (imm : BitVec 11) (st : State) : exec (.andi g d a imm) st = execAndi g d a imm st := rfl
theorem exec_ori (g : Guard) (d : Reg) (a : Reg) (imm : BitVec 11) (st : State) : exec (.ori g d a imm) st = execOri g d a imm st := rfl
theorem exec_xori (g : Guard) (d : Reg) (a : Reg) (imm : BitVec 11) (st : State) : exec (.xori g d a imm) st = execXori g d a imm st := rfl
theorem exec_shli (g : Guard) (d : Reg) (a : Reg) (sh : Fin 64) (st : State) : exec (.shli g d a sh) st = execShli g d a sh st := rfl
theorem exec_shri (g : Guard) (d : Reg) (a : Reg) (sh : Fin 64) (st : State) : exec (.shri g d a sh) st = execShri g d a sh st := rfl
theorem exec_srai (g : Guard) (d : Reg) (a : Reg) (sh : Fin 64) (st : State) : exec (.srai g d a sh) st = execSrai g d a sh st := rfl
theorem exec_li (g : Guard) (d : Reg) (imm : BitVec 16) (st : State) : exec (.li g d imm) st = execLi g d imm st := rfl
theorem exec_lui (g : Guard) (d : Reg) (imm : BitVec 16) (st : State) : exec (.lui g d imm) st = execLui g d imm st := rfl
theorem exec_aaddi (g : Guard) (d : Reg) (a : Reg) (imm : BitVec 11) (st : State) : exec (.aaddi g d a imm) st = execAaddi g d a imm st := rfl
theorem exec_ashli (g : Guard) (d : Reg) (a : Reg) (sh : Fin 64) (st : State) : exec (.ashli g d a sh) st = execAshli g d a sh st := rfl
theorem exec_ashri (g : Guard) (d : Reg) (a : Reg) (sh : Fin 64) (st : State) : exec (.ashri g d a sh) st = execAshri g d a sh st := rfl
theorem exec_ali (g : Guard) (d : Reg) (imm : BitVec 16) (st : State) : exec (.ali g d imm) st = execAli g d imm st := rfl
theorem exec_alui (g : Guard) (d : Reg) (imm : BitVec 16) (st : State) : exec (.alui g d imm) st = execAlui g d imm st := rfl
theorem exec_addiShort (d : Reg) (imm : BitVec 6) (st : State) : exec (.addiShort d imm) st = execAddiShort d imm st := rfl
theorem exec_liShort (d : Reg) (imm : BitVec 6) (st : State) : exec (.liShort d imm) st = execLiShort d imm st := rfl
theorem exec_addShort (d : Reg) (b : Reg) (st : State) : exec (.addShort d b) st = execAddShort d b st := rfl
theorem exec_subShort (d : Reg) (b : Reg) (st : State) : exec (.subShort d b) st = execSubShort d b st := rfl
theorem exec_aaddiShort (d : Reg) (imm : BitVec 6) (st : State) : exec (.aaddiShort d imm) st = execAaddiShort d imm st := rfl
theorem exec_aliShort (d : Reg) (imm : BitVec 6) (st : State) : exec (.aliShort d imm) st = execAliShort d imm st := rfl
theorem exec_cmp (g : Guard) (cc : Cond) (pd : N8) (a : Reg) (b : Reg) (st : State) : exec (.cmp g cc pd a b) st = execCmp g cc pd a b st := rfl
theorem exec_cmpi (g : Guard) (cc : Cond) (pd : N8) (a : Reg) (imm : BitVec 8) (st : State) : exec (.cmpi g cc pd a imm) st = execCmpi g cc pd a imm st := rfl
theorem exec_acmp (g : Guard) (cc : Cond) (pd : N8) (a : Reg) (b : Reg) (st : State) : exec (.acmp g cc pd a b) st = execAcmp g cc pd a b st := rfl
theorem exec_acmpi (g : Guard) (cc : Cond) (pd : N8) (a : Reg) (imm : BitVec 8) (st : State) : exec (.acmpi g cc pd a imm) st = execAcmpi g cc pd a imm st := rfl
theorem exec_pand (g : Guard) (pd : N8) (pa : N8) (pb : N8) (st : State) : exec (.pand g pd pa pb) st = execPand g pd pa pb st := rfl
theorem exec_por (g : Guard) (pd : N8) (pa : N8) (pb : N8) (st : State) : exec (.por g pd pa pb) st = execPor g pd pa pb st := rfl
theorem exec_pxor (g : Guard) (pd : N8) (pa : N8) (pb : N8) (st : State) : exec (.pxor g pd pa pb) st = execPxor g pd pa pb st := rfl
theorem exec_pnot (g : Guard) (pd : N8) (pa : N8) (st : State) : exec (.pnot g pd pa) st = execPnot g pd pa st := rfl
theorem exec_pmov (g : Guard) (pd : N8) (pa : N8) (st : State) : exec (.pmov g pd pa) st = execPmov g pd pa st := rfl
theorem exec_ld (g : Guard) (wd : MemW) (r : Reg) (b : Reg) (disp : BitVec 8) (st : State) : exec (.ld g wd r b disp) st = execLd g wd r b disp st := rfl
theorem exec_st (g : Guard) (wd : MemW) (r : Reg) (b : Reg) (disp : BitVec 8) (st : State) : exec (.st g wd r b disp) st = execSt g wd r b disp st := rfl
theorem exec_lds (g : Guard) (wd : MemW) (r : Reg) (b : Reg) (disp : BitVec 8) (st : State) : exec (.lds g wd r b disp) st = execLds g wd r b disp st := rfl
theorem exec_sts (g : Guard) (wd : MemW) (r : Reg) (b : Reg) (disp : BitVec 8) (st : State) : exec (.sts g wd r b disp) st = execSts g wd r b disp st := rfl
theorem exec_exitC (g : Guard) (off : BitVec 21) (st : State) : exec (.exitC g off) st = execExitC g off st := rfl
theorem exec_exitCShort (g : Guard) (off : BitVec 7) (st : State) : exec (.exitCShort g off) st = execExitCShort g off st := rfl
theorem exec_exits (g : Guard) (a : Reg) (st : State) : exec (.exits g a) st = execExits g a st := rfl
theorem exec_call (g : Guard) (off : BitVec 21) (st : State) : exec (.call g off) st = execCall g off st := rfl
theorem exec_ret (g : Guard) (st : State) : exec (.ret g) st = execRet g st := rfl
theorem exec_retShort (st : State) : exec (.retShort) st = execRetShort st := rfl
theorem exec_dispA (g : Guard) (narg : Fin 5) (desc : Fin 64) (entry : BitVec 12) (st : State) : exec (.dispA g narg desc entry) st = execDispA g narg desc entry st := rfl
theorem exec_dispX (g : Guard) (narg : Fin 5) (desc : Fin 64) (entry : BitVec 12) (st : State) : exec (.dispX g narg desc entry) st = execDispX g narg desc entry st := rfl
theorem exec_djoin (g : Guard) (x : Bool) (a : Bool) (st : State) : exec (.djoin g x a) st = execDjoin g x a st := rfl
theorem exec_ovswap (g : Guard) (a : Reg) (st : State) : exec (.ovswap g a) st = execOvswap g a st := rfl
theorem exec_amadd (g : Guard) (dw : Bool) (d : Reg) (a : Reg) (b : Reg) (st : State) : exec (.amadd g dw d a b) st = execAmadd g dw d a b st := rfl
theorem exec_ammin (g : Guard) (dw : Bool) (d : Reg) (a : Reg) (b : Reg) (st : State) : exec (.ammin g dw d a b) st = execAmmin g dw d a b st := rfl
theorem exec_ammax (g : Guard) (dw : Bool) (d : Reg) (a : Reg) (b : Reg) (st : State) : exec (.ammax g dw d a b) st = execAmmax g dw d a b st := rfl
theorem exec_amand (g : Guard) (dw : Bool) (d : Reg) (a : Reg) (b : Reg) (st : State) : exec (.amand g dw d a b) st = execAmand g dw d a b st := rfl
theorem exec_amor (g : Guard) (dw : Bool) (d : Reg) (a : Reg) (b : Reg) (st : State) : exec (.amor g dw d a b) st = execAmor g dw d a b st := rfl
theorem exec_amxor (g : Guard) (dw : Bool) (d : Reg) (a : Reg) (b : Reg) (st : State) : exec (.amxor g dw d a b) st = execAmxor g dw d a b st := rfl
theorem exec_amswp (g : Guard) (dw : Bool) (d : Reg) (a : Reg) (b : Reg) (st : State) : exec (.amswp g dw d a b) st = execAmswp g dw d a b st := rfl
theorem exec_amcas (g : Guard) (dw : Bool) (d : Reg) (a : Reg) (b : Reg) (st : State) : exec (.amcas g dw d a b) st = execAmcas g dw d a b st := rfl
theorem exec_bind (g : Guard) (o : Reg) (b : Reg) (len : Reg) (st : State) : exec (.bind g o b len) st = execBind g o b len st := rfl
theorem exec_unbind (g : Guard) (o : Reg) (st : State) : exec (.unbind g o) st = execUnbind g o st := rfl
theorem exec_acq (g : Guard) (o : Reg) (sc : Scope) (st : State) : exec (.acq g o sc) st = execAcq g o sc st := rfl
theorem exec_rel (g : Guard) (o : Reg) (sc : Scope) (st : State) : exec (.rel g o sc) st = execRel g o sc st := rfl
theorem exec_fence (g : Guard) (sc : Scope) (st : State) : exec (.fence g sc) st = execFence g sc st := rfl
theorem exec_syzy (st : State) : exec (.syzy) st = execSyzy st := rfl
theorem exec_rdsc (g : Guard) (d : Reg) (st : State) : exec (.rdsc g d) st = execRdsc g d st := rfl
theorem exec_waitsc (g : Guard) (a : Reg) (st : State) : exec (.waitsc g a) st = execWaitsc g a st := rfl
theorem exec_post (g : Guard) (addr : Reg) (v : Reg) (lat : BitVec 11) (st : State) : exec (.post g addr v lat) st = execPost g addr v lat st := rfl
theorem exec_mbrd (g : Guard) (d : Reg) (addr : Reg) (st : State) : exec (.mbrd g d addr) st = execMbrd g d addr st := rfl
theorem exec_lrpatch (g : Guard) (v : Reg) (r : Reg) (f : Fin 31) (st : State) : exec (.lrpatch g v r f) st = execLrpatch g v r f st := rfl
theorem exec_lrarm (g : Guard) (r : Reg) (st : State) : exec (.lrarm g r) st = execLrarm g r st := rfl
theorem exec_childq (g : Guard) (r : Reg) (st : State) : exec (.childq g r) st = execChildq g r st := rfl
theorem exec_widf (g : Guard) (d : Reg) (lev : Fin 6) (st : State) : exec (.widf g d lev) st = execWidf g d lev st := rfl
theorem exec_lease (g : Guard) (st : State) : exec (.lease g) st = execLease g st := rfl
theorem exec_unlease (g : Guard) (st : State) : exec (.unlease g) st = execUnlease g st := rfl
theorem exec_shld (g : Guard) (sh : N16) (b : Reg) (disp : BitVec 11) (st : State) : exec (.shld g sh b disp) st = execShld g sh b disp st := rfl
theorem exec_shst (g : Guard) (sh : N16) (b : Reg) (disp : BitVec 11) (st : State) : exec (.shst g sh b disp) st = execShst g sh b disp st := rfl
theorem exec_shset (g : Guard) (v : Reg) (sh : N16) (f : ShField) (st : State) : exec (.shset g v sh f) st = execShset g v sh f st := rfl
theorem exec_shget (g : Guard) (v : Reg) (sh : N16) (f : ShField) (st : State) : exec (.shget g v sh f) st = execShget g v sh f st := rfl
theorem exec_albinit (g : Guard) (n : Reg) (trapen : Bool) (st : State) : exec (.albinit g n trapen) st = execAlbinit g n trapen st := rfl
theorem exec_albsettle (g : Guard) (n : Reg) (st : State) : exec (.albsettle g n) st = execAlbsettle g n st := rfl
theorem exec_albrd (g : Guard) (d : Reg) (n : Reg) (idx : N16) (st : State) : exec (.albrd g d n idx) st = execAlbrd g d n idx st := rfl
theorem exec_trap (g : Guard) (code : BitVec 8) (st : State) : exec (.trap g code) st = execTrap g code st := rfl
theorem exec_rft (g : Guard) (st : State) : exec (.rft g) st = execRft g st := rfl
theorem exec_safept (g : Guard) (orbit : Bool) (live : BitVec 8) (st : State) : exec (.safept g orbit live) st = execSafept g orbit live st := rfl
theorem exec_corerst (g : Guard) (r : Reg) (st : State) : exec (.corerst g r) st = execCorerst g r st := rfl
theorem exec_halt (g : Guard) (st : State) : exec (.halt g) st = execHalt g st := rfl
theorem exec_nop (g : Guard) (st : State) : exec (.nop g) st = execNop g st := rfl
theorem exec_srd (g : Guard) (d : Reg) (idx : Fin 1024) (st : State) : exec (.srd g d idx) st = execSrd g d idx st := rfl
theorem exec_swr (g : Guard) (a : Reg) (idx : Fin 1024) (st : State) : exec (.swr g a idx) st = execSwr g a idx st := rfl
theorem exec_sealopPut (g : Guard) (a : Reg) (st : State) : exec (.sealopPut g a) st = execSealopPut g a st := rfl
theorem exec_sealopCheck (g : Guard) (a : Reg) (st : State) : exec (.sealopCheck g a) st = execSealopCheck g a st := rfl
theorem exec_bqPopRead (g : Guard) (d : Reg) (bq3 : Bool) (st : State) : exec (.bqPopRead g d bq3) st = execBqPopRead g d bq3 st := rfl
theorem exec_sealRead (g : Guard) (d : Reg) (st : State) : exec (.sealRead g d) st = execSealRead g d st := rfl
theorem exec_blockHeader (rot : Bool) (atom : Bool) (len : Fin 128) (rep : BitVec 16) (st : State) : exec (.blockHeader rot atom len rep) st = execBlockHeader rot atom len rep st := rfl
theorem exec_pfx (rnd : N8) (msel : N8) (iq : N16) (sat : Bool) (st : State) : exec (.pfx rnd msel iq sat) st = execPfx rnd msel iq sat st := rfl
theorem exec_pfxGuarded (g : Guard) (rnd : N8) (iq : N16) (st : State) : exec (.pfxGuarded g rnd iq) st = execPfxGuarded g rnd iq st := rfl
theorem exec_nop16 (st : State) : exec (.nop16) st = execNop16 st := rfl
theorem exec_ldq (g : Guard) (q : N8) (b : Reg) (disp : BitVec 11) (st : State) : exec (.ldq g q b disp) st = execLdq g q b disp st := rfl
theorem exec_ldqShort (q : N8) (b : Reg) (disp : N8) (st : State) : exec (.ldqShort q b disp) st = execLdqShort q b disp st := rfl
theorem exec_ldqs (g : Guard) (q : N8) (b : Reg) (s : Reg) (st : State) : exec (.ldqs g q b s) st = execLdqs g q b s st := rfl
theorem exec_ldqb (g : Guard) (q : N8) (b : Reg) (disp : BitVec 11) (st : State) : exec (.ldqb g q b disp) st = execLdqb g q b disp st := rfl
theorem exec_gathq (g : Guard) (q : N8) (b : Reg) (x : Reg) (st : State) : exec (.gathq g q b x) st = execGathq g q b x st := rfl
theorem exec_stq (g : Guard) (q : N8) (b : Reg) (disp : BitVec 11) (st : State) : exec (.stq g q b disp) st = execStq g q b disp st := rfl
theorem exec_stqShort (q : N8) (b : Reg) (disp : N8) (st : State) : exec (.stqShort q b disp) st = execStqShort q b disp st := rfl
theorem exec_stqs (g : Guard) (q : N8) (b : Reg) (s : Reg) (st : State) : exec (.stqs g q b s) st = execStqs g q b s st := rfl
theorem exec_scatq (g : Guard) (q : N8) (b : Reg) (x : Reg) (st : State) : exec (.scatq g q b x) st = execScatq g q b x st := rfl
theorem exec_exitA (g : Guard) (off : BitVec 21) (st : State) : exec (.exitA g off) st = execExitA g off st := rfl
theorem exec_exitAShort (g : Guard) (off : BitVec 7) (st : State) : exec (.exitAShort g off) st = execExitAShort g off st := rfl
theorem exec_bqputA (g : Guard) (op : BqA) (q : Fin 4) (st : State) : exec (.bqputA g op q) st = execBqputA g op q st := rfl
theorem exec_bqputAShort (q : Fin 4) (p : N8) (st : State) : exec (.bqputAShort q p) st = execBqputAShort q p st := rfl
theorem exec_bqgetA (g : Guard) (op : BqA) (q : Fin 4) (st : State) : exec (.bqgetA g op q) st = execBqgetA g op q st := rfl
theorem exec_pgdist (g : Guard) (ch : Fin 14) (a : Reg) (st : State) : exec (.pgdist g ch a) st = execPgdist g ch a st := rfl
theorem exec_tagwany (g : Guard) (m : Reg) (st : State) : exec (.tagwany g m) st = execTagwany g m st := rfl
theorem exec_tagwall (g : Guard) (m : Reg) (st : State) : exec (.tagwall g m) st = execTagwall g m st := rfl
theorem exec_tagwallShort (m : Reg) (st : State) : exec (.tagwallShort m) st = execTagwallShort m st := rfl
theorem exec_tagffr (g : Guard) (d : Reg) (m : Reg) (st : State) : exec (.tagffr g d m) st = execTagffr g d m st := rfl
theorem exec_tagclr (g : Guard) (m : Reg) (st : State) : exec (.tagclr g m) st = execTagclr g m st := rfl
theorem exec_cpy (g : Guard) (d : N16) (s : N16) (t : Tag) (ord : OrdF) (guardChk : Bool) (expand : Bool) (st : State) : exec (.cpy g d s t ord guardChk expand) st = execCpy g d s t ord guardChk expand st := rfl
theorem exec_cpyg (g : Guard) (d : N16) (tab : N16) (t : Tag) (idx : N16) (st : State) : exec (.cpyg g d tab t idx) st = execCpyg g d tab t idx st := rfl
theorem exec_cpyr (g : Guard) (d : N16) (s : N16) (t : Tag) (ord : OrdF) (st : State) : exec (.cpyr g d s t ord) st = execCpyr g d s t ord st := rfl
theorem exec_tailput (g : Guard) (sh : N16) (r : Reg) (t : Tag) (st : State) : exec (.tailput g sh r t) st = execTailput g sh r t st := rfl
theorem exec_tailget (g : Guard) (sh : N16) (r : Reg) (t : Tag) (st : State) : exec (.tailget g sh r t) st = execTailget g sh r t st := rfl
theorem exec_offload (g : Guard) (r : Reg) (t : Tag) (st : State) : exec (.offload g r t) st = execOffload g r t st := rfl
theorem exec_recall (g : Guard) (r : Reg) (t : Tag) (st : State) : exec (.recall g r t) st = execRecall g r t st := rfl
theorem exec_mma (f : MFmt) (sa : N16) (sb : N16) (d : Reg) (hold : Bool) (ord : OrdF) (sq : Bool) (st : State) : exec (.mma f sa sb d hold ord sq) st = execMma f sa sb d hold ord sq st := rfl
theorem exec_mmas (f : MFmt) (sa : N16) (sb : N16) (d : Reg) (hold : Bool) (ord : OrdF) (sq : Bool) (st : State) : exec (.mmas f sa sb d hold ord sq) st = execMmas f sa sb d hold ord sq st := rfl
theorem exec_mzero (sh : N16) (d : Reg) (ord : OrdF) (st : State) : exec (.mzero sh d ord) st = execMzero sh d ord st := rfl
theorem exec_mdrain (m : DrainMode) (dst : N16) (mul : N16) (d : Reg) (ord : OrdF) (st : State) : exec (.mdrain m dst mul d ord) st = execMdrain m dst mul d ord st := rfl
theorem exec_mcommit (g : Guard) (b : N8) (st : State) : exec (.mcommit g b) st = execMcommit g b st := rfl
theorem exec_mwaitb (g : Guard) (b : N8) (st : State) : exec (.mwaitb g b) st = execMwaitb g b st := rfl
theorem exec_mstat (g : Guard) (pd : N8) (fault : Bool) (b : N8) (st : State) : exec (.mstat g pd fault b) st = execMstat g pd fault b st := rfl
theorem exec_vadd (f : Fmt) (dly : N8) (d : Dst) (a : Src) (b : Src) (me : Bool) (st : State) : exec (.vadd f dly d a b me) st = execVadd f dly d a b me st := rfl
theorem exec_vsub (f : Fmt) (dly : N8) (d : Dst) (a : Src) (b : Src) (me : Bool) (st : State) : exec (.vsub f dly d a b me) st = execVsub f dly d a b me st := rfl
theorem exec_vmul (f : Fmt) (dly : N8) (d : Dst) (a : Src) (b : Src) (me : Bool) (st : State) : exec (.vmul f dly d a b me) st = execVmul f dly d a b me st := rfl
theorem exec_vfma (f : Fmt) (dly : N8) (d : Dst) (a : Src) (b : Src) (me : Bool) (st : State) : exec (.vfma f dly d a b me) st = execVfma f dly d a b me st := rfl
theorem exec_vfms (f : Fmt) (dly : N8) (d : Dst) (a : Src) (b : Src) (me : Bool) (st : State) : exec (.vfms f dly d a b me) st = execVfms f dly d a b me st := rfl
theorem exec_vfnma (f : Fmt) (dly : N8) (d : Dst) (a : Src) (b : Src) (me : Bool) (st : State) : exec (.vfnma f dly d a b me) st = execVfnma f dly d a b me st := rfl
theorem exec_vmin (f : Fmt) (dly : N8) (d : Dst) (a : Src) (b : Src) (me : Bool) (st : State) : exec (.vmin f dly d a b me) st = execVmin f dly d a b me st := rfl
theorem exec_vmax (f : Fmt) (dly : N8) (d : Dst) (a : Src) (b : Src) (me : Bool) (st : State) : exec (.vmax f dly d a b me) st = execVmax f dly d a b me st := rfl
theorem exec_vabs (f : Fmt) (dly : N8) (d : Dst) (a : Src) (me : Bool) (st : State) : exec (.vabs f dly d a me) st = execVabs f dly d a me st := rfl
theorem exec_vneg (f : Fmt) (dly : N8) (d : Dst) (a : Src) (me : Bool) (st : State) : exec (.vneg f dly d a me) st = execVneg f dly d a me st := rfl
theorem exec_viadd (f : Fmt) (dly : N8) (d : Dst) (a : Src) (b : Src) (me : Bool) (st : State) : exec (.viadd f dly d a b me) st = execViadd f dly d a b me st := rfl
theorem exec_visub (f : Fmt) (dly : N8) (d : Dst) (a : Src) (b : Src) (me : Bool) (st : State) : exec (.visub f dly d a b me) st = execVisub f dly d a b me st := rfl
theorem exec_vimul (f : Fmt) (dly : N8) (d : Dst) (a : Src) (b : Src) (me : Bool) (st : State) : exec (.vimul f dly d a b me) st = execVimul f dly d a b me st := rfl
theorem exec_vimulh (f : Fmt) (dly : N8) (d : Dst) (a : Src) (b : Src) (me : Bool) (st : State) : exec (.vimulh f dly d a b me) st = execVimulh f dly d a b me st := rfl
theorem exec_vshl (f : Fmt) (dly : N8) (d : Dst) (a : Src) (b : Src) (me : Bool) (st : State) : exec (.vshl f dly d a b me) st = execVshl f dly d a b me st := rfl
theorem exec_vshr (f : Fmt) (dly : N8) (d : Dst) (a : Src) (b : Src) (me : Bool) (st : State) : exec (.vshr f dly d a b me) st = execVshr f dly d a b me st := rfl
theorem exec_vsra (f : Fmt) (dly : N8) (d : Dst) (a : Src) (b : Src) (me : Bool) (st : State) : exec (.vsra f dly d a b me) st = execVsra f dly d a b me st := rfl
theorem exec_vand (dly : N8) (d : Dst) (a : Src) (b : Src) (me : Bool) (st : State) : exec (.vand dly d a b me) st = execVand dly d a b me st := rfl
theorem exec_vor (dly : N8) (d : Dst) (a : Src) (b : Src) (me : Bool) (st : State) : exec (.vor dly d a b me) st = execVor dly d a b me st := rfl
theorem exec_vxor (dly : N8) (d : Dst) (a : Src) (b : Src) (me : Bool) (st : State) : exec (.vxor dly d a b me) st = execVxor dly d a b me st := rfl
theorem exec_viabs (f : Fmt) (dly : N8) (d : Dst) (a : Src) (me : Bool) (st : State) : exec (.viabs f dly d a me) st = execViabs f dly d a me st := rfl
theorem exec_vnot (dly : N8) (d : Dst) (a : Src) (me : Bool) (st : State) : exec (.vnot dly d a me) st = execVnot dly d a me st := rfl
theorem exec_vcmp (f : Fmt) (dly : N8) (cc : Cond) (md : N8) (a : Src) (b : Src) (me : Bool) (st : State) : exec (.vcmp f dly cc md a b me) st = execVcmp f dly cc md a b me st := rfl
theorem exec_vsel (f : Fmt) (dly : N8) (d : Dst) (a : Src) (b : Src) (st : State) : exec (.vsel f dly d a b) st = execVsel f dly d a b st := rfl
theorem exec_mand (dly : N8) (md : N8) (ma : N8) (mb : N8) (st : State) : exec (.mand dly md ma mb) st = execMand dly md ma mb st := rfl
theorem exec_mor (dly : N8) (md : N8) (ma : N8) (mb : N8) (st : State) : exec (.mor dly md ma mb) st = execMor dly md ma mb st := rfl
theorem exec_mxor (dly : N8) (md : N8) (ma : N8) (mb : N8) (st : State) : exec (.mxor dly md ma mb) st = execMxor dly md ma mb st := rfl
theorem exec_mnot (dly : N8) (md : N8) (ma : N8) (st : State) : exec (.mnot dly md ma) st = execMnot dly md ma st := rfl
theorem exec_mpop (dly : N8) (x : N16) (ma : N8) (st : State) : exec (.mpop dly x ma) st = execMpop dly x ma st := rfl
theorem exec_mff (dly : N8) (x : N16) (ma : N8) (st : State) : exec (.mff dly x ma) st = execMff dly x ma st := rfl
theorem exec_mset (dly : N8) (md : N8) (x : N16) (st : State) : exec (.mset dly md x) st = execMset dly md x st := rfl
theorem exec_vmov (f : Fmt) (dly : N8) (d : Dst) (a : Src) (me : Bool) (st : State) : exec (.vmov f dly d a me) st = execVmov f dly d a me st := rfl
theorem exec_vmovShort (d : Reg) (a : Reg) (st : State) : exec (.vmovShort d a) st = execVmovShort d a st := rfl
theorem exec_vmovl (f : Fmt) (dly : N8) (d : Dst) (l : N8) (me : Bool) (st : State) : exec (.vmovl f dly d l me) st = execVmovl f dly d l me st := rfl
theorem exec_vbcast (f : Fmt) (dly : N8) (d : Dst) (x : N16) (me : Bool) (st : State) : exec (.vbcast f dly d x me) st = execVbcast f dly d x me st := rfl
theorem exec_vli (f : Fmt) (dly : N8) (d : Dst) (imm : BitVec 12) (me : Bool) (st : State) : exec (.vli f dly d imm me) st = execVli f dly d imm me st := rfl
theorem exec_vimin (f : Fmt) (dly : N8) (d : Dst) (a : Src) (b : Src) (me : Bool) (st : State) : exec (.vimin f dly d a b me) st = execVimin f dly d a b me st := rfl
theorem exec_vimax (f : Fmt) (dly : N8) (d : Dst) (a : Src) (b : Src) (me : Bool) (st : State) : exec (.vimax f dly d a b me) st = execVimax f dly d a b me st := rfl
theorem exec_vcvt (dly : N8) (d : Dst) (a : Src) (sf : CFmt) (df : CFmt) (me : Bool) (st : State) : exec (.vcvt dly d a sf df me) st = execVcvt dly d a sf df me st := rfl
theorem exec_vqnt (dly : N8) (d : Dst) (a : Src) (qf : QFmt) (xs : N16) (me : Bool) (st : State) : exec (.vqnt dly d a qf xs me) st = execVqnt dly d a qf xs me st := rfl
theorem exec_vdqnt (dly : N8) (d : Dst) (a : Src) (qf : QFmt) (xs : N16) (me : Bool) (st : State) : exec (.vdqnt dly d a qf xs me) st = execVdqnt dly d a qf xs me st := rfl
theorem exec_qscale (dly : N8) (xd : N16) (xn : N16) (qf : QFmt) (h : N16) (st : State) : exec (.qscale dly xd xn qf h) st = execQscale dly xd xn qf h st := rfl
theorem exec_qfix (dly : N8) (d : Dst) (a : Src) (sh : N16) (me : Bool) (st : State) : exec (.qfix dly d a sh me) st = execQfix dly d a sh me st := rfl
theorem exec_qflt (dly : N8) (d : Dst) (a : Src) (sh : N16) (me : Bool) (st : State) : exec (.qflt dly d a sh me) st = execQflt dly d a sh me st := rfl
theorem exec_revadd (dly : N8) (d : Dst) (a : Src) (b : Src) (me : Bool) (st : State) : exec (.revadd dly d a b me) st = execRevadd dly d a b me st := rfl
theorem exec_revsub (dly : N8) (d : Dst) (a : Src) (b : Src) (me : Bool) (st : State) : exec (.revsub dly d a b me) st = execRevsub dly d a b me st := rfl
theorem exec_sealclr (dly : N8) (st : State) : exec (.sealclr dly) st = execSealclr dly st := rfl
theorem exec_sealget (dly : N8) (xd : N16) (st : State) : exec (.sealget dly xd) st = execSealget dly xd st := rfl
theorem exec_vexp2 (f : Fmt) (dly : N8) (d : Dst) (a : Src) (me : Bool) (st : State) : exec (.vexp2 f dly d a me) st = execVexp2 f dly d a me st := rfl
theorem exec_vlog2 (f : Fmt) (dly : N8) (d : Dst) (a : Src) (me : Bool) (st : State) : exec (.vlog2 f dly d a me) st = execVlog2 f dly d a me st := rfl
theorem exec_vrcp (f : Fmt) (dly : N8) (d : Dst) (a : Src) (me : Bool) (st : State) : exec (.vrcp f dly d a me) st = execVrcp f dly d a me st := rfl
theorem exec_vrsqrt (f : Fmt) (dly : N8) (d : Dst) (a : Src) (me : Bool) (st : State) : exec (.vrsqrt f dly d a me) st = execVrsqrt f dly d a me st := rfl
theorem exec_vtanh (f : Fmt) (dly : N8) (d : Dst) (a : Src) (me : Bool) (st : State) : exec (.vtanh f dly d a me) st = execVtanh f dly d a me st := rfl
theorem exec_vrnd (raw : Bool) (dly : N8) (d : Dst) (xs : N16) (xb : N16) (me : Bool) (st : State) : exec (.vrnd raw dly d xs xb me) st = execVrnd raw dly d xs xb me st := rfl
theorem exec_vredsum (f : Fmt) (dly : N8) (d : Dst) (a : Src) (me : Bool) (st : State) : exec (.vredsum f dly d a me) st = execVredsum f dly d a me st := rfl
theorem exec_vredmax (f : Fmt) (dly : N8) (d : Dst) (a : Src) (me : Bool) (st : State) : exec (.vredmax f dly d a me) st = execVredmax f dly d a me st := rfl
theorem exec_vredmin (f : Fmt) (dly : N8) (d : Dst) (a : Src) (me : Bool) (st : State) : exec (.vredmin f dly d a me) st = execVredmin f dly d a me st := rfl
theorem exec_vredarg (f : Fmt) (dly : N8) (d : Dst) (a : Src) (mn : Bool) (me : Bool) (st : State) : exec (.vredarg f dly d a mn me) st = execVredarg f dly d a mn me st := rfl
theorem exec_vscan (f : Fmt) (dly : N8) (d : Dst) (a : Src) (me : Bool) (st : State) : exec (.vscan f dly d a me) st = execVscan f dly d a me st := rfl
theorem exec_vsortk (f : Fmt) (dly : N8) (d : Dst) (a : Src) (b : Src) (me : Bool) (st : State) : exec (.vsortk f dly d a b me) st = execVsortk f dly d a b me st := rfl
theorem exec_vperm (f : Fmt) (dly : N8) (d : Dst) (a : Src) (b : Src) (me : Bool) (st : State) : exec (.vperm f dly d a b me) st = execVperm f dly d a b me st := rfl
theorem exec_vslide (f : Fmt) (dly : N8) (d : Dst) (a : Src) (b : Src) (me : Bool) (st : State) : exec (.vslide f dly d a b me) st = execVslide f dly d a b me st := rfl
theorem exec_acld (hi : Bool) (dly : N8) (v : Dst) (p : Fin 64) (row : RowSel) (st : State) : exec (.acld hi dly v p row) st = execAcld hi dly v p row st := rfl
theorem exec_acst (hi : Bool) (dly : N8) (v : Src) (p : Fin 64) (row : RowSel) (st : State) : exec (.acst hi dly v p row) st = execAcst hi dly v p row st := rfl
theorem exec_acsta (hi : Bool) (int : Bool) (dly : N8) (v : Src) (p : Fin 64) (row : RowSel) (st : State) : exec (.acsta hi int dly v p row) st = execAcsta hi int dly v p row st := rfl
theorem exec_xli (x : N16) (imm : BitVec 19) (st : State) : exec (.xli x imm) st = execXli x imm st := rfl
theorem exec_xaddi (x : N16) (a : N16) (imm : BitVec 15) (st : State) : exec (.xaddi x a imm) st = execXaddi x a imm st := rfl
theorem exec_xaddiShort (x : N16) (imm : BitVec 7) (st : State) : exec (.xaddiShort x imm) st = execXaddiShort x imm st := rfl
theorem exec_xlane (x : N16) (v : Src) (wd : LaneW) (lane : Fin 256) (st : State) : exec (.xlane x v wd lane) st = execXlane x v wd lane st := rfl
theorem exec_katchk (dly : N8) (v : Src) (k : Word) (st : State) : exec (.katchk dly v k) st = execKatchk dly v k st := rfl
theorem exec_bqputX (g : Guard) (op : BqX) (q : Fin 4) (st : State) : exec (.bqputX g op q) st = execBqputX g op q st := rfl
theorem exec_bqgetX (g : Guard) (op : BqX) (q : Fin 4) (st : State) : exec (.bqgetX g op q) st = execBqgetX g op q st := rfl
theorem exec_exitX (g : Guard) (off : BitVec 18) (st : State) : exec (.exitX g off) st = execExitX g off st := rfl
theorem exec_exitXShort (g : Guard) (off : BitVec 7) (st : State) : exec (.exitXShort g off) st = execExitXShort g off st := rfl
theorem exec_commitPhase1 (st : State) : exec (.commitPhase1) st = execCommitPhase1 st := rfl
theorem exec_commitPhase2 (st : State) : exec (.commitPhase2) st = execCommitPhase2 st := rfl
theorem exec_blockRunEnd (st : State) : exec (.blockRunEnd) st = execBlockRunEnd st := rfl
theorem exec_dispatchStart (st : State) : exec (.dispatchStart) st = execDispatchStart st := rfl
theorem exec_xResultLand (st : State) : exec (.xResultLand) st = execXResultLand st := rfl
theorem exec_loadQueueEntryReady (st : State) : exec (.loadQueueEntryReady) st = execLoadQueueEntryReady st := rfl
theorem exec_queueStoreWrite (st : State) : exec (.queueStoreWrite) st = execQueueStoreWrite st := rfl
theorem exec_streamTlbWalkDone (st : State) : exec (.streamTlbWalkDone) st = execStreamTlbWalkDone st := rfl
theorem exec_leaseGrant (st : State) : exec (.leaseGrant) st = execLeaseGrant st := rfl
theorem exec_matrixCommandStart (st : State) : exec (.matrixCommandStart) st = execMatrixCommandStart st := rfl
theorem exec_matrixAcquire (st : State) : exec (.matrixAcquire) st = execMatrixAcquire st := rfl
theorem exec_matrixCommandComplete (st : State) : exec (.matrixCommandComplete) st = execMatrixCommandComplete st := rfl
theorem exec_matrixCommandStop (st : State) : exec (.matrixCommandStop) st = execMatrixCommandStop st := rfl
theorem exec_scaleQueuePop (st : State) : exec (.scaleQueuePop) st = execScaleQueuePop st := rfl
theorem exec_accumulatorPortGrant (st : State) : exec (.accumulatorPortGrant) st = execAccumulatorPortGrant st := rfl
theorem exec_copyChannelTake (st : State) : exec (.copyChannelTake) st = execCopyChannelTake st := rfl
theorem exec_copyCommandStart (st : State) : exec (.copyCommandStart) st = execCopyCommandStart st := rfl
theorem exec_copyCommandComplete (st : State) : exec (.copyCommandComplete) st = execCopyCommandComplete st := rfl
theorem exec_copyCommandStop (st : State) : exec (.copyCommandStop) st = execCopyCommandStop st := rfl
theorem exec_tailCommandAccept (st : State) : exec (.tailCommandAccept) st = execTailCommandAccept st := rfl
theorem exec_tailCommandComplete (st : State) : exec (.tailCommandComplete) st = execTailCommandComplete st := rfl
theorem exec_syncAccept (st : State) : exec (.syncAccept) st = execSyncAccept st := rfl
theorem exec_homeRequest (st : State) : exec (.homeRequest) st = execHomeRequest st := rfl
theorem exec_qscaleResult (st : State) : exec (.qscaleResult) st = execQscaleResult st := rfl
theorem exec_albedoMergeIssue (st : State) : exec (.albedoMergeIssue) st = execAlbedoMergeIssue st := rfl
theorem exec_albedoMergeApply (st : State) : exec (.albedoMergeApply) st = execAlbedoMergeApply st := rfl
theorem exec_albedoSettleDone (st : State) : exec (.albedoSettleDone) st = execAlbedoSettleDone st := rfl
theorem exec_lineAccess (st : State) : exec (.lineAccess) st = execLineAccess st := rfl
theorem exec_dramReadReturn (st : State) : exec (.dramReadReturn) st = execDramReadReturn st := rfl
theorem exec_dramRefresh (st : State) : exec (.dramRefresh) st = execDramRefresh st := rfl
theorem exec_homeCreate (st : State) : exec (.homeCreate) st = execHomeCreate st := rfl
theorem exec_homeRelease (st : State) : exec (.homeRelease) st = execHomeRelease st := rfl
theorem exec_tlbinvGo (st : State) : exec (.tlbinvGo) st = execTlbinvGo st := rfl
theorem exec_tlbinvComplete (st : State) : exec (.tlbinvComplete) st = execTlbinvComplete st := rfl
theorem exec_orbitStop (st : State) : exec (.orbitStop) st = execOrbitStop st := rfl
theorem exec_orbitResume (st : State) : exec (.orbitResume) st = execOrbitResume st := rfl
theorem exec_waitscDone (st : State) : exec (.waitscDone) st = execWaitscDone st := rfl
theorem exec_orbitArrival (st : State) : exec (.orbitArrival) st = execOrbitArrival st := rfl
theorem exec_orbitAlign (st : State) : exec (.orbitAlign) st = execOrbitAlign st := rfl
theorem exec_mailArrival (st : State) : exec (.mailArrival) st = execMailArrival st := rfl
theorem exec_mailAck (st : State) : exec (.mailAck) st = execMailAck st := rfl
theorem exec_mailLate (st : State) : exec (.mailLate) st = execMailLate st := rfl
theorem exec_recordStart (st : State) : exec (.recordStart) st = execRecordStart st := rfl
theorem exec_startTimeReached (st : State) : exec (.startTimeReached) st = execStartTimeReached st := rfl
theorem exec_priorityAge (st : State) : exec (.priorityAge) st = execPriorityAge st := rfl
theorem exec_childQueueMove (st : State) : exec (.childQueueMove) st = execChildQueueMove st := rfl
theorem exec_overlayLoadDone (st : State) : exec (.overlayLoadDone) st = execOverlayLoadDone st := rfl
theorem exec_taskBoundary (st : State) : exec (.taskBoundary) st = execTaskBoundary st := rfl
theorem exec_contextEnd (st : State) : exec (.contextEnd) st = execContextEnd st := rfl
theorem exec_allotmentReturn (st : State) : exec (.allotmentReturn) st = execAllotmentReturn st := rfl
theorem exec_trapDelivery (st : State) : exec (.trapDelivery) st = execTrapDelivery st := rfl
theorem exec_debugBreak (st : State) : exec (.debugBreak) st = execDebugBreak st := rfl
theorem exec_safeptLate (st : State) : exec (.safeptLate) st = execSafeptLate st := rfl
theorem exec_watchdog (st : State) : exec (.watchdog) st = execWatchdog st := rfl
theorem exec_preemptRequest (st : State) : exec (.preemptRequest) st = execPreemptRequest st := rfl
theorem exec_contextRestore (st : State) : exec (.contextRestore) st = execContextRestore st := rfl
theorem exec_beatSend (st : State) : exec (.beatSend) st = execBeatSend st := rfl
theorem exec_beatReceive (st : State) : exec (.beatReceive) st = execBeatReceive st := rfl
theorem exec_judgePoint (st : State) : exec (.judgePoint) st = execJudgePoint st := rfl
theorem exec_fenceNotice (st : State) : exec (.fenceNotice) st = execFenceNotice st := rfl
theorem exec_fabricFlitArrival (st : State) : exec (.fabricFlitArrival) st = execFabricFlitArrival st := rfl
theorem exec_selfTestDone (st : State) : exec (.selfTestDone) st = execSelfTestDone st := rfl
theorem exec_suspctlInc (st : State) : exec (.suspctlInc) st = execSuspctlInc st := rfl
theorem exec_suspctlClrq (st : State) : exec (.suspctlClrq) st = execSuspctlClrq st := rfl
theorem exec_suspcfgWrite (st : State) : exec (.suspcfgWrite) st = execSuspcfgWrite st := rfl
theorem exec_scoreDecay (st : State) : exec (.scoreDecay) st = execScoreDecay st := rfl
theorem exec_hostRequest (st : State) : exec (.hostRequest) st = execHostRequest st := rfl
theorem exec_hostRegisterWrite (st : State) : exec (.hostRegisterWrite) st = execHostRegisterWrite st := rfl
theorem exec_workQueueSubmit (st : State) : exec (.workQueueSubmit) st = execWorkQueueSubmit st := rfl
theorem exec_workQueueEntryArm (st : State) : exec (.workQueueEntryArm) st = execWorkQueueEntryArm st := rfl
theorem exec_workQueueResume (st : State) : exec (.workQueueResume) st = execWorkQueueResume st := rfl
theorem exec_spanFlitReceive (st : State) : exec (.spanFlitReceive) st = execSpanFlitReceive st := rfl
theorem exec_spanLinkState (st : State) : exec (.spanLinkState) st = execSpanLinkState st := rfl
theorem exec_powerOn (st : State) : exec (.powerOn) st = execPowerOn st := rfl
theorem exec_coldStart (st : State) : exec (.coldStart) st = execColdStart st := rfl
theorem exec_warmStart (st : State) : exec (.warmStart) st = execWarmStart st := rfl
theorem exec_startComplete (st : State) : exec (.startComplete) st = execStartComplete st := rfl
theorem exec_pwrcapWrite (st : State) : exec (.pwrcapWrite) st = execPwrcapWrite st := rfl
theorem exec_orbitSave (st : State) : exec (.orbitSave) st = execOrbitSave st := rfl
theorem exec_msixHoldoffEnd (st : State) : exec (.msixHoldoffEnd) st = execMsixHoldoffEnd st := rfl
theorem exec_arithmeticClockStep (st : State) : exec (.arithmeticClockStep) st = execArithmeticClockStep st := rfl

end Sys2Proof.Machine
end

