-- ==== Sys2Proof/Laws/Map.lean ====
section
/-! SUPPORT. Sparse maps and byte memories: what a read after a write gives, and that every operation keeps the canonical form. -/

namespace Sys2Proof.Machine

variable {α : Type}

@[simp] theorem Map.get_nil (d : α) (k : Nat) : Map.get d [] k = d := rfl

@[simp] theorem Map.get_set_self (d : α) (m : Map α) (k : Nat) (v : α) : Map.get d (Map.set m k v) k = v := by
  induction m with
  | nil => simp [Map.set, Map.get]
  | cons e t ih =>
    obtain ⟨j, w⟩ := e
    by_cases h1 : j < k
    · have h3 : j ≠ k := by omega
      simp [Map.set, h1, Map.get, h3, ih]
    · by_cases h2 : j = k <;> simp [Map.set, h1, h2, Map.get]

theorem Map.get_set_ne (d : α) (m : Map α) {k l : Nat} (v : α) (h : l ≠ k) : Map.get d (Map.set m k v) l = Map.get d m l := by
  induction m with
  | nil => simp [Map.set, Map.get, Ne.symm h]
  | cons e t ih =>
    obtain ⟨j, w⟩ := e
    by_cases h1 : j < k
    · simp [Map.set, h1, Map.get, ih]
    · by_cases h2 : j = k
      · subst h2; simp [Map.set, Map.get, Ne.symm h]
      · simp [Map.set, h1, h2, Map.get, Ne.symm h]

theorem Map.get_set (d : α) (m : Map α) (k l : Nat) (v : α) :
    Map.get d (Map.set m k v) l = if l = k then v else Map.get d m l := by
  by_cases h : l = k
  · subst h; simp
  · simp [h, Map.get_set_ne d m v h]

/-- Only the last of two writes of a key stands. -/
@[simp] theorem Map.set_set (m : Map α) (k : Nat) (v w : α) : Map.set (Map.set m k v) k w = Map.set m k w := by
  induction m with
  | nil => simp [Map.set]
  | cons e t ih =>
    obtain ⟨j, u⟩ := e
    by_cases h1 : j < k
    · simp [Map.set, h1, ih]
    · by_cases h2 : j = k <;> simp [Map.set, h1, h2]

@[simp] theorem Map.get_del_self (d : α) (m : Map α) (k : Nat) : Map.get d (Map.del m k) k = d := by
  induction m with
  | nil => rfl
  | cons e t ih =>
    obtain ⟨j, w⟩ := e
    by_cases h : j = k
    · subst h; simpa [Map.del] using ih
    · simpa [Map.del, h, Map.get] using ih

theorem Map.get_del_ne (d : α) (m : Map α) {k l : Nat} (h : l ≠ k) : Map.get d (Map.del m k) l = Map.get d m l := by
  induction m with
  | nil => rfl
  | cons e t ih =>
    obtain ⟨j, w⟩ := e
    by_cases hj : j = k
    · subst hj; simpa [Map.del, Map.get, Ne.symm h] using ih
    · have : Map.del ((j, w) :: t) k = (j, w) :: Map.del t k := by simp [Map.del, hj]
      rw [this]; simp only [Map.get, ih]

theorem Map.get_put [DecidableEq α] (d : α) (m : Map α) (k l : Nat) (v : α) :
    Map.get d (Map.put d m k v) l = if l = k then v else Map.get d m l := by
  unfold Map.put
  split
  · rename_i h
    by_cases hl : l = k
    · subst hl; simp [h]
    · simp [hl, Map.get_del_ne d m hl]
  · exact Map.get_set d m k l v

/-! The canonical form. -/

/-- The canonical form as two facts: no entry is the default, and the keys rise. -/
theorem Map.wf_iff [DecidableEq α] (d : α) (m : Map α) :
    Map.wf d m = true ↔ (∀ e ∈ m, e.2 ≠ d) ∧ m.Pairwise (fun a b => a.1 < b.1) := by
  induction m with
  | nil => simp [Map.wf]
  | cons e t ih =>
    obtain ⟨j, v⟩ := e
    cases t with
    | nil => simp [Map.wf]
    | cons f t =>
      obtain ⟨k, w⟩ := f
      simp only [Map.wf, Bool.and_eq_true, decide_eq_true_eq, ih, List.mem_cons, List.pairwise_cons]
      constructor
      · rintro ⟨⟨h1, h2⟩, h3, h4, h5⟩
        refine ⟨?_, ?_, h4, h5⟩
        · rintro e (rfl | h)
          · exact h1
          · exact h3 e h
        · rintro e (rfl | h)
          · exact h2
          · exact Nat.lt_trans h2 (h4 e h)
      · rintro ⟨h1, h2, h3, h4⟩
        exact ⟨⟨h1 _ (.inl rfl), h2 _ (.inl rfl)⟩, fun e he => h1 e (.inr he), h3, h4⟩

theorem Map.wf_filter [DecidableEq α] {d : α} {m : Map α} (p : Nat × α → Bool) (h : Map.wf d m = true) :
    Map.wf d (m.filter p) = true := by
  rw [Map.wf_iff] at *
  exact ⟨fun e he => h.1 e (List.mem_of_mem_filter he), h.2.filter p⟩

theorem Map.wf_del [DecidableEq α] {d : α} {m : Map α} (k : Nat) (h : Map.wf d m = true) : Map.wf d (Map.del m k) = true :=
  Map.wf_filter _ h

theorem Map.mem_set {m : Map α} {k : Nat} {v : α} {e : Nat × α} (h : e ∈ Map.set m k v) : e = (k, v) ∨ e ∈ m := by
  induction m with
  | nil => simpa [Map.set] using h
  | cons f t ih =>
    obtain ⟨j, w⟩ := f
    by_cases h1 : j < k
    · simp only [Map.set, h1, if_true, List.mem_cons] at h ⊢
      rcases h with h | h
      · exact .inr (.inl h)
      · rcases ih h with h | h
        · exact .inl h
        · exact .inr (.inr h)
    · by_cases h2 : j = k
      · subst h2; simp [Map.set] at h ⊢
        rcases h with h | h
        · exact .inl h
        · exact .inr (.inr h)
      · simp [Map.set, h1, h2] at h ⊢
        rcases h with h | h | h
        · exact .inl h
        · exact .inr (.inl h)
        · exact .inr (.inr h)

theorem Map.wf_set [DecidableEq α] {d : α} {m : Map α} {k : Nat} {v : α} (hv : v ≠ d) (h : Map.wf d m = true) :
    Map.wf d (Map.set m k v) = true := by
  rw [Map.wf_iff] at *
  refine ⟨fun e he => ?_, ?_⟩
  · rcases Map.mem_set he with rfl | he
    · exact hv
    · exact h.1 e he
  · obtain ⟨-, h⟩ := h
    induction m with
    | nil => simp [Map.set]
    | cons f t ih =>
      obtain ⟨j, w⟩ := f
      rw [List.pairwise_cons] at h
      by_cases h1 : j < k
      · simp only [Map.set, h1, if_true, List.pairwise_cons]
        refine ⟨fun e he => ?_, ih h.2⟩
        rcases Map.mem_set he with rfl | he
        · exact h1
        · exact h.1 e he
      · by_cases h2 : j = k
        · subst h2
          simp only [Map.set, Nat.lt_irrefl, if_false, if_true, List.pairwise_cons]
          exact ⟨h.1, h.2⟩
        · simp only [Map.set, h1, h2, if_false, List.pairwise_cons, List.mem_cons]
          refine ⟨?_, h.1, h.2⟩
          rintro e (rfl | he)
          · simp only; omega
          · have := h.1 e he; omega

/-- A write keeps the canonical form: writing the default removes the entry. -/
theorem Map.wf_put [DecidableEq α] {d : α} {m : Map α} (k : Nat) (v : α) (h : Map.wf d m = true) :
    Map.wf d (Map.put d m k v) = true := by
  unfold Map.put
  split
  · exact Map.wf_del k h
  · exact Map.wf_set ‹_› h

/-! Byte memories. -/

@[simp] theorem Mem.byte_nil (a : Nat) : Mem.byte [] a = 0 := rfl

theorem Mem.byte_setByte (m : Mem) (a b : Nat) (v : Byte) :
    Mem.byte (Mem.setByte m a v) b = if b = a then v else Mem.byte m b := Map.get_put 0 m a b v

/-- A byte after bytes have been written: the byte written there, else the byte before. -/
theorem Mem.byte_setBytes (m : Mem) (a : Nat) (bs : List Byte) (b : Nat) :
    Mem.byte (Mem.setBytes m a bs) b = if a ≤ b ∧ b < a + bs.length then bs.getD (b - a) 0 else Mem.byte m b := by
  induction bs generalizing m a with
  | nil => simp [Mem.setBytes]
  | cons v t ih =>
    rw [Mem.setBytes, ih, Mem.byte_setByte]
    by_cases h1 : b = a
    · subst h1; simp [show ¬ (b + 1 ≤ b) by omega]
    · by_cases h2 : a + 1 ≤ b ∧ b < a + 1 + t.length
      · have h3 : a ≤ b ∧ b < a + (v :: t).length := by simp only [List.length_cons]; omega
        have h4 : b - a = (b - (a + 1)) + 1 := by omega
        rw [if_pos h2, if_pos h3, h4]; simp
      · have h3 : ¬ (a ≤ b ∧ b < a + (v :: t).length) := by simp only [List.length_cons]; omega
        rw [if_neg h2, if_neg h3, if_neg h1]

/-- A byte outside a write is what it was. -/
theorem Mem.byte_setBytes_outside (m : Mem) (a : Nat) (bs : List Byte) {b : Nat} (h : b < a ∨ a + bs.length ≤ b) :
    Mem.byte (Mem.setBytes m a bs) b = Mem.byte m b := by
  rw [Mem.byte_setBytes, if_neg (by omega)]

theorem Mem.byte_merge_outside (m : Mem) (a : Nat) (bs : List (Option Byte)) {b : Nat} (h : b < a ∨ a + bs.length ≤ b) :
    Mem.byte (Mem.merge m a bs) b = Mem.byte m b := by
  induction bs generalizing m a with
  | nil => rfl
  | cons v t ih =>
    simp only [List.length_cons] at h
    cases v with
    | none => rw [Mem.merge, ih _ _ (by omega)]
    | some v => rw [Mem.merge, ih _ _ (by omega), Mem.byte_setByte, if_neg (by omega)]

theorem Memory.wf_setByte {m : Mem} (a : Nat) (v : Byte) (h : Memory.wf m = true) : Memory.wf (Mem.setByte m a v) = true :=
  Map.wf_put a v h

theorem Memory.wf_setBytes {m : Mem} (a : Nat) (bs : List Byte) (h : Memory.wf m = true) : Memory.wf (Mem.setBytes m a bs) = true := by
  induction bs generalizing m a with
  | nil => exact h
  | cons v t ih => exact ih _ (Memory.wf_setByte a v h)

theorem Memory.wf_merge {m : Mem} (a : Nat) (bs : List (Option Byte)) (h : Memory.wf m = true) : Memory.wf (Mem.merge m a bs) = true := by
  induction bs generalizing m a with
  | nil => exact h
  | cons v t ih =>
    cases v with
    | none => exact ih _ h
    | some v => exact ih _ (Memory.wf_setByte a v h)

theorem Memory.wf_clear {m : Mem} (a n : Nat) (h : Memory.wf m = true) : Memory.wf (Mem.clear m a n) = true := Map.wf_filter _ h

theorem Memory.wf_setNum {m : Mem} (a n v : Nat) (h : Memory.wf m = true) : Memory.wf (Mem.setNum m a n v) = true :=
  Memory.wf_setBytes a _ h

@[simp] theorem leBytes_length (n v : Nat) : (leBytes n v).length = n := by simp [leBytes]

end Sys2Proof.Machine
end

