-- ==== Sys2Proof/Laws/State.lean ====
section
/-! SUPPORT. What each update of the state leaves as it was: one lemma for each field of each update, and what a read of a core, a tile
or a die gives after a write of one. -/

namespace Sys2Proof.Machine

/-! setCore -/
@[simp] theorem State.setCore_now (s : State) (n : Nat) (c : Core) : (s.setCore n c).now = s.now := rfl
@[simp] theorem State.setCore_who (s : State) (n : Nat) (c : Core) : (s.setCore n c).who = s.who := rfl
@[simp] theorem State.setCore_turn (s : State) (n : Nat) (c : Core) : (s.setCore n c).turn = s.turn := rfl
@[simp] theorem State.setCore_todo (s : State) (n : Nat) (c : Core) : (s.setCore n c).todo = s.todo := rfl
@[simp] theorem State.setCore_agenda (s : State) (n : Nat) (c : Core) : (s.setCore n c).agenda = s.agenda := rfl
@[simp] theorem State.setCore_ev (s : State) (n : Nat) (c : Core) : (s.setCore n c).ev = s.ev := rfl
@[simp] theorem State.setCore_freeCount (s : State) (n : Nat) (c : Core) : (s.setCore n c).freeCount = s.freeCount := rfl
@[simp] theorem State.setCore_dram (s : State) (n : Nat) (c : Core) : (s.setCore n c).dram = s.dram := rfl
@[simp] theorem State.setCore_remote (s : State) (n : Nat) (c : Core) : (s.setCore n c).remote = s.remote := rfl
@[simp] theorem State.setCore_scratch (s : State) (n : Nat) (c : Core) : (s.setCore n c).scratch = s.scratch := rfl
@[simp] theorem State.setCore_accum (s : State) (n : Nat) (c : Core) : (s.setCore n c).accum = s.accum := rfl
@[simp] theorem State.setCore_lines (s : State) (n : Nat) (c : Core) : (s.setCore n c).lines = s.lines := rfl
@[simp] theorem State.setCore_tiles (s : State) (n : Nat) (c : Core) : (s.setCore n c).tiles = s.tiles := rfl
@[simp] theorem State.setCore_dies (s : State) (n : Nat) (c : Core) : (s.setCore n c).dies = s.dies := rfl
@[simp] theorem State.setCore_reserved (s : State) (n : Nat) (c : Core) : (s.setCore n c).reserved = s.reserved := rfl
@[simp] theorem State.setCore_waiters (s : State) (n : Nat) (c : Core) : (s.setCore n c).waiters = s.waiters := rfl
@[simp] theorem State.setCore_lineQ (s : State) (n : Nat) (c : Core) : (s.setCore n c).lineQ = s.lineQ := rfl
@[simp] theorem State.setCore_badAcc (s : State) (n : Nat) (c : Core) : (s.setCore n c).badAcc = s.badAcc := rfl
@[simp] theorem State.setCore_badScr (s : State) (n : Nat) (c : Core) : (s.setCore n c).badScr = s.badScr := rfl
@[simp] theorem State.setCore_badDram (s : State) (n : Nat) (c : Core) : (s.setCore n c).badDram = s.badDram := rfl
@[simp] theorem State.setCore_fencedC (s : State) (n : Nat) (c : Core) : (s.setCore n c).fencedC = s.fencedC := rfl
@[simp] theorem State.setCore_fencedR (s : State) (n : Nat) (c : Core) : (s.setCore n c).fencedR = s.fencedR := rfl
@[simp] theorem State.setCore_recs (s : State) (n : Nat) (c : Core) : (s.setCore n c).recs = s.recs := rfl
@[simp] theorem State.setCore_wqs (s : State) (n : Nat) (c : Core) : (s.setCore n c).wqs = s.wqs := rfl
@[simp] theorem State.setCore_saves (s : State) (n : Nat) (c : Core) : (s.setCore n c).saves = s.saves := rfl
@[simp] theorem State.setCore_pkg (s : State) (n : Nat) (c : Core) : (s.setCore n c).pkg = s.pkg := rfl
@[simp] theorem State.setCore_hbc0 (s : State) (n : Nat) (c : Core) : (s.setCore n c).hbc0 = s.hbc0 := rfl
@[simp] theorem State.setCore_toHost (s : State) (n : Nat) (c : Core) : (s.setCore n c).toHost = s.toHost := rfl
@[simp] theorem State.setCore_fromHost (s : State) (n : Nat) (c : Core) : (s.setCore n c).fromHost = s.fromHost := rfl

/-! modCore -/
@[simp] theorem State.modCore_now (s : State) (n : Nat) (f : Core → Core) : (s.modCore n f).now = s.now := rfl
@[simp] theorem State.modCore_who (s : State) (n : Nat) (f : Core → Core) : (s.modCore n f).who = s.who := rfl
@[simp] theorem State.modCore_turn (s : State) (n : Nat) (f : Core → Core) : (s.modCore n f).turn = s.turn := rfl
@[simp] theorem State.modCore_todo (s : State) (n : Nat) (f : Core → Core) : (s.modCore n f).todo = s.todo := rfl
@[simp] theorem State.modCore_agenda (s : State) (n : Nat) (f : Core → Core) : (s.modCore n f).agenda = s.agenda := rfl
@[simp] theorem State.modCore_ev (s : State) (n : Nat) (f : Core → Core) : (s.modCore n f).ev = s.ev := rfl
@[simp] theorem State.modCore_freeCount (s : State) (n : Nat) (f : Core → Core) : (s.modCore n f).freeCount = s.freeCount := rfl
@[simp] theorem State.modCore_dram (s : State) (n : Nat) (f : Core → Core) : (s.modCore n f).dram = s.dram := rfl
@[simp] theorem State.modCore_remote (s : State) (n : Nat) (f : Core → Core) : (s.modCore n f).remote = s.remote := rfl
@[simp] theorem State.modCore_scratch (s : State) (n : Nat) (f : Core → Core) : (s.modCore n f).scratch = s.scratch := rfl
@[simp] theorem State.modCore_accum (s : State) (n : Nat) (f : Core → Core) : (s.modCore n f).accum = s.accum := rfl
@[simp] theorem State.modCore_lines (s : State) (n : Nat) (f : Core → Core) : (s.modCore n f).lines = s.lines := rfl
@[simp] theorem State.modCore_tiles (s : State) (n : Nat) (f : Core → Core) : (s.modCore n f).tiles = s.tiles := rfl
@[simp] theorem State.modCore_dies (s : State) (n : Nat) (f : Core → Core) : (s.modCore n f).dies = s.dies := rfl
@[simp] theorem State.modCore_reserved (s : State) (n : Nat) (f : Core → Core) : (s.modCore n f).reserved = s.reserved := rfl
@[simp] theorem State.modCore_waiters (s : State) (n : Nat) (f : Core → Core) : (s.modCore n f).waiters = s.waiters := rfl
@[simp] theorem State.modCore_lineQ (s : State) (n : Nat) (f : Core → Core) : (s.modCore n f).lineQ = s.lineQ := rfl
@[simp] theorem State.modCore_badAcc (s : State) (n : Nat) (f : Core → Core) : (s.modCore n f).badAcc = s.badAcc := rfl
@[simp] theorem State.modCore_badScr (s : State) (n : Nat) (f : Core → Core) : (s.modCore n f).badScr = s.badScr := rfl
@[simp] theorem State.modCore_badDram (s : State) (n : Nat) (f : Core → Core) : (s.modCore n f).badDram = s.badDram := rfl
@[simp] theorem State.modCore_fencedC (s : State) (n : Nat) (f : Core → Core) : (s.modCore n f).fencedC = s.fencedC := rfl
@[simp] theorem State.modCore_fencedR (s : State) (n : Nat) (f : Core → Core) : (s.modCore n f).fencedR = s.fencedR := rfl
@[simp] theorem State.modCore_recs (s : State) (n : Nat) (f : Core → Core) : (s.modCore n f).recs = s.recs := rfl
@[simp] theorem State.modCore_wqs (s : State) (n : Nat) (f : Core → Core) : (s.modCore n f).wqs = s.wqs := rfl
@[simp] theorem State.modCore_saves (s : State) (n : Nat) (f : Core → Core) : (s.modCore n f).saves = s.saves := rfl
@[simp] theorem State.modCore_pkg (s : State) (n : Nat) (f : Core → Core) : (s.modCore n f).pkg = s.pkg := rfl
@[simp] theorem State.modCore_hbc0 (s : State) (n : Nat) (f : Core → Core) : (s.modCore n f).hbc0 = s.hbc0 := rfl
@[simp] theorem State.modCore_toHost (s : State) (n : Nat) (f : Core → Core) : (s.modCore n f).toHost = s.toHost := rfl
@[simp] theorem State.modCore_fromHost (s : State) (n : Nat) (f : Core → Core) : (s.modCore n f).fromHost = s.fromHost := rfl

/-! setTile -/
@[simp] theorem State.setTile_now (s : State) (n : Nat) (t : Tile) : (s.setTile n t).now = s.now := rfl
@[simp] theorem State.setTile_who (s : State) (n : Nat) (t : Tile) : (s.setTile n t).who = s.who := rfl
@[simp] theorem State.setTile_turn (s : State) (n : Nat) (t : Tile) : (s.setTile n t).turn = s.turn := rfl
@[simp] theorem State.setTile_todo (s : State) (n : Nat) (t : Tile) : (s.setTile n t).todo = s.todo := rfl
@[simp] theorem State.setTile_agenda (s : State) (n : Nat) (t : Tile) : (s.setTile n t).agenda = s.agenda := rfl
@[simp] theorem State.setTile_ev (s : State) (n : Nat) (t : Tile) : (s.setTile n t).ev = s.ev := rfl
@[simp] theorem State.setTile_freeCount (s : State) (n : Nat) (t : Tile) : (s.setTile n t).freeCount = s.freeCount := rfl
@[simp] theorem State.setTile_cores (s : State) (n : Nat) (t : Tile) : (s.setTile n t).cores = s.cores := rfl
@[simp] theorem State.setTile_dram (s : State) (n : Nat) (t : Tile) : (s.setTile n t).dram = s.dram := rfl
@[simp] theorem State.setTile_remote (s : State) (n : Nat) (t : Tile) : (s.setTile n t).remote = s.remote := rfl
@[simp] theorem State.setTile_scratch (s : State) (n : Nat) (t : Tile) : (s.setTile n t).scratch = s.scratch := rfl
@[simp] theorem State.setTile_accum (s : State) (n : Nat) (t : Tile) : (s.setTile n t).accum = s.accum := rfl
@[simp] theorem State.setTile_lines (s : State) (n : Nat) (t : Tile) : (s.setTile n t).lines = s.lines := rfl
@[simp] theorem State.setTile_dies (s : State) (n : Nat) (t : Tile) : (s.setTile n t).dies = s.dies := rfl
@[simp] theorem State.setTile_reserved (s : State) (n : Nat) (t : Tile) : (s.setTile n t).reserved = s.reserved := rfl
@[simp] theorem State.setTile_waiters (s : State) (n : Nat) (t : Tile) : (s.setTile n t).waiters = s.waiters := rfl
@[simp] theorem State.setTile_lineQ (s : State) (n : Nat) (t : Tile) : (s.setTile n t).lineQ = s.lineQ := rfl
@[simp] theorem State.setTile_badAcc (s : State) (n : Nat) (t : Tile) : (s.setTile n t).badAcc = s.badAcc := rfl
@[simp] theorem State.setTile_badScr (s : State) (n : Nat) (t : Tile) : (s.setTile n t).badScr = s.badScr := rfl
@[simp] theorem State.setTile_badDram (s : State) (n : Nat) (t : Tile) : (s.setTile n t).badDram = s.badDram := rfl
@[simp] theorem State.setTile_fencedC (s : State) (n : Nat) (t : Tile) : (s.setTile n t).fencedC = s.fencedC := rfl
@[simp] theorem State.setTile_fencedR (s : State) (n : Nat) (t : Tile) : (s.setTile n t).fencedR = s.fencedR := rfl
@[simp] theorem State.setTile_recs (s : State) (n : Nat) (t : Tile) : (s.setTile n t).recs = s.recs := rfl
@[simp] theorem State.setTile_wqs (s : State) (n : Nat) (t : Tile) : (s.setTile n t).wqs = s.wqs := rfl
@[simp] theorem State.setTile_saves (s : State) (n : Nat) (t : Tile) : (s.setTile n t).saves = s.saves := rfl
@[simp] theorem State.setTile_pkg (s : State) (n : Nat) (t : Tile) : (s.setTile n t).pkg = s.pkg := rfl
@[simp] theorem State.setTile_hbc0 (s : State) (n : Nat) (t : Tile) : (s.setTile n t).hbc0 = s.hbc0 := rfl
@[simp] theorem State.setTile_toHost (s : State) (n : Nat) (t : Tile) : (s.setTile n t).toHost = s.toHost := rfl
@[simp] theorem State.setTile_fromHost (s : State) (n : Nat) (t : Tile) : (s.setTile n t).fromHost = s.fromHost := rfl

/-! modTile -/
@[simp] theorem State.modTile_now (s : State) (n : Nat) (f : Tile → Tile) : (s.modTile n f).now = s.now := rfl
@[simp] theorem State.modTile_who (s : State) (n : Nat) (f : Tile → Tile) : (s.modTile n f).who = s.who := rfl
@[simp] theorem State.modTile_turn (s : State) (n : Nat) (f : Tile → Tile) : (s.modTile n f).turn = s.turn := rfl
@[simp] theorem State.modTile_todo (s : State) (n : Nat) (f : Tile → Tile) : (s.modTile n f).todo = s.todo := rfl
@[simp] theorem State.modTile_agenda (s : State) (n : Nat) (f : Tile → Tile) : (s.modTile n f).agenda = s.agenda := rfl
@[simp] theorem State.modTile_ev (s : State) (n : Nat) (f : Tile → Tile) : (s.modTile n f).ev = s.ev := rfl
@[simp] theorem State.modTile_freeCount (s : State) (n : Nat) (f : Tile → Tile) : (s.modTile n f).freeCount = s.freeCount := rfl
@[simp] theorem State.modTile_cores (s : State) (n : Nat) (f : Tile → Tile) : (s.modTile n f).cores = s.cores := rfl
@[simp] theorem State.modTile_dram (s : State) (n : Nat) (f : Tile → Tile) : (s.modTile n f).dram = s.dram := rfl
@[simp] theorem State.modTile_remote (s : State) (n : Nat) (f : Tile → Tile) : (s.modTile n f).remote = s.remote := rfl
@[simp] theorem State.modTile_scratch (s : State) (n : Nat) (f : Tile → Tile) : (s.modTile n f).scratch = s.scratch := rfl
@[simp] theorem State.modTile_accum (s : State) (n : Nat) (f : Tile → Tile) : (s.modTile n f).accum = s.accum := rfl
@[simp] theorem State.modTile_lines (s : State) (n : Nat) (f : Tile → Tile) : (s.modTile n f).lines = s.lines := rfl
@[simp] theorem State.modTile_dies (s : State) (n : Nat) (f : Tile → Tile) : (s.modTile n f).dies = s.dies := rfl
@[simp] theorem State.modTile_reserved (s : State) (n : Nat) (f : Tile → Tile) : (s.modTile n f).reserved = s.reserved := rfl
@[simp] theorem State.modTile_waiters (s : State) (n : Nat) (f : Tile → Tile) : (s.modTile n f).waiters = s.waiters := rfl
@[simp] theorem State.modTile_lineQ (s : State) (n : Nat) (f : Tile → Tile) : (s.modTile n f).lineQ = s.lineQ := rfl
@[simp] theorem State.modTile_badAcc (s : State) (n : Nat) (f : Tile → Tile) : (s.modTile n f).badAcc = s.badAcc := rfl
@[simp] theorem State.modTile_badScr (s : State) (n : Nat) (f : Tile → Tile) : (s.modTile n f).badScr = s.badScr := rfl
@[simp] theorem State.modTile_badDram (s : State) (n : Nat) (f : Tile → Tile) : (s.modTile n f).badDram = s.badDram := rfl
@[simp] theorem State.modTile_fencedC (s : State) (n : Nat) (f : Tile → Tile) : (s.modTile n f).fencedC = s.fencedC := rfl
@[simp] theorem State.modTile_fencedR (s : State) (n : Nat) (f : Tile → Tile) : (s.modTile n f).fencedR = s.fencedR := rfl
@[simp] theorem State.modTile_recs (s : State) (n : Nat) (f : Tile → Tile) : (s.modTile n f).recs = s.recs := rfl
@[simp] theorem State.modTile_wqs (s : State) (n : Nat) (f : Tile → Tile) : (s.modTile n f).wqs = s.wqs := rfl
@[simp] theorem State.modTile_saves (s : State) (n : Nat) (f : Tile → Tile) : (s.modTile n f).saves = s.saves := rfl
@[simp] theorem State.modTile_pkg (s : State) (n : Nat) (f : Tile → Tile) : (s.modTile n f).pkg = s.pkg := rfl
@[simp] theorem State.modTile_hbc0 (s : State) (n : Nat) (f : Tile → Tile) : (s.modTile n f).hbc0 = s.hbc0 := rfl
@[simp] theorem State.modTile_toHost (s : State) (n : Nat) (f : Tile → Tile) : (s.modTile n f).toHost = s.toHost := rfl
@[simp] theorem State.modTile_fromHost (s : State) (n : Nat) (f : Tile → Tile) : (s.modTile n f).fromHost = s.fromHost := rfl

/-! setDie -/
@[simp] theorem State.setDie_now (s : State) (n : Nat) (d : Die) : (s.setDie n d).now = s.now := rfl
@[simp] theorem State.setDie_who (s : State) (n : Nat) (d : Die) : (s.setDie n d).who = s.who := rfl
@[simp] theorem State.setDie_turn (s : State) (n : Nat) (d : Die) : (s.setDie n d).turn = s.turn := rfl
@[simp] theorem State.setDie_todo (s : State) (n : Nat) (d : Die) : (s.setDie n d).todo = s.todo := rfl
@[simp] theorem State.setDie_agenda (s : State) (n : Nat) (d : Die) : (s.setDie n d).agenda = s.agenda := rfl
@[simp] theorem State.setDie_ev (s : State) (n : Nat) (d : Die) : (s.setDie n d).ev = s.ev := rfl
@[simp] theorem State.setDie_freeCount (s : State) (n : Nat) (d : Die) : (s.setDie n d).freeCount = s.freeCount := rfl
@[simp] theorem State.setDie_cores (s : State) (n : Nat) (d : Die) : (s.setDie n d).cores = s.cores := rfl
@[simp] theorem State.setDie_dram (s : State) (n : Nat) (d : Die) : (s.setDie n d).dram = s.dram := rfl
@[simp] theorem State.setDie_remote (s : State) (n : Nat) (d : Die) : (s.setDie n d).remote = s.remote := rfl
@[simp] theorem State.setDie_scratch (s : State) (n : Nat) (d : Die) : (s.setDie n d).scratch = s.scratch := rfl
@[simp] theorem State.setDie_accum (s : State) (n : Nat) (d : Die) : (s.setDie n d).accum = s.accum := rfl
@[simp] theorem State.setDie_lines (s : State) (n : Nat) (d : Die) : (s.setDie n d).lines = s.lines := rfl
@[simp] theorem State.setDie_tiles (s : State) (n : Nat) (d : Die) : (s.setDie n d).tiles = s.tiles := rfl
@[simp] theorem State.setDie_reserved (s : State) (n : Nat) (d : Die) : (s.setDie n d).reserved = s.reserved := rfl
@[simp] theorem State.setDie_waiters (s : State) (n : Nat) (d : Die) : (s.setDie n d).waiters = s.waiters := rfl
@[simp] theorem State.setDie_lineQ (s : State) (n : Nat) (d : Die) : (s.setDie n d).lineQ = s.lineQ := rfl
@[simp] theorem State.setDie_badAcc (s : State) (n : Nat) (d : Die) : (s.setDie n d).badAcc = s.badAcc := rfl
@[simp] theorem State.setDie_badScr (s : State) (n : Nat) (d : Die) : (s.setDie n d).badScr = s.badScr := rfl
@[simp] theorem State.setDie_badDram (s : State) (n : Nat) (d : Die) : (s.setDie n d).badDram = s.badDram := rfl
@[simp] theorem State.setDie_fencedC (s : State) (n : Nat) (d : Die) : (s.setDie n d).fencedC = s.fencedC := rfl
@[simp] theorem State.setDie_fencedR (s : State) (n : Nat) (d : Die) : (s.setDie n d).fencedR = s.fencedR := rfl
@[simp] theorem State.setDie_recs (s : State) (n : Nat) (d : Die) : (s.setDie n d).recs = s.recs := rfl
@[simp] theorem State.setDie_wqs (s : State) (n : Nat) (d : Die) : (s.setDie n d).wqs = s.wqs := rfl
@[simp] theorem State.setDie_saves (s : State) (n : Nat) (d : Die) : (s.setDie n d).saves = s.saves := rfl
@[simp] theorem State.setDie_pkg (s : State) (n : Nat) (d : Die) : (s.setDie n d).pkg = s.pkg := rfl
@[simp] theorem State.setDie_hbc0 (s : State) (n : Nat) (d : Die) : (s.setDie n d).hbc0 = s.hbc0 := rfl
@[simp] theorem State.setDie_toHost (s : State) (n : Nat) (d : Die) : (s.setDie n d).toHost = s.toHost := rfl
@[simp] theorem State.setDie_fromHost (s : State) (n : Nat) (d : Die) : (s.setDie n d).fromHost = s.fromHost := rfl

/-! modDie -/
@[simp] theorem State.modDie_now (s : State) (n : Nat) (f : Die → Die) : (s.modDie n f).now = s.now := rfl
@[simp] theorem State.modDie_who (s : State) (n : Nat) (f : Die → Die) : (s.modDie n f).who = s.who := rfl
@[simp] theorem State.modDie_turn (s : State) (n : Nat) (f : Die → Die) : (s.modDie n f).turn = s.turn := rfl
@[simp] theorem State.modDie_todo (s : State) (n : Nat) (f : Die → Die) : (s.modDie n f).todo = s.todo := rfl
@[simp] theorem State.modDie_agenda (s : State) (n : Nat) (f : Die → Die) : (s.modDie n f).agenda = s.agenda := rfl
@[simp] theorem State.modDie_ev (s : State) (n : Nat) (f : Die → Die) : (s.modDie n f).ev = s.ev := rfl
@[simp] theorem State.modDie_freeCount (s : State) (n : Nat) (f : Die → Die) : (s.modDie n f).freeCount = s.freeCount := rfl
@[simp] theorem State.modDie_cores (s : State) (n : Nat) (f : Die → Die) : (s.modDie n f).cores = s.cores := rfl
@[simp] theorem State.modDie_dram (s : State) (n : Nat) (f : Die → Die) : (s.modDie n f).dram = s.dram := rfl
@[simp] theorem State.modDie_remote (s : State) (n : Nat) (f : Die → Die) : (s.modDie n f).remote = s.remote := rfl
@[simp] theorem State.modDie_scratch (s : State) (n : Nat) (f : Die → Die) : (s.modDie n f).scratch = s.scratch := rfl
@[simp] theorem State.modDie_accum (s : State) (n : Nat) (f : Die → Die) : (s.modDie n f).accum = s.accum := rfl
@[simp] theorem State.modDie_lines (s : State) (n : Nat) (f : Die → Die) : (s.modDie n f).lines = s.lines := rfl
@[simp] theorem State.modDie_tiles (s : State) (n : Nat) (f : Die → Die) : (s.modDie n f).tiles = s.tiles := rfl
@[simp] theorem State.modDie_reserved (s : State) (n : Nat) (f : Die → Die) : (s.modDie n f).reserved = s.reserved := rfl
@[simp] theorem State.modDie_waiters (s : State) (n : Nat) (f : Die → Die) : (s.modDie n f).waiters = s.waiters := rfl
@[simp] theorem State.modDie_lineQ (s : State) (n : Nat) (f : Die → Die) : (s.modDie n f).lineQ = s.lineQ := rfl
@[simp] theorem State.modDie_badAcc (s : State) (n : Nat) (f : Die → Die) : (s.modDie n f).badAcc = s.badAcc := rfl
@[simp] theorem State.modDie_badScr (s : State) (n : Nat) (f : Die → Die) : (s.modDie n f).badScr = s.badScr := rfl
@[simp] theorem State.modDie_badDram (s : State) (n : Nat) (f : Die → Die) : (s.modDie n f).badDram = s.badDram := rfl
@[simp] theorem State.modDie_fencedC (s : State) (n : Nat) (f : Die → Die) : (s.modDie n f).fencedC = s.fencedC := rfl
@[simp] theorem State.modDie_fencedR (s : State) (n : Nat) (f : Die → Die) : (s.modDie n f).fencedR = s.fencedR := rfl
@[simp] theorem State.modDie_recs (s : State) (n : Nat) (f : Die → Die) : (s.modDie n f).recs = s.recs := rfl
@[simp] theorem State.modDie_wqs (s : State) (n : Nat) (f : Die → Die) : (s.modDie n f).wqs = s.wqs := rfl
@[simp] theorem State.modDie_saves (s : State) (n : Nat) (f : Die → Die) : (s.modDie n f).saves = s.saves := rfl
@[simp] theorem State.modDie_pkg (s : State) (n : Nat) (f : Die → Die) : (s.modDie n f).pkg = s.pkg := rfl
@[simp] theorem State.modDie_hbc0 (s : State) (n : Nat) (f : Die → Die) : (s.modDie n f).hbc0 = s.hbc0 := rfl
@[simp] theorem State.modDie_toHost (s : State) (n : Nat) (f : Die → Die) : (s.modDie n f).toHost = s.toHost := rfl
@[simp] theorem State.modDie_fromHost (s : State) (n : Nat) (f : Die → Die) : (s.modDie n f).fromHost = s.fromHost := rfl

/-! setMe -/
@[simp] theorem State.setMe_now (s : State) (c : Core) : (s.setMe c).now = s.now := rfl
@[simp] theorem State.setMe_who (s : State) (c : Core) : (s.setMe c).who = s.who := rfl
@[simp] theorem State.setMe_turn (s : State) (c : Core) : (s.setMe c).turn = s.turn := rfl
@[simp] theorem State.setMe_todo (s : State) (c : Core) : (s.setMe c).todo = s.todo := rfl
@[simp] theorem State.setMe_agenda (s : State) (c : Core) : (s.setMe c).agenda = s.agenda := rfl
@[simp] theorem State.setMe_ev (s : State) (c : Core) : (s.setMe c).ev = s.ev := rfl
@[simp] theorem State.setMe_freeCount (s : State) (c : Core) : (s.setMe c).freeCount = s.freeCount := rfl
@[simp] theorem State.setMe_dram (s : State) (c : Core) : (s.setMe c).dram = s.dram := rfl
@[simp] theorem State.setMe_remote (s : State) (c : Core) : (s.setMe c).remote = s.remote := rfl
@[simp] theorem State.setMe_scratch (s : State) (c : Core) : (s.setMe c).scratch = s.scratch := rfl
@[simp] theorem State.setMe_accum (s : State) (c : Core) : (s.setMe c).accum = s.accum := rfl
@[simp] theorem State.setMe_lines (s : State) (c : Core) : (s.setMe c).lines = s.lines := rfl
@[simp] theorem State.setMe_tiles (s : State) (c : Core) : (s.setMe c).tiles = s.tiles := rfl
@[simp] theorem State.setMe_dies (s : State) (c : Core) : (s.setMe c).dies = s.dies := rfl
@[simp] theorem State.setMe_reserved (s : State) (c : Core) : (s.setMe c).reserved = s.reserved := rfl
@[simp] theorem State.setMe_waiters (s : State) (c : Core) : (s.setMe c).waiters = s.waiters := rfl
@[simp] theorem State.setMe_lineQ (s : State) (c : Core) : (s.setMe c).lineQ = s.lineQ := rfl
@[simp] theorem State.setMe_badAcc (s : State) (c : Core) : (s.setMe c).badAcc = s.badAcc := rfl
@[simp] theorem State.setMe_badScr (s : State) (c : Core) : (s.setMe c).badScr = s.badScr := rfl
@[simp] theorem State.setMe_badDram (s : State) (c : Core) : (s.setMe c).badDram = s.badDram := rfl
@[simp] theorem State.setMe_fencedC (s : State) (c : Core) : (s.setMe c).fencedC = s.fencedC := rfl
@[simp] theorem State.setMe_fencedR (s : State) (c : Core) : (s.setMe c).fencedR = s.fencedR := rfl
@[simp] theorem State.setMe_recs (s : State) (c : Core) : (s.setMe c).recs = s.recs := rfl
@[simp] theorem State.setMe_wqs (s : State) (c : Core) : (s.setMe c).wqs = s.wqs := rfl
@[simp] theorem State.setMe_saves (s : State) (c : Core) : (s.setMe c).saves = s.saves := rfl
@[simp] theorem State.setMe_pkg (s : State) (c : Core) : (s.setMe c).pkg = s.pkg := rfl
@[simp] theorem State.setMe_hbc0 (s : State) (c : Core) : (s.setMe c).hbc0 = s.hbc0 := rfl
@[simp] theorem State.setMe_toHost (s : State) (c : Core) : (s.setMe c).toHost = s.toHost := rfl
@[simp] theorem State.setMe_fromHost (s : State) (c : Core) : (s.setMe c).fromHost = s.fromHost := rfl

/-! setPos -/
@[simp] theorem State.setPos_now (s : State) (p : Pos) : (s.setPos p).now = s.now := rfl
@[simp] theorem State.setPos_who (s : State) (p : Pos) : (s.setPos p).who = s.who := rfl
@[simp] theorem State.setPos_turn (s : State) (p : Pos) : (s.setPos p).turn = s.turn := rfl
@[simp] theorem State.setPos_todo (s : State) (p : Pos) : (s.setPos p).todo = s.todo := rfl
@[simp] theorem State.setPos_agenda (s : State) (p : Pos) : (s.setPos p).agenda = s.agenda := rfl
@[simp] theorem State.setPos_ev (s : State) (p : Pos) : (s.setPos p).ev = s.ev := rfl
@[simp] theorem State.setPos_freeCount (s : State) (p : Pos) : (s.setPos p).freeCount = s.freeCount := rfl
@[simp] theorem State.setPos_dram (s : State) (p : Pos) : (s.setPos p).dram = s.dram := rfl
@[simp] theorem State.setPos_remote (s : State) (p : Pos) : (s.setPos p).remote = s.remote := rfl
@[simp] theorem State.setPos_scratch (s : State) (p : Pos) : (s.setPos p).scratch = s.scratch := rfl
@[simp] theorem State.setPos_accum (s : State) (p : Pos) : (s.setPos p).accum = s.accum := rfl
@[simp] theorem State.setPos_lines (s : State) (p : Pos) : (s.setPos p).lines = s.lines := rfl
@[simp] theorem State.setPos_tiles (s : State) (p : Pos) : (s.setPos p).tiles = s.tiles := rfl
@[simp] theorem State.setPos_dies (s : State) (p : Pos) : (s.setPos p).dies = s.dies := rfl
@[simp] theorem State.setPos_reserved (s : State) (p : Pos) : (s.setPos p).reserved = s.reserved := rfl
@[simp] theorem State.setPos_waiters (s : State) (p : Pos) : (s.setPos p).waiters = s.waiters := rfl
@[simp] theorem State.setPos_lineQ (s : State) (p : Pos) : (s.setPos p).lineQ = s.lineQ := rfl
@[simp] theorem State.setPos_badAcc (s : State) (p : Pos) : (s.setPos p).badAcc = s.badAcc := rfl
@[simp] theorem State.setPos_badScr (s : State) (p : Pos) : (s.setPos p).badScr = s.badScr := rfl
@[simp] theorem State.setPos_badDram (s : State) (p : Pos) : (s.setPos p).badDram = s.badDram := rfl
@[simp] theorem State.setPos_fencedC (s : State) (p : Pos) : (s.setPos p).fencedC = s.fencedC := rfl
@[simp] theorem State.setPos_fencedR (s : State) (p : Pos) : (s.setPos p).fencedR = s.fencedR := rfl
@[simp] theorem State.setPos_recs (s : State) (p : Pos) : (s.setPos p).recs = s.recs := rfl
@[simp] theorem State.setPos_wqs (s : State) (p : Pos) : (s.setPos p).wqs = s.wqs := rfl
@[simp] theorem State.setPos_saves (s : State) (p : Pos) : (s.setPos p).saves = s.saves := rfl
@[simp] theorem State.setPos_pkg (s : State) (p : Pos) : (s.setPos p).pkg = s.pkg := rfl
@[simp] theorem State.setPos_hbc0 (s : State) (p : Pos) : (s.setPos p).hbc0 = s.hbc0 := rfl
@[simp] theorem State.setPos_toHost (s : State) (p : Pos) : (s.setPos p).toHost = s.toHost := rfl
@[simp] theorem State.setPos_fromHost (s : State) (p : Pos) : (s.setPos p).fromHost = s.fromHost := rfl

/-! at_ -/
@[simp] theorem State.at_now (s : State) (k : Nat) (e : Event) : (s.at_ k e).now = s.now := rfl
@[simp] theorem State.at_who (s : State) (k : Nat) (e : Event) : (s.at_ k e).who = s.who := rfl
@[simp] theorem State.at_turn (s : State) (k : Nat) (e : Event) : (s.at_ k e).turn = s.turn := rfl
@[simp] theorem State.at_todo (s : State) (k : Nat) (e : Event) : (s.at_ k e).todo = s.todo := rfl
@[simp] theorem State.at_ev (s : State) (k : Nat) (e : Event) : (s.at_ k e).ev = s.ev := rfl
@[simp] theorem State.at_freeCount (s : State) (k : Nat) (e : Event) : (s.at_ k e).freeCount = s.freeCount := rfl
@[simp] theorem State.at_cores (s : State) (k : Nat) (e : Event) : (s.at_ k e).cores = s.cores := rfl
@[simp] theorem State.at_dram (s : State) (k : Nat) (e : Event) : (s.at_ k e).dram = s.dram := rfl
@[simp] theorem State.at_remote (s : State) (k : Nat) (e : Event) : (s.at_ k e).remote = s.remote := rfl
@[simp] theorem State.at_scratch (s : State) (k : Nat) (e : Event) : (s.at_ k e).scratch = s.scratch := rfl
@[simp] theorem State.at_accum (s : State) (k : Nat) (e : Event) : (s.at_ k e).accum = s.accum := rfl
@[simp] theorem State.at_lines (s : State) (k : Nat) (e : Event) : (s.at_ k e).lines = s.lines := rfl
@[simp] theorem State.at_tiles (s : State) (k : Nat) (e : Event) : (s.at_ k e).tiles = s.tiles := rfl
@[simp] theorem State.at_dies (s : State) (k : Nat) (e : Event) : (s.at_ k e).dies = s.dies := rfl
@[simp] theorem State.at_reserved (s : State) (k : Nat) (e : Event) : (s.at_ k e).reserved = s.reserved := rfl
@[simp] theorem State.at_waiters (s : State) (k : Nat) (e : Event) : (s.at_ k e).waiters = s.waiters := rfl
@[simp] theorem State.at_lineQ (s : State) (k : Nat) (e : Event) : (s.at_ k e).lineQ = s.lineQ := rfl
@[simp] theorem State.at_badAcc (s : State) (k : Nat) (e : Event) : (s.at_ k e).badAcc = s.badAcc := rfl
@[simp] theorem State.at_badScr (s : State) (k : Nat) (e : Event) : (s.at_ k e).badScr = s.badScr := rfl
@[simp] theorem State.at_badDram (s : State) (k : Nat) (e : Event) : (s.at_ k e).badDram = s.badDram := rfl
@[simp] theorem State.at_fencedC (s : State) (k : Nat) (e : Event) : (s.at_ k e).fencedC = s.fencedC := rfl
@[simp] theorem State.at_fencedR (s : State) (k : Nat) (e : Event) : (s.at_ k e).fencedR = s.fencedR := rfl
@[simp] theorem State.at_recs (s : State) (k : Nat) (e : Event) : (s.at_ k e).recs = s.recs := rfl
@[simp] theorem State.at_wqs (s : State) (k : Nat) (e : Event) : (s.at_ k e).wqs = s.wqs := rfl
@[simp] theorem State.at_saves (s : State) (k : Nat) (e : Event) : (s.at_ k e).saves = s.saves := rfl
@[simp] theorem State.at_pkg (s : State) (k : Nat) (e : Event) : (s.at_ k e).pkg = s.pkg := rfl
@[simp] theorem State.at_hbc0 (s : State) (k : Nat) (e : Event) : (s.at_ k e).hbc0 = s.hbc0 := rfl
@[simp] theorem State.at_toHost (s : State) (k : Nat) (e : Event) : (s.at_ k e).toHost = s.toHost := rfl
@[simp] theorem State.at_fromHost (s : State) (k : Nat) (e : Event) : (s.at_ k e).fromHost = s.fromHost := rfl

/-! after -/
@[simp] theorem State.after_now (s : State) (k : Nat) (e : Event) : (s.after k e).now = s.now := rfl
@[simp] theorem State.after_who (s : State) (k : Nat) (e : Event) : (s.after k e).who = s.who := rfl
@[simp] theorem State.after_turn (s : State) (k : Nat) (e : Event) : (s.after k e).turn = s.turn := rfl
@[simp] theorem State.after_todo (s : State) (k : Nat) (e : Event) : (s.after k e).todo = s.todo := rfl
@[simp] theorem State.after_ev (s : State) (k : Nat) (e : Event) : (s.after k e).ev = s.ev := rfl
@[simp] theorem State.after_freeCount (s : State) (k : Nat) (e : Event) : (s.after k e).freeCount = s.freeCount := rfl
@[simp] theorem State.after_cores (s : State) (k : Nat) (e : Event) : (s.after k e).cores = s.cores := rfl
@[simp] theorem State.after_dram (s : State) (k : Nat) (e : Event) : (s.after k e).dram = s.dram := rfl
@[simp] theorem State.after_remote (s : State) (k : Nat) (e : Event) : (s.after k e).remote = s.remote := rfl
@[simp] theorem State.after_scratch (s : State) (k : Nat) (e : Event) : (s.after k e).scratch = s.scratch := rfl
@[simp] theorem State.after_accum (s : State) (k : Nat) (e : Event) : (s.after k e).accum = s.accum := rfl
@[simp] theorem State.after_lines (s : State) (k : Nat) (e : Event) : (s.after k e).lines = s.lines := rfl
@[simp] theorem State.after_tiles (s : State) (k : Nat) (e : Event) : (s.after k e).tiles = s.tiles := rfl
@[simp] theorem State.after_dies (s : State) (k : Nat) (e : Event) : (s.after k e).dies = s.dies := rfl
@[simp] theorem State.after_reserved (s : State) (k : Nat) (e : Event) : (s.after k e).reserved = s.reserved := rfl
@[simp] theorem State.after_waiters (s : State) (k : Nat) (e : Event) : (s.after k e).waiters = s.waiters := rfl
@[simp] theorem State.after_lineQ (s : State) (k : Nat) (e : Event) : (s.after k e).lineQ = s.lineQ := rfl
@[simp] theorem State.after_badAcc (s : State) (k : Nat) (e : Event) : (s.after k e).badAcc = s.badAcc := rfl
@[simp] theorem State.after_badScr (s : State) (k : Nat) (e : Event) : (s.after k e).badScr = s.badScr := rfl
@[simp] theorem State.after_badDram (s : State) (k : Nat) (e : Event) : (s.after k e).badDram = s.badDram := rfl
@[simp] theorem State.after_fencedC (s : State) (k : Nat) (e : Event) : (s.after k e).fencedC = s.fencedC := rfl
@[simp] theorem State.after_fencedR (s : State) (k : Nat) (e : Event) : (s.after k e).fencedR = s.fencedR := rfl
@[simp] theorem State.after_recs (s : State) (k : Nat) (e : Event) : (s.after k e).recs = s.recs := rfl
@[simp] theorem State.after_wqs (s : State) (k : Nat) (e : Event) : (s.after k e).wqs = s.wqs := rfl
@[simp] theorem State.after_saves (s : State) (k : Nat) (e : Event) : (s.after k e).saves = s.saves := rfl
@[simp] theorem State.after_pkg (s : State) (k : Nat) (e : Event) : (s.after k e).pkg = s.pkg := rfl
@[simp] theorem State.after_hbc0 (s : State) (k : Nat) (e : Event) : (s.after k e).hbc0 = s.hbc0 := rfl
@[simp] theorem State.after_toHost (s : State) (k : Nat) (e : Event) : (s.after k e).toHost = s.toHost := rfl
@[simp] theorem State.after_fromHost (s : State) (k : Nat) (e : Event) : (s.after k e).fromHost = s.fromHost := rfl

/-! cancel -/
@[simp] theorem State.cancel_now (s : State) (p : Event → Bool) : (s.cancel p).now = s.now := rfl
@[simp] theorem State.cancel_who (s : State) (p : Event → Bool) : (s.cancel p).who = s.who := rfl
@[simp] theorem State.cancel_turn (s : State) (p : Event → Bool) : (s.cancel p).turn = s.turn := rfl
@[simp] theorem State.cancel_todo (s : State) (p : Event → Bool) : (s.cancel p).todo = s.todo := rfl
@[simp] theorem State.cancel_ev (s : State) (p : Event → Bool) : (s.cancel p).ev = s.ev := rfl
@[simp] theorem State.cancel_freeCount (s : State) (p : Event → Bool) : (s.cancel p).freeCount = s.freeCount := rfl
@[simp] theorem State.cancel_cores (s : State) (p : Event → Bool) : (s.cancel p).cores = s.cores := rfl
@[simp] theorem State.cancel_dram (s : State) (p : Event → Bool) : (s.cancel p).dram = s.dram := rfl
@[simp] theorem State.cancel_remote (s : State) (p : Event → Bool) : (s.cancel p).remote = s.remote := rfl
@[simp] theorem State.cancel_scratch (s : State) (p : Event → Bool) : (s.cancel p).scratch = s.scratch := rfl
@[simp] theorem State.cancel_accum (s : State) (p : Event → Bool) : (s.cancel p).accum = s.accum := rfl
@[simp] theorem State.cancel_lines (s : State) (p : Event → Bool) : (s.cancel p).lines = s.lines := rfl
@[simp] theorem State.cancel_tiles (s : State) (p : Event → Bool) : (s.cancel p).tiles = s.tiles := rfl
@[simp] theorem State.cancel_dies (s : State) (p : Event → Bool) : (s.cancel p).dies = s.dies := rfl
@[simp] theorem State.cancel_reserved (s : State) (p : Event → Bool) : (s.cancel p).reserved = s.reserved := rfl
@[simp] theorem State.cancel_waiters (s : State) (p : Event → Bool) : (s.cancel p).waiters = s.waiters := rfl
@[simp] theorem State.cancel_lineQ (s : State) (p : Event → Bool) : (s.cancel p).lineQ = s.lineQ := rfl
@[simp] theorem State.cancel_badAcc (s : State) (p : Event → Bool) : (s.cancel p).badAcc = s.badAcc := rfl
@[simp] theorem State.cancel_badScr (s : State) (p : Event → Bool) : (s.cancel p).badScr = s.badScr := rfl
@[simp] theorem State.cancel_badDram (s : State) (p : Event → Bool) : (s.cancel p).badDram = s.badDram := rfl
@[simp] theorem State.cancel_fencedC (s : State) (p : Event → Bool) : (s.cancel p).fencedC = s.fencedC := rfl
@[simp] theorem State.cancel_fencedR (s : State) (p : Event → Bool) : (s.cancel p).fencedR = s.fencedR := rfl
@[simp] theorem State.cancel_recs (s : State) (p : Event → Bool) : (s.cancel p).recs = s.recs := rfl
@[simp] theorem State.cancel_wqs (s : State) (p : Event → Bool) : (s.cancel p).wqs = s.wqs := rfl
@[simp] theorem State.cancel_saves (s : State) (p : Event → Bool) : (s.cancel p).saves = s.saves := rfl
@[simp] theorem State.cancel_pkg (s : State) (p : Event → Bool) : (s.cancel p).pkg = s.pkg := rfl
@[simp] theorem State.cancel_hbc0 (s : State) (p : Event → Bool) : (s.cancel p).hbc0 = s.hbc0 := rfl
@[simp] theorem State.cancel_toHost (s : State) (p : Event → Bool) : (s.cancel p).toHost = s.toHost := rfl
@[simp] theorem State.cancel_fromHost (s : State) (p : Event → Bool) : (s.cancel p).fromHost = s.fromHost := rfl

/-! Cores, tiles and dies. -/

theorem State.core_setCore (s : State) (n k : Nat) (c : Core) : (s.setCore n c).core k = if k = n then c else s.core k :=
  Map.get_set _ _ _ _ _
@[simp] theorem State.core_setCore_self (s : State) (n : Nat) (c : Core) : (s.setCore n c).core n = c := Map.get_set_self _ _ _ _
theorem State.core_setCore_ne (s : State) {n k : Nat} (c : Core) (h : k ≠ n) : (s.setCore n c).core k = s.core k :=
  Map.get_set_ne _ _ _ h
@[simp] theorem State.core_modCore_self (s : State) (n : Nat) (f : Core → Core) : (s.modCore n f).core n = f (s.core n) :=
  State.core_setCore_self _ _ _
theorem State.core_modCore_ne (s : State) {n k : Nat} (f : Core → Core) (h : k ≠ n) : (s.modCore n f).core k = s.core k :=
  State.core_setCore_ne _ _ h
@[simp] theorem State.tile_setTile_self (s : State) (n : Nat) (t : Tile) : (s.setTile n t).tile n = t := Map.get_set_self _ _ _ _
theorem State.tile_setTile_ne (s : State) {n k : Nat} (t : Tile) (h : k ≠ n) : (s.setTile n t).tile k = s.tile k :=
  Map.get_set_ne _ _ _ h
@[simp] theorem State.die_setDie_self (s : State) (n : Nat) (d : Die) : (s.setDie n d).die n = d := Map.get_set_self _ _ _ _
theorem State.die_setDie_ne (s : State) {n k : Nat} (d : Die) (h : k ≠ n) : (s.setDie n d).die k = s.die k :=
  Map.get_set_ne _ _ _ h
@[simp] theorem State.core_setTile (s : State) (n k : Nat) (t : Tile) : (s.setTile n t).core k = s.core k := rfl
@[simp] theorem State.core_setDie (s : State) (n k : Nat) (d : Die) : (s.setDie n d).core k = s.core k := rfl
@[simp] theorem State.tile_setCore (s : State) (n k : Nat) (c : Core) : (s.setCore n c).tile k = s.tile k := rfl
@[simp] theorem State.die_setCore (s : State) (n k : Nat) (c : Core) : (s.setCore n c).die k = s.die k := rfl
@[simp] theorem State.core_at_ (s : State) (k n : Nat) (e : Event) : (s.at_ k e).core n = s.core n := rfl
@[simp] theorem State.core_after (s : State) (k n : Nat) (e : Event) : (s.after k e).core n = s.core n := rfl
@[simp] theorem State.core_cancel (s : State) (p : Event → Bool) (n : Nat) : (s.cancel p).core n = s.core n := rfl

@[simp] theorem State.me_setMe (s : State) (c : Core) : (s.setMe c).me = c := State.core_setCore_self _ _ _
@[simp] theorem State.setMe_setMe_core (s : State) (c d : Core) (n : Nat) : ((s.setMe c).setMe d).core n = (s.setMe d).core n := by
  simp only [State.setMe, State.setCore_who, State.core_setCore]; split <;> simp_all
/-- Only the last of two writes of a core stands. -/
@[simp] theorem State.setCore_setCore (s : State) (n : Nat) (c d : Core) : (s.setCore n c).setCore n d = s.setCore n d := by
  simp [State.setCore]
@[simp] theorem State.setMe_setMe (s : State) (c d : Core) : (s.setMe c).setMe d = s.setMe d := State.setCore_setCore _ _ _ _
theorem State.core_setMe_ne (s : State) (c : Core) {n : Nat} (h : n ≠ s.who.core) : (s.setMe c).core n = s.core n :=
  State.core_setCore_ne _ _ h
@[simp] theorem State.me_after (s : State) (k : Nat) (e : Event) : (s.after k e).me = s.me := rfl
@[simp] theorem State.me_at_ (s : State) (k : Nat) (e : Event) : (s.at_ k e).me = s.me := rfl

/-! Registers of a core. -/

@[simp] theorem Core.getS_zero (c : Core) : c.getS 0 = 0 := rfl
@[simp] theorem Core.getA_zero (c : Core) : c.getA 0 = 0 := rfl
@[simp] theorem Core.getX_zero (c : Core) : c.getX 0 = 0 := rfl

/-- A register after a write: s0 discards it. -/
theorem Core.getS_setS (c : Core) (d r : Reg) (v : Word) : (c.setS d v).getS r = if r = d ∧ d ≠ 0 then v else c.getS r := by
  unfold Core.setS Core.getS
  by_cases hd : d = 0
  · simp [hd]
  · by_cases hr : r = 0
    · subst hr; simp [hd, Ne.symm hd]
    · by_cases h : r = d
      · subst h; simp [hd]
      · have h' : (d : Nat) ≠ (r : Nat) := fun e => h (Fin.ext e.symm)
        simp [hd, hr, h, Vector.getElem_set_ne _ _ h']

theorem Core.getA_setA (c : Core) (d r : Reg) (v : Word) : (c.setA d v).getA r = if r = d ∧ d ≠ 0 then v else c.getA r := by
  unfold Core.setA Core.getA
  by_cases hd : d = 0
  · simp [hd]
  · by_cases hr : r = 0
    · subst hr; simp [hd, Ne.symm hd]
    · by_cases h : r = d
      · subst h; simp [hd]
      · have h' : (d : Nat) ≠ (r : Nat) := fun e => h (Fin.ext e.symm)
        simp [hd, hr, h, Vector.getElem_set_ne _ _ h']

@[simp] theorem Core.setSys_mode (c : Core) (i : Nat) (v : Word) : (c.setSys i v).mode = c.mode := rfl
@[simp] theorem Core.setSys_s (c : Core) (i : Nat) (v : Word) : (c.setSys i v).s = c.s := rfl
@[simp] theorem Core.setSys_a (c : Core) (i : Nat) (v : Word) : (c.setSys i v).a = c.a := rfl
@[simp] theorem Core.setSys_aReady (c : Core) (i : Nat) (v : Word) : (c.setSys i v).aReady = c.aReady := rfl
@[simp] theorem Core.setSys_c (c : Core) (i : Nat) (v : Word) : (c.setSys i v).c = c.c := rfl
@[simp] theorem Core.setSys_ao (c : Core) (i : Nat) (v : Word) : (c.setSys i v).ao = c.ao := rfl
@[simp] theorem Core.setSys_xo (c : Core) (i : Nat) (v : Word) : (c.setSys i v).xo = c.xo := rfl
@[simp] theorem Core.setSys_xr (c : Core) (i : Nat) (v : Word) : (c.setSys i v).xr = c.xr := rfl
@[simp] theorem Core.setSys_q (c : Core) (i : Nat) (v : Word) : (c.setSys i v).q = c.q := rfl
@[simp] theorem Core.setSys_sh (c : Core) (i : Nat) (v : Word) : (c.setSys i v).sh = c.sh := rfl
@[simp] theorem Core.setSys_ctlb (c : Core) (i : Nat) (v : Word) : (c.setSys i v).ctlb = c.ctlb := rfl
@[simp] theorem Core.setSys_imemC (c : Core) (i : Nat) (v : Word) : (c.setSys i v).imemC = c.imemC := rfl
@[simp] theorem Core.setSys_imemA (c : Core) (i : Nat) (v : Word) : (c.setSys i v).imemA = c.imemA := rfl
@[simp] theorem Core.setSys_imemX (c : Core) (i : Nat) (v : Word) : (c.setSys i v).imemX = c.imemX := rfl
@[simp] theorem Core.setSys_desc (c : Core) (i : Nat) (v : Word) : (c.setSys i v).desc = c.desc := rfl
@[simp] theorem Core.setSys_trailer (c : Core) (i : Nat) (v : Word) : (c.setSys i v).trailer = c.trailer := rfl
@[simp] theorem Core.setSys_sc (c : Core) (i : Nat) (v : Word) : (c.setSys i v).sc = c.sc := rfl
@[simp] theorem Core.setSys_wd (c : Core) (i : Nat) (v : Word) : (c.setSys i v).wd = c.wd := rfl
@[simp] theorem Core.setSys_raises (c : Core) (i : Nat) (v : Word) : (c.setSys i v).raises = c.raises := rfl
@[simp] theorem Core.setSys_stopped (c : Core) (i : Nat) (v : Word) : (c.setSys i v).stopped = c.stopped := rfl
@[simp] theorem Core.setSys_traps (c : Core) (i : Nat) (v : Word) : (c.setSys i v).traps = c.traps := rfl
@[simp] theorem Core.setSys_pend (c : Core) (i : Nat) (v : Word) : (c.setSys i v).pend = c.pend := rfl
@[simp] theorem Core.setSys_frame (c : Core) (i : Nat) (v : Word) : (c.setSys i v).frame = c.frame := rfl
@[simp] theorem Core.setSys_batch (c : Core) (i : Nat) (v : Word) : (c.setSys i v).batch = c.batch := rfl
@[simp] theorem Core.setSys_lr (c : Core) (i : Nat) (v : Word) : (c.setSys i v).lr = c.lr := rfl
@[simp] theorem Core.setSys_ordinal (c : Core) (i : Nat) (v : Word) : (c.setSys i v).ordinal = c.ordinal := rfl
@[simp] theorem Core.setSys_ringBase (c : Core) (i : Nat) (v : Word) : (c.setSys i v).ringBase = c.ringBase := rfl
@[simp] theorem Core.setSys_ringSize (c : Core) (i : Nat) (v : Word) : (c.setSys i v).ringSize = c.ringSize := rfl
@[simp] theorem Core.setSys_spillBase (c : Core) (i : Nat) (v : Word) : (c.setSys i v).spillBase = c.spillBase := rfl
@[simp] theorem Core.setSys_spillSize (c : Core) (i : Nat) (v : Word) : (c.setSys i v).spillSize = c.spillSize := rfl
@[simp] theorem Core.setSys_binds (c : Core) (i : Nat) (v : Word) : (c.setSys i v).binds = c.binds := rfl
@[simp] theorem Core.setSys_mail (c : Core) (i : Nat) (v : Word) : (c.setSys i v).mail = c.mail := rfl
@[simp] theorem Core.setSys_posts (c : Core) (i : Nat) (v : Word) : (c.setSys i v).posts = c.posts := rfl
@[simp] theorem Core.setSys_nextPost (c : Core) (i : Nat) (v : Word) : (c.setSys i v).nextPost = c.nextPost := rfl
@[simp] theorem Core.setSys_arrivals (c : Core) (i : Nat) (v : Word) : (c.setSys i v).arrivals = c.arrivals := rfl
@[simp] theorem Core.setSys_sent (c : Core) (i : Nat) (v : Word) : (c.setSys i v).sent = c.sent := rfl
@[simp] theorem Core.setSys_before (c : Core) (i : Nat) (v : Word) : (c.setSys i v).before = c.before := rfl
@[simp] theorem Core.setSys_preempt (c : Core) (i : Nat) (v : Word) : (c.setSys i v).preempt = c.preempt := rfl
@[simp] theorem Core.setSys_load (c : Core) (i : Nat) (v : Word) : (c.setSys i v).load = c.load := rfl
@[simp] theorem Core.setSys_ctx (c : Core) (i : Nat) (v : Word) : (c.setSys i v).ctx = c.ctx := rfl
@[simp] theorem Core.setSys_ecc (c : Core) (i : Nat) (v : Word) : (c.setSys i v).ecc = c.ecc := rfl
@[simp] theorem Core.setSys_scales (c : Core) (i : Nat) (v : Word) : (c.setSys i v).scales = c.scales := rfl
@[simp] theorem Core.setSys_cst (c : Core) (i : Nat) (v : Word) : (c.setSys i v).cst = c.cst := rfl
@[simp] theorem Core.setSys_synced (c : Core) (i : Nat) (v : Word) : (c.setSys i v).synced = c.synced := rfl
@[simp] theorem Core.setSys_ovlBytes (c : Core) (i : Nat) (v : Word) : (c.setSys i v).ovlBytes = c.ovlBytes := rfl
/-- A write of a system register. -/
theorem Core.sysReg_setSys (c : Core) (i j : Nat) (v : Word) : (c.setSys i v).sysReg j = if j = i then v else c.sysReg j := by
  by_cases h : j = i
  · subst h; simp [Core.sysReg, Core.setSys]
  · simp [Core.sysReg, Core.setSys, h, Map.get_set_ne]

end Sys2Proof.Machine
end

