-- ==== Sys2Proof/Laws/Words.lean ====
section
/-! SUPPORT. What the shared operations of the C and A words can do: how a word retires, and what a word with a true guard answers. -/

namespace Sys2Proof.Machine

/-! Retiring. -/

/-- The core after a C word has retired in a cycle. -/
def Core.retireC (c : Core) (now : Nat) : Core :=
  let c := c.setSys 0x0B (c.sysReg 0x0B + 1)
  let p := c.c.pos
  let left := p.left - p.fwords
  { c with c := { c.c with pos := { p with pc := p.pc + p.flen, left := left, last := now, pfx := none, brk := false,
                                            phase := if left = 0 then .commit1 else p.phase } } }

theorem State.retire_c (s : State) (h : s.who.st = .c) : s.retire = s.setMe (s.me.retireC s.now) := by
  unfold State.retire Core.retireC Core.countIssue
  simp only [h, State.pos, State.setPos, State.me_setMe, State.setMe_who, Core.pos, Core.setPos]
  by_cases hl : s.me.c.pos.left - s.me.c.pos.fwords = 0
  · simp [hl]
  · simp [hl]

/-- The core after an A word has retired in a cycle. -/
def Core.retireA (c : Core) (now : Nat) : Core :=
  let p := c.ao.pos
  let left := p.left - p.fwords
  { c with ao := { c.ao with pos := { p with pc := p.pc + p.flen, left := left, last := now, pfx := none, brk := false,
                                              phase := if left = 0 then .runEnd else p.phase } } }
/-- The same for an X word. -/
def Core.retireX (c : Core) (now : Nat) : Core :=
  let p := c.xo.pos
  let left := p.left - p.fwords
  { c with xo := { c.xo with pos := { p with pc := p.pc + p.flen, left := left, last := now, pfx := none, brk := false,
                                              phase := if left = 0 then .runEnd else p.phase } } }

theorem State.retire_a (s : State) (h : s.who.st = .a) :
    s.retire = { s.setMe (s.me.retireA s.now) with turn := if s.me.ao.pos.left - s.me.ao.pos.fwords = 0 then some s.who else s.turn } := by
  unfold State.retire Core.retireA Core.countIssue
  simp only [h, State.pos, State.setPos, State.me_setMe, State.setMe_who, Core.pos, Core.setPos]
  by_cases hl : s.me.ao.pos.left - s.me.ao.pos.fwords = 0
  · simp [hl]
  · simp [hl]; rfl

theorem State.retire_x (s : State) (h : s.who.st = .x) :
    s.retire = { s.setMe (s.me.retireX s.now) with turn := if s.me.xo.pos.left - s.me.xo.pos.fwords = 0 then some s.who else s.turn } := by
  unfold State.retire Core.retireX Core.countIssue
  simp only [h, State.pos, State.setPos, State.me_setMe, State.setMe_who, Core.pos, Core.setPos]
  by_cases hl : s.me.xo.pos.left - s.me.xo.pos.fwords = 0
  · simp [hl]
  · simp [hl]; rfl

/-! C words. -/

theorem cWord_false {s : State} {g : Guard} {srcs : List Reg} {k : Core → Res} (h : s.me.guard .c g = false) :
    cWord s g srcs k = .next s.retire := by simp [cWord, h]

theorem cWord_busy {s : State} {g : Guard} {srcs : List Reg} {k : Core → Res} (h : s.me.guard .c g = true)
    (hb : busy s.me.c.ready s.now srcs = true) : cWord s g srcs k = .next s := by simp [cWord, h, hb]

theorem cWord_go {s : State} {g : Guard} {srcs : List Reg} {k : Core → Res} (h : s.me.guard .c g = true)
    (hb : busy s.me.c.ready s.now srcs = false) (he : s.me.bad (srcs.map (fun r => .s r)) = false) : cWord s g srcs k = k s.me := by
  unfold cWord; rw [if_neg (by simp [h]), if_neg (by simp [hb]), if_neg (by rw [he]; simp)]
/-- A source that holds an uncorrectable error traps. -/
theorem cWord_ecc {s : State} {g : Guard} {srcs : List Reg} {k : Core → Res} (h : s.me.guard .c g = true)
    (hb : busy s.me.c.ready s.now srcs = false) (he : s.me.bad (srcs.map (fun r => .s r)) = true) :
    cWord s g srcs k = s.trap .eccReg := by
  unfold cWord; rw [if_neg (by simp [h]), if_neg (by simp [hb]), if_pos he]

theorem cAlu_go {s : State} {g : Guard} {srcs : List Reg} {d : Reg} {lat : Nat} {f : Core → Word} (h : s.me.guard .c g = true)
    (hb : busy s.me.c.ready s.now srcs = false) (he : s.me.bad (srcs.map (fun r => .s r)) = false) :
    cAlu s g srcs d lat f = .next (s.cWrite d (f s.me) lat).retire := by
  simp [cAlu, cWord_go h hb he]

theorem cPred_go {s : State} {g : Guard} {srcs : List Reg} {pd : N8} {f : Core → Bool} (h : s.me.guard .c g = true)
    (hb : busy s.me.c.ready s.now srcs = false) (he : s.me.bad (srcs.map (fun r => .s r)) = false) :
    cPred s g srcs pd f = .next (s.setMe (s.me.setPred .c pd (f s.me))).retire := by
  simp [cPred, cWord_go h hb he]

theorem cHold_go {s : State} {g : Guard} {srcs : List Reg} {f : Core → Held} (h : s.me.guard .c g = true)
    (hb : busy s.me.c.ready s.now srcs = false) (he : s.me.bad (srcs.map (fun r => .s r)) = false) :
    cHold s g srcs f = .next (s.hold (f s.me)).retire := by
  simp [cHold, cWord_go h hb he]

/-! A words. -/

theorem aWord_go {s : State} {g : Guard} {srcs : List Reg} {k : Core → Res} (h : s.me.guard .a g = true) (hq : iqHolds s.me.ao = true)
    (hb : busy s.me.aReady s.now srcs = false) (he : s.me.bad (srcs.map (fun r => .a r)) = false) : aWord s g srcs k = k s.me := by
  unfold aWord; rw [if_neg (by simp [h, hq]), if_neg (by simp [hb]), if_neg (by rw [he]; simp)]

theorem aWord_false {s : State} {g : Guard} {srcs : List Reg} {k : Core → Res} (h : s.me.guard .a g = false ∨ iqHolds s.me.ao = false) :
    aWord s g srcs k = .next s.retire := by
  unfold aWord; rw [if_pos h]

theorem aAlu_go {s : State} {g : Guard} {srcs : List Reg} {d : Reg} {lat : Nat} {f : Core → Word} (h : s.me.guard .a g = true)
    (hq : iqHolds s.me.ao = true) (hb : busy s.me.aReady s.now srcs = false) (he : s.me.bad (srcs.map (fun r => .a r)) = false) :
    aAlu s g srcs d lat f = .next (s.aWrite d (f s.me) lat).retire := by simp [aAlu, aWord_go h hq hb he]

/-! Traps. -/

/-- A trap of the word being executed: it stands in the core's requests, its delivery follows the cycle's words. -/
theorem State.trap_next (s : State) (cause : Cause) (i0 i1 : Nat) : s.trap cause i0 i1 = .next (s.trapOf s.who cause i0 i1) := rfl

theorem State.late_core (s : State) (e : Event) (n : Nat) : (s.late e).core n = s.core n := by
  unfold State.late; split <;> rfl
theorem State.late_who (s : State) (e : Event) : (s.late e).who = s.who := by
  unfold State.late; split <;> rfl
theorem State.late_agenda (s : State) (e : Event) : s.late e = { s with agenda := (s.late e).agenda } := by
  unfold State.late; split <;> rfl
theorem agendaPut_mem (l : List (Nat × Event)) (k : Nat) (e : Event) : (k, e) ∈ agendaPut l k e := by
  induction l with
  | nil => simp [agendaPut]
  | cons a t ih => unfold agendaPut; split <;> simp [ih]
theorem State.late_mem (s : State) (e : Event) : (2 * s.now + 1, e) ∈ (s.late e).agenda := by
  unfold State.late
  split
  · rename_i h
    obtain ⟨x, hx, he⟩ := List.any_eq_true.1 h
    simp only [Bool.and_eq_true, beq_iff_eq] at he
    rw [← he.1, ← he.2]; exact hx
  · exact agendaPut_mem _ _ _

/-- The core after a stream of it has raised a trap: it stands at the word, or at its prefix, and the request is the last of the
core's. -/
def Core.raising (c : Core) (st : Stream) (cause : Cause) (i0 i1 : Nat) : Core :=
  let p := c.pos st
  let at_ := if p.pfx.isSome then p.pfxAt else p.pc
  let c := c.setPos st { p with pc := at_, left := if p.pfx.isSome then p.left + 1 else p.left, pfx := none }
  { c with traps := c.traps ++ [⟨streamCode st, 0, 0, cause, match st with | .c => p.blk | _ => at_, i0, i1⟩] }

theorem State.trapOf_eq (s : State) (ag : Agent) (cause : Cause) (i0 i1 : Nat) :
    s.trapOf ag cause i0 i1 = (s.setCore ag.core ((s.core ag.core).raising ag.st cause i0 i1)).late (.trapDelivery ag.core) := by
  unfold State.trapOf State.post Core.raising State.modCore
  simp only [State.core_setCore_self, State.setCore_setCore]
  all_goals rfl

theorem State.trapOf_me (s : State) (cause : Cause) (i0 i1 : Nat) :
    (s.trapOf s.who cause i0 i1).me = s.me.raising s.who.st cause i0 i1 := by
  rw [State.trapOf_eq]; unfold State.me; rw [State.late_who, State.late_core]; exact State.core_setCore_self _ _ _

theorem Core.raising_c (c : Core) (cause : Cause) (i0 i1 : Nat) :
    ∃ p, c.raising .c cause i0 i1
      = { c with c := { c.c with pos := p }, traps := c.traps ++ [⟨0, 0, 0, cause, c.c.pos.blk, i0, i1⟩] } := ⟨_, rfl⟩

theorem Core.pos_setPos (c : Core) (st : Stream) (p : Pos) : (c.setPos st p).pos st = p := by cases st <;> rfl
theorem State.me_setPos (s : State) (p : Pos) : (s.setPos p).me = s.me.setPos s.who.st p := State.me_setMe _ _
theorem State.pos_setPos (s : State) (p : Pos) : (s.setPos p).pos = p := by
  show ((s.setPos p).me).pos s.who.st = p; rw [State.me_setPos, Core.pos_setPos]

/-- What a raise puts on the core: one request, and the position of its stream. -/
theorem Core.raising_spec (c : Core) (st : Stream) (cause : Cause) (i0 i1 : Nat) : ∃ q, (c.raising st cause i0 i1).traps = c.traps ++ [q] ∧ q.cause = cause
   ∧ q.stream = streamCode st ∧ q.pc = (if st = .c then (c.pos st).blk else if (c.pos st).pfx.isSome then (c.pos st).pfxAt else (c.pos st).pc)
   ∧ c.raising st cause i0 i1 = { c.setPos st ((c.raising st cause i0 i1).pos st) with traps := (c.raising st cause i0 i1).traps } := by
  cases st
  · exact ⟨_, rfl, rfl, rfl, rfl, rfl⟩
  · exact ⟨_, rfl, rfl, rfl, rfl, rfl⟩
  · exact ⟨_, rfl, rfl, rfl, rfl, rfl⟩

/-! Events in a row. -/

theorem mem_agendaPut_of_mem {l : List (Nat × Event)} {k : Nat} {e : Event} {x : Nat × Event} (h : x ∈ l) : x ∈ agendaPut l k e := by
  induction l with
  | nil => cases h
  | cons a t ih =>
    unfold agendaPut; split
    · rcases List.mem_cons.1 h with h | h
      · simp [h]
      · simp [ih h]
    · simp at h ⊢; tauto
theorem State.foldl_after (l : List Nat) (f : Nat → Nat) (e : Nat → Event) (s : State) :
    (l.foldl (fun s n => s.after (f n) (e n)) s) = { s with agenda := (l.foldl (fun s n => s.after (f n) (e n)) s).agenda }
    ∧ (∀ x ∈ s.agenda, x ∈ (l.foldl (fun s n => s.after (f n) (e n)) s).agenda)
    ∧ (∀ n ∈ l, (2 * (s.now + f n), e n) ∈ (l.foldl (fun s n => s.after (f n) (e n)) s).agenda) := by
  induction l generalizing s with
  | nil => exact ⟨rfl, fun _ h => h, fun _ h => by cases h⟩
  | cons a t ih =>
    obtain ⟨h1, h2, h3⟩ := ih (s.after (f a) (e a))
    simp only [List.foldl_cons]
    refine ⟨by rw [h1]; rfl, fun x hx => h2 x (mem_agendaPut_of_mem hx), fun n hn => ?_⟩
    rcases List.mem_cons.1 hn with rfl | hn
    · exact h2 _ (agendaPut_mem _ _ _)
    · exact h3 n hn

/-! Shapes of the parts that the register writes change. -/

/-- Marks of errors only go. -/
theorem Core.mend_sub (c : Core) (r : RegId) : ∀ x ∈ (c.mend r).ecc, x ∈ c.ecc := fun _ h => (List.mem_filter.1 h).1
theorem Core.setS_eq (c : Core) (d : Reg) (v : Word) :
    ∃ v' e, c.setS d v = { c with s := v', ecc := e } ∧ ∀ x ∈ e, x ∈ c.ecc := by
  unfold Core.setS; split
  · exact ⟨c.s, c.ecc, rfl, fun _ h => h⟩
  · exact ⟨_, _, rfl, Core.mend_sub c _⟩
theorem Core.setA_eq (c : Core) (d : Reg) (v : Word) :
    ∃ v' e, c.setA d v = { c with a := v', ecc := e } ∧ ∀ x ∈ e, x ∈ c.ecc := by
  unfold Core.setA; split
  · exact ⟨c.a, c.ecc, rfl, fun _ h => h⟩
  · exact ⟨_, _, rfl, Core.mend_sub c _⟩
theorem Core.setX_eq (c : Core) (d : N16) (v : Word) :
    ∃ v' e, c.setX d v = { c with xr := { c.xr with x := v' }, ecc := e } ∧ ∀ x ∈ e, x ∈ c.ecc := by
  unfold Core.setX; split
  · exact ⟨c.xr.x, c.ecc, rfl, fun _ h => h⟩
  · exact ⟨_, _, rfl, Core.mend_sub c _⟩
theorem Core.setPred_c (c : Core) (d : N8) (v : Bool) : ∃ v', c.setPred .c d v = { c with c := { c.c with p := v' } } := by
  unfold Core.setPred; split
  · exact ⟨c.c.p, rfl⟩
  · exact ⟨_, rfl⟩
theorem Core.setPred_a (c : Core) (d : N8) (v : Bool) : ∃ v', c.setPred .a d v = { c with ao := { c.ao with p := v' } } := by
  unfold Core.setPred; split
  · exact ⟨c.ao.p, rfl⟩
  · exact ⟨_, rfl⟩

/-! Atomics. -/

theorem cAtomic_cas (s : State) (g : Guard) (dw : Bool) (d a b : Reg) :
    cAtomic .cas g dw d a b s = cHold s g [a, b, d] (fun c => .atomic .cas dw (c.getS a).toNat (c.getS b) (c.getS d) d) := rfl
theorem cAtomic_of_ne (s : State) (op : AtOp) (g : Guard) (dw : Bool) (d a b : Reg) (h : op ≠ .cas) :
    cAtomic op g dw d a b s = cHold s g [a, b] (fun c => .atomic op dw (c.getS a).toNat (c.getS b) (c.getS d) d) := by
  unfold cAtomic; rw [if_neg h]

/-! Targets of exits. -/

theorem wrapTo_64 (x : Int) : wrapTo 64 x = (BitVec.ofInt 64 x).toNat := by rw [BitVec.toNat_ofInt]; rfl

end Sys2Proof.Machine
end

