-- ==== Sys2Proof/Laws/ScalarDone.lean ====
section
/-! SUPPORT. What a C or A word answers, in the terms of the statements: once for each shared operation (a result, a predicate, an effect held until commit, a trap). -/

namespace Sys2Proof.Laws

open Sys2Proof.Machine Sys2Proof.Claims

theorem memSame_setMe (s : State) (c : Core) : memSame s (s.setMe c) := ⟨fun _ => rfl, fun _ => rfl, fun _ => rfl, fun _ => rfl⟩
theorem onlyMe_setMe (s : State) (c : Core) : onlyMe s (s.setMe c) :=
  ⟨fun _ h => State.core_setMe_ne s c h, memSame_setMe s c, rfl⟩
theorem onlyMe_turn (s : State) (c : Core) (w) : onlyMe s { s.setMe c with turn := w } :=
  ⟨fun _ h => State.core_setMe_ne s c h, memSame_setMe s c, rfl⟩

/-- general C completion -/
theorem cDone_core (s : State) (c : Core) (regs preds held) (hst : s.who.st = .c)
    (hc : ∃ sv p h r pos e, c = { s.me with s := sv, ecc := e, c := { s.me.c with p := p, held := h, ready := r, pos := pos } }
      ∧ ∀ x ∈ e, x ∈ s.me.ecc)
    (hr : ∀ r, c.getS r = regs r) (hp : ∀ p, c.pred .c p = preds p) (hh : c.c.held = held) :
    ∃ t, (Host.Outcome.next (s.setMe c).retire : Res) = .next t ∧ cDone s t regs preds held := by
  refine ⟨_, rfl, ?_⟩
  have hc' : (s.setMe c).who.st = .c := hst
  rw [State.retire_c _ hc']
  simp only [State.setMe_setMe, State.me_setMe, State.setMe_now]
  refine ⟨onlyMe_setMe _ _, ?_, ?_, ?_, ?_⟩
  · obtain ⟨sv, p, h, r, pos, e, rfl, he⟩ := hc
    simp only [State.me_setMe]
    generalize s.me = m at he ⊢
    refine ⟨rfl, he, ?_, ?_⟩
    · simp [Core.retireC, Core.sysReg, Core.setSys]
    · intro i hi
      simp [Core.retireC, Core.sysReg, Core.setSys, Map.get_set_ne _ _ _ hi]
  · intro r; rw [State.me_setMe, ← hr]; rfl
  · intro p; rw [State.me_setMe, ← hp]; rfl
  · rw [State.me_setMe, ← hh]; rfl

theorem cDone_retire (s : State) (hst : s.who.st = .c) :
    ∃ t, (Host.Outcome.next s.retire : Res) = .next t ∧ cDone s t s.me.getS (s.me.pred .c) s.me.c.held := by
  refine ⟨_, rfl, ?_⟩
  rw [State.retire_c _ hst]
  refine ⟨onlyMe_setMe _ _, ?_, ?_, ?_, ?_⟩
  · rw [State.me_setMe]
    generalize s.me = m
    refine ⟨rfl, fun _ h => h, ?_, ?_⟩
    · simp [Core.retireC, Core.sysReg, Core.setSys]
    · intro i hi
      simp [Core.retireC, Core.sysReg, Core.setSys, Map.get_set_ne _ _ _ hi]
  · intro r; rw [State.me_setMe]; rfl
  · intro p; rw [State.me_setMe]; rfl
  · rw [State.me_setMe]; rfl

theorem setPred_shape (c : Core) (d : N8) (v : Bool) : ∃ v', c.setPred .c d v = { c with c := { c.c with p := v' } } := by
  unfold Core.setPred; split
  · exact ⟨c.c.p, rfl⟩
  · exact ⟨_, rfl⟩

/-- A C word that writes a register completes (05 R100). -/
theorem cWrite_ok (s : State) (g : Guard) (srcs : List Reg) (d : Reg) (v : Word) (lat : Nat) (h : cGo s g srcs) :
    ∃ t, (Host.Outcome.next (s.cWrite d v lat).retire : Res) = .next t ∧ cDone s t (putR s.me.getS d v) (s.me.pred .c) s.me.c.held := by
  unfold State.cWrite
  obtain ⟨v', e, hw, he⟩ := Core.setS_eq s.me d v
  refine cDone_core s _ _ _ _ h.1 ?_ ?_ ?_ ?_
  · simp only [hw]; exact ⟨_, _, _, _, _, _, rfl, he⟩
  · intro r; unfold putR; rw [← Core.getS_setS]; rfl
  · simp only [hw]; intro p; rfl
  · simp only [hw]

theorem getS_if (c : Core) (d : Reg) (v : Word) (r : Reg) : (c.setS d v).getS r = putR c.getS d v r := by
  rw [Core.getS_setS]; rfl
theorem pred_if (c : Core) (d : N8) (v : Bool) (r : N8) : (c.setPred .c d v).pred .c r = putP (c.pred .c) d v r := by
  unfold putP Core.setPred Core.pred
  by_cases hd : d = 0
  · simp [hd]
  · by_cases hr : r = 0
    · simp [hr, hd]; exact .inl (fun h => hd h.symm)
    · by_cases e : r = d
      · subst e; simp [hd]
      · simp [hd, hr, e]; rw [Vector.getElem_set_ne]; intro h; exact e (Fin.ext h.symm)

/-- A C word that writes a predicate completes. -/
theorem cPred_ok {s : State} {g : Guard} {srcs : List Reg} {pd : N8} {v : Bool} {f : Core → Bool} (h : cGo s g srcs) (hf : f s.me = v) :
    ∃ t, cPred s g srcs pd f = .next t ∧ cDone s t s.me.getS (putP (s.me.pred .c) pd v) s.me.c.held := by
  rw [cPred_go h.2.1 h.2.2.1 h.2.2.2, hf]
  obtain ⟨v', hw⟩ := setPred_shape s.me pd v
  refine cDone_core s _ _ _ _ h.1 ?_ ?_ ?_ ?_
  · rw [hw]; exact ⟨_, _, _, _, _, _, rfl, fun _ h => h⟩
  · rw [hw]; intro r; rfl
  · intro p; exact pred_if _ _ _ _
  · rw [hw]

/-- A C word whose effect is held completes with one more held effect (05 R100). -/
theorem cHold_ok {s : State} {g : Guard} {srcs : List Reg} {v : Held} {f : Core → Held} (h : cGo s g srcs) (hf : f s.me = v) :
    ∃ t, cHold s g srcs f = .next t ∧ cDone s t s.me.getS (s.me.pred .c) (s.me.c.held ++ [v]) := by
  rw [cHold_go h.2.1 h.2.2.1 h.2.2.2, hf]
  refine cDone_core s _ _ _ _ h.1 ?_ ?_ ?_ ?_
  · exact ⟨_, _, _, _, _, _, rfl, fun _ h => h⟩
  · intro r; rfl
  · intro p; rfl
  · rfl
theorem hold_ok {s : State} (v : Held) (h : s.who.st = .c) :
    ∃ t, (Host.Outcome.next (s.hold v).retire : Res) = .next t ∧ cDone s t s.me.getS (s.me.pred .c) (s.me.c.held ++ [v]) := by
  refine cDone_core s _ _ _ _ h ?_ ?_ ?_ ?_
  · exact ⟨_, _, _, _, _, _, rfl, fun _ h => h⟩
  · intro r; rfl
  · intro p; rfl
  · rfl

/-- A C word with a computed result completes. -/
theorem cAlu_ok {s : State} {g : Guard} {srcs : List Reg} {d : Reg} {v : Word} {lat : Nat} {f : Core → Word} (h : cGo s g srcs) (hf : f s.me = v) :
    ∃ t, cAlu s g srcs d lat f = .next t ∧ cDone s t (putR s.me.getS d v) (s.me.pred .c) s.me.c.held := by
  rw [cAlu_go h.2.1 h.2.2.1 h.2.2.2, hf]; exact cWrite_ok s g srcs d v lat h
theorem condIs_eq (cc : Cond) (a b : Word) : condHolds cc a b = condIs cc a b := by
  cases cc <;> simp [condHolds, condIs, BitVec.slt_eq_decide, BitVec.ult_eq_decide, BitVec.sle_eq_decide, BitVec.ule_eq_decide]
  all_goals (by_cases h : a = b <;> simp [h])
theorem setPredA_shape (c : Core) (d : N8) (v : Bool) : ∃ v', c.setPred .a d v = { c with ao := { c.ao with p := v' } } := by
  unfold Core.setPred; split
  · exact ⟨c.ao.p, rfl⟩
  · exact ⟨_, rfl⟩
theorem aDone_core (s : State) (c : Core) (regs preds) (hst : s.who.st = .a)
    (hc : ∃ sv p r pos e, c = { s.me with a := sv, aReady := r, ecc := e, ao := { s.me.ao with p := p, pos := pos } }
      ∧ ∀ x ∈ e, x ∈ s.me.ecc)
    (hr : ∀ r, c.getA r = regs r) (hp : ∀ p, c.pred .a p = preds p) :
    ∃ t, (Host.Outcome.next (s.setMe c).retire : Res) = .next t ∧ aDone s t regs preds := by
  refine ⟨_, rfl, ?_⟩
  have hc' : (s.setMe c).who.st = .a := hst
  rw [State.retire_a _ hc']
  simp only [State.setMe_setMe, State.me_setMe, State.setMe_now]
  refine ⟨onlyMe_turn _ _ _, ?_, ?_, ?_⟩
  · obtain ⟨sv, p, r, pos, e, rfl, he⟩ := hc
    show aFrame s.me (s.setMe _).me
    rw [State.me_setMe]
    generalize s.me = m at he ⊢
    exact ⟨rfl, he⟩
  · intro r; show (s.setMe _).me.getA r = _; rw [State.me_setMe, ← hr]; rfl
  · intro p; show (s.setMe _).me.pred .a p = _; rw [State.me_setMe, ← hp]; rfl
/-- An A word that writes a register completes. -/
theorem aWrite_ok (s : State) (g : Guard) (srcs : List Reg) (d : Reg) (v : Word) (lat : Nat) (h : aGo s g srcs) :
    ∃ t, (Host.Outcome.next (s.aWrite d v lat).retire : Res) = .next t ∧ aDone s t (putR s.me.getA d v) (s.me.pred .a) := by
  unfold State.aWrite
  obtain ⟨v', e, hw, he⟩ := Core.setA_eq s.me d v
  refine aDone_core s _ _ _ h.1 ?_ ?_ ?_
  · simp only [hw]; exact ⟨_, _, _, _, _, rfl, he⟩
  · intro r; unfold putR; rw [← Core.getA_setA]; rfl
  · simp only [hw]; intro p; rfl
/-- An A word with a computed result completes. -/
theorem aAlu_ok {s : State} {g : Guard} {srcs : List Reg} {d : Reg} {v : Word} {lat : Nat} {f : Core → Word} (h : aGo s g srcs) (hf : f s.me = v) :
    ∃ t, aAlu s g srcs d lat f = .next t ∧ aDone s t (putR s.me.getA d v) (s.me.pred .a) := by
  rw [aAlu_go h.2.1 h.2.2.1 h.2.2.2.1 h.2.2.2.2, hf]; exact aWrite_ok s g srcs d v lat h
theorem predA_if (c : Core) (d : N8) (v : Bool) (r : N8) : (c.setPred .a d v).pred .a r = putP (c.pred .a) d v r := by
  unfold putP Core.setPred Core.pred
  by_cases hd : d = 0
  · simp [hd]
  · by_cases hr : r = 0
    · simp [hr, hd]; exact .inl (fun h => hd h.symm)
    · by_cases e : r = d
      · subst e; simp [hd]
      · simp [hd, hr, e]; rw [Vector.getElem_set_ne]; intro h; exact e (Fin.ext h.symm)
/-- An A word that writes a predicate completes. -/
theorem aPred_ok {s : State} {g : Guard} {srcs : List Reg} {pd : N8} {v : Bool} {f : Core → Bool} (h : aGo s g srcs) (hf : f s.me = v) :
    ∃ t, aPred s g srcs pd f = .next t ∧ aDone s t s.me.getA (putP (s.me.pred .a) pd v) := by
  unfold aPred; rw [aWord_go h.2.1 h.2.2.1 h.2.2.2.1 h.2.2.2.2, hf]
  obtain ⟨v', hw⟩ := setPredA_shape s.me pd v
  refine aDone_core s _ _ _ h.1 ?_ ?_ ?_
  · rw [hw]; exact ⟨_, _, _, _, _, rfl, fun _ h => h⟩
  · rw [hw]; intro r; rfl
  · intro p; exact predA_if _ _ _ _


theorem retireA_ex (s : State) (h : s.who.st = .a) : ∃ t, s.retire = t ∧ onlyMe s t ∧ t.me = s.me.retireA s.now :=
  ⟨_, State.retire_a s h, onlyMe_turn _ _ _, State.me_setMe _ _⟩
theorem retireX_ex (s : State) (h : s.who.st = .x) : ∃ t, s.retire = t ∧ onlyMe s t ∧ t.me = s.me.retireX s.now :=
  ⟨_, State.retire_x s h, onlyMe_turn _ _ _, State.me_setMe _ _⟩
theorem retireC_ex (s : State) (h : s.who.st = .c) : ∃ t, s.retire = t ∧ onlyMe s t ∧ t.me = s.me.retireC s.now :=
  ⟨_, State.retire_c s h, onlyMe_setMe _ _, State.me_setMe _ _⟩
/-- after setMe c -/
theorem setRetireA_ex (s : State) (c : Core) (h : s.who.st = .a) : ∃ t, (s.setMe c).retire = t ∧ onlyMe s t ∧ t.me = c.retireA s.now := by
  refine ⟨_, State.retire_a _ h, ?_, ?_⟩
  · simp only [State.setMe_setMe, State.me_setMe, State.setMe_now]; exact onlyMe_turn _ _ _
  · simp only [State.setMe_setMe, State.me_setMe, State.setMe_now]; exact State.me_setMe _ _
theorem setRetireX_ex (s : State) (c : Core) (h : s.who.st = .x) : ∃ t, (s.setMe c).retire = t ∧ onlyMe s t ∧ t.me = c.retireX s.now := by
  refine ⟨_, State.retire_x _ h, ?_, ?_⟩
  · simp only [State.setMe_setMe, State.me_setMe, State.setMe_now]; exact onlyMe_turn _ _ _
  · simp only [State.setMe_setMe, State.me_setMe, State.setMe_now]; exact State.me_setMe _ _
theorem setRetireC_ex (s : State) (c : Core) (h : s.who.st = .c) : ∃ t, (s.setMe c).retire = t ∧ onlyMe s t ∧ t.me = c.retireC s.now := by
  refine ⟨_, State.retire_c _ h, ?_, ?_⟩
  · simp only [State.setMe_setMe, State.me_setMe, State.setMe_now]; exact onlyMe_setMe _ _
  · simp only [State.setMe_setMe, State.me_setMe, State.setMe_now]
theorem Core.retireA_eq (c : Core) (n : Nat) : ∃ p, c.retireA n = { c with ao := { c.ao with pos := p } } := ⟨_, rfl⟩
theorem Core.retireX_eq (c : Core) (n : Nat) : ∃ p, c.retireX n = { c with xo := { c.xo with pos := p } } := ⟨_, rfl⟩
/-- An A word without a result retires. -/
theorem A_retire (s : State) (h : s.who.st = .a) : ∃ t, (Host.Outcome.next s.retire : Res) = .next t ∧ aDone s t s.me.getA (s.me.pred .a) := by
  obtain ⟨t, ht, ho, hm⟩ := retireA_ex s h
  refine ⟨t, by rw [ht], ho, ?_, ?_, ?_⟩ <;> rw [hm]
  · exact ⟨rfl, fun _ h => h⟩
  · exact fun _ => rfl
  · exact fun _ => rfl
/-- An A word that traps leaves its stream at the word (16 R343). -/
theorem aTrap_ok (s : State) (cause : Cause) (hst : s.who.st = .a) : ∃ t, s.trap cause = .next t ∧ aTrapped s t cause := by
  refine ⟨_, rfl, ?_⟩
  have hp : ∃ p, s.me.raising .a cause 0 0 = { s.me with ao := { s.me.ao with pos := p }, traps := s.me.traps ++ [⟨1, 0, 0, cause, if s.me.ao.pos.pfx.isSome then s.me.ao.pos.pfxAt else s.me.ao.pos.pc, 0, 0⟩] } := ⟨_, rfl⟩
  obtain ⟨p, hp⟩ := hp
  refine ⟨⟨p, ?_⟩, ?_, ?_, ?_, ?_⟩
  · rw [State.trapOf_me, hst, hp]
  · rw [State.trapOf_eq]; exact State.late_mem _ _
  · intro n hn; rw [State.trapOf_eq, State.late_core]; exact State.core_setCore_ne _ _ hn
  · rw [State.trapOf_eq, State.late_agenda]; exact ⟨fun _ => rfl, fun _ => rfl, fun _ => rfl, fun _ => rfl⟩
  · rw [State.trapOf_eq, State.late_agenda]; rfl
theorem setAfterRetireA_ex (s : State) (c : Core) (n : Nat) (e : Event) (h : s.who.st = .a) :
    ∃ t, ((s.setMe c).after n e).retire = t ∧ onlyMeAnd s t ∧ t.me = c.retireA s.now ∧ t.agenda = agendaPut s.agenda (2 * (s.now + n)) e := by
  refine ⟨_, State.retire_a _ h, ?_, ?_, rfl⟩
  · exact ⟨fun k hk => by
      show Map.get Core.fresh (Map.set (Map.set s.cores s.who.core c) s.who.core _) k = _
      rw [Map.get_set_ne _ _ _ hk, Map.get_set_ne _ _ _ hk]; rfl, ⟨fun _ => rfl, fun _ => rfl, fun _ => rfl, fun _ => rfl⟩, rfl⟩
  · show (State.setMe _ _).me = _
    rw [State.me_setMe]
    show (State.me (s.setMe c)).retireA s.now = _
    rw [State.me_setMe]
theorem foldl_at {α : Type} (l : List α) (f : α → Nat) (e : α → Event) (s : State) :
    (l.foldl (fun s n => s.at_ (f n) (e n)) s) = { s with agenda := (l.foldl (fun s n => s.at_ (f n) (e n)) s).agenda }
    ∧ (∀ x ∈ s.agenda, x ∈ (l.foldl (fun s n => s.at_ (f n) (e n)) s).agenda)
    ∧ (∀ n ∈ l, (2 * f n, e n) ∈ (l.foldl (fun s n => s.at_ (f n) (e n)) s).agenda) := by
  induction l generalizing s with
  | nil => exact ⟨rfl, fun _ h => h, fun _ h => by cases h⟩
  | cons a t ih =>
    obtain ⟨h1, h2, h3⟩ := ih (s.at_ (f a) (e a))
    simp only [List.foldl_cons]
    refine ⟨by rw [h1]; rfl, fun x hx => h2 x (mem_agendaPut_of_mem hx), fun n hn => ?_⟩
    rcases List.mem_cons.1 hn with rfl | hn
    · exact h2 _ (agendaPut_mem _ _ _)
    · exact h3 n hn
theorem setAgendaRetireA_ex (s : State) (c : Core) (l : List (Nat × Event)) (h : s.who.st = .a) :
    ∃ t, (State.retire { s.setMe c with agenda := l }) = t ∧ onlyMeAnd s t ∧ t.me = c.retireA s.now ∧ t.agenda = l := by
  refine ⟨_, State.retire_a _ h, ?_, ?_, rfl⟩
  · exact ⟨fun k hk => by
      show Map.get Core.fresh (Map.set (Map.set s.cores s.who.core c) s.who.core _) k = _
      rw [Map.get_set_ne _ _ _ hk, Map.get_set_ne _ _ _ hk]; rfl, ⟨fun _ => rfl, fun _ => rfl, fun _ => rfl, fun _ => rfl⟩, rfl⟩
  · show (State.setMe _ _).me = _
    rw [State.me_setMe]
    show (State.me (s.setMe c)).retireA s.now = _
    rw [State.me_setMe]

theorem aTrapped_of {s u t : State} {cause : Cause} (h : aTrapped u t cause) (hw : u.who = s.who) (hn : u.now = s.now) (hm : u.me = s.me)
    (hc : ∀ n, n ≠ s.who.core → u.core n = s.core n) (hs : memSame s u) (he : u = { s with cores := u.cores, agenda := u.agenda }) : aTrapped s t cause := by
  obtain ⟨⟨p, h1⟩, h2, h3, h4, h5⟩ := h
  rw [hm] at h1; rw [hw, hn] at h2; rw [hw] at h3
  refine ⟨⟨p, h1⟩, h2, fun n hn => (h3 n hn).trans (hc n hn), ?_, ?_⟩
  · exact ⟨fun a => (h4.1 a).trans (hs.1 a), fun a => (h4.2.1 a).trans (hs.2.1 a), fun a => (h4.2.2.1 a).trans (hs.2.2.1 a), fun a => (h4.2.2.2 a).trans (hs.2.2.2 a)⟩
  · rw [h5]; generalize t.cores = x; generalize t.agenda = y; rw [he]

/-- An X word that traps leaves its stream at the word (16 R343). -/
theorem xTrap_ok {s : State} {cause : Cause} {n : Nat} (hst : s.who.st = .x) : ∃ t, s.trap cause 0 n = .next t ∧ xTrapped s t cause n := by
  refine ⟨_, rfl, ?_⟩
  have hp : ∃ p, s.me.raising .x cause 0 n = { s.me with xo := { s.me.xo with pos := p }, traps := s.me.traps ++ [⟨2, 0, 0, cause, if s.me.xo.pos.pfx.isSome then s.me.xo.pos.pfxAt else s.me.xo.pos.pc, 0, n⟩] } := ⟨_, rfl⟩
  obtain ⟨p, hp⟩ := hp
  refine ⟨⟨p, ?_⟩, ?_, ?_, ?_, ?_⟩
  · rw [State.trapOf_me, hst, hp]
  · rw [State.trapOf_eq]; exact State.late_mem _ _
  · intro n hn; rw [State.trapOf_eq, State.late_core]; exact State.core_setCore_ne _ _ hn
  · rw [State.trapOf_eq, State.late_agenda]; exact ⟨fun _ => rfl, fun _ => rfl, fun _ => rfl, fun _ => rfl⟩
  · rw [State.trapOf_eq, State.late_agenda]; rfl

theorem ofInt_signExtend {n : Nat} (b : BitVec n) (h : n ≤ 64) : b.signExtend 64 = BitVec.ofInt 64 b.toInt := by
  exact signExtend_eq_ofInt b

theorem G_c (s : State) (h : s.who.st = .c) : ∃ t, (Host.Outcome.next s.retire : Res) = .next t ∧ onlyMe s t
      ∧ t.me = { s.me with sys := t.me.sys, c := { s.me.c with pos := t.me.c.pos }, ao := { s.me.ao with pos := t.me.ao.pos } }
      ∧ ∀ k, k ≠ 0x0B → t.me.sysReg k = s.me.sysReg k := by
  refine ⟨_, rfl, ?_⟩
  rw [State.retire_c _ h]
  refine ⟨onlyMe_setMe _ _, ?_, ?_⟩
  · rw [State.me_setMe]; rfl
  · rw [State.me_setMe]; intro i hi; simp [Core.retireC, Core.sysReg, Core.setSys, Map.get_set_ne _ _ _ hi]

theorem G_a (s : State) (h : s.who.st = .a) : ∃ t, (Host.Outcome.next s.retire : Res) = .next t ∧ onlyMe s t
      ∧ t.me = { s.me with sys := t.me.sys, c := { s.me.c with pos := t.me.c.pos }, ao := { s.me.ao with pos := t.me.ao.pos } }
      ∧ ∀ k, k ≠ 0x0B → t.me.sysReg k = s.me.sysReg k := by
  obtain ⟨t, ht, ho, hm⟩ := retireA_ex s h
  refine ⟨t, by rw [ht], ho, ?_, ?_⟩
  · rw [hm]; rfl
  · intro i hi; rw [hm]; rfl

/-- An A word waits for a source that is not ready (06 R122). -/
theorem aWord_busy {s : State} {g : Guard} {srcs : List Reg} {k : Core → Res} (h : s.me.guard .a g = true) (hq : iqHolds s.me.ao = true)
    (hb : busy s.me.aReady s.now srcs = true) : aWord s g srcs k = .next s := by simp [aWord, h, hq, hb]

end Sys2Proof.Laws
end

