-- ==== Sys2Proof/Laws/QueueDone.lean ====
section
/-! SUPPORT. What the A words of the vector queues answer. -/

namespace Sys2Proof.Laws

open Sys2Proof.Machine Sys2Proof.Claims

theorem segs_eq (f : Nat → Int) (w : Nat → Word) (h : ∀ k, BitVec.ofInt 64 (f k) = w k) : segsOf f = (List.range 4).map (fun k => (w k).toNat) := by
  unfold segsOf; simp only [h]
/-- The shared form of the queue loads (07 R140). -/
theorem row_ok (s : State) {i g srcs q stride segs} (h : QLoadRow s.me i g srcs q stride segs) :
    ∃ st form, exec i s = queueLoad s g srcs q st form ∧ st s.me = stride ∧ segAddrs (form s.me).1 (form s.me).2 = segs := by
  have hm : ∀ x : Word, BitVec.ofInt 64 x.toInt = x := fun x => by simp
  have hs : ∀ {n : Nat} (d : BitVec n), BitVec.ofInt 64 d.toInt = d.signExtend 64 := fun d => rfl
  cases h
  case ldq b disp =>
    rw [exec_ldq]; refine ⟨_, _, rfl, rfl, ?_⟩; rw [segs_eq _ (fun k => s.me.getA b + disp64 disp + BitVec.ofNat 64 (64 * k))]; rfl
    intro k; rw [BitVec.ofInt_add, BitVec.ofInt_add, hm, BitVec.ofInt_mul, hs, BitVec.mul_comm]; rfl
  case ldqShort b disp =>
    rw [exec_ldqShort]; refine ⟨_, _, rfl, rfl, ?_⟩; rw [segs_eq _ (fun k => s.me.getA b + BitVec.ofNat 64 (64 * disp.val) + BitVec.ofNat 64 (64 * k))]; rfl
    intro k; rw [BitVec.ofInt_add, BitVec.ofInt_add, hm]; rfl
  case ldqs b st =>
    rw [exec_ldqs]; refine ⟨_, _, rfl, rfl, ?_⟩; rw [segs_eq _ (fun k => s.me.getA b + BitVec.ofNat 64 k * s.me.getA st)]; rfl
    intro k; rw [BitVec.ofInt_add, hm, BitVec.ofInt_mul, hm]; rfl
  case ldqb b disp =>
    rw [exec_ldqb]; refine ⟨_, _, rfl, rfl, ?_⟩; rw [segs_eq _ (fun k => s.me.getA b + disp64 disp)]; rfl
    intro k; rw [BitVec.ofInt_add, hm, BitVec.ofInt_mul, hs, BitVec.mul_comm]; rfl
  case gathq b x =>
    rw [exec_gathq]; refine ⟨_, _, rfl, rfl, ?_⟩; rw [segs_eq _ (fun k => s.me.getA b + BitVec.ofNat 64 (field (s.me.getA x).toNat (16 * k) 16 * 64))]; rfl
    intro k; rw [BitVec.ofInt_add, hm, Int.mul_comm]; rfl
/-- The shared form of the queue stores (07). -/
theorem srow_ok (s : State) {i g srcs q stride segs} (h : QStoreRow s.me i g srcs q stride segs) :
    ∃ st form, exec i s = queueStore s g srcs q st form ∧ st s.me = stride ∧ segAddrs (form s.me).1 (form s.me).2 = segs := by
  have hm : ∀ x : Word, BitVec.ofInt 64 x.toInt = x := fun x => by simp
  have hs : ∀ {n : Nat} (d : BitVec n), BitVec.ofInt 64 d.toInt = d.signExtend 64 := fun d => rfl
  cases h
  case stq b disp =>
    rw [exec_stq]; refine ⟨_, _, rfl, rfl, ?_⟩; rw [segs_eq _ (fun k => s.me.getA b + disp64 disp + BitVec.ofNat 64 (64 * k))]; rfl
    intro k; rw [BitVec.ofInt_add, BitVec.ofInt_add, hm, BitVec.ofInt_mul, hs, BitVec.mul_comm]; rfl
  case stqShort b disp =>
    rw [exec_stqShort]; refine ⟨_, _, rfl, rfl, ?_⟩; rw [segs_eq _ (fun k => s.me.getA b + BitVec.ofNat 64 (64 * disp.val) + BitVec.ofNat 64 (64 * k))]; rfl
    intro k; rw [BitVec.ofInt_add, BitVec.ofInt_add, hm]; rfl
  case stqs b st =>
    rw [exec_stqs]; refine ⟨_, _, rfl, rfl, ?_⟩; rw [segs_eq _ (fun k => s.me.getA b + BitVec.ofNat 64 k * s.me.getA st)]; rfl
    intro k; rw [BitVec.ofInt_add, hm, BitVec.ofInt_mul, hm]; rfl
  case scatq b x =>
    rw [exec_scatq]; refine ⟨_, _, rfl, rfl, ?_⟩; rw [segs_eq _ (fun k => s.me.getA b + BitVec.ofNat 64 (field (s.me.getA x).toNat (16 * k) 16 * 64))]; rfl
    intro k; rw [BitVec.ofInt_add, hm, Int.mul_comm]; rfl
theorem queueSegs_go {s : State} {q : N8} {store segs stride got tlb} (h : planned s q store stride segs got tlb) (k : State → List (Nat × Place) → Res) :
    queueSegs s q.val store segs stride k = k (s.setMe { s.me with q := { s.me.q with tlb := s.me.q.tlb.setIfInBounds q.val tlb } }) (placesOf got segs) := by
  obtain ⟨h1, time, h2⟩ := h
  unfold queueSegs; dsimp only; rw [h1]; dsimp only; rw [h2]; rfl
theorem leNat_eq (l : List Byte) : leNat l = ofBytes l := by
  induction l with
  | nil => rfl
  | cons b t ih => show b.toNat + 256 * leNat t = b.toNat + 256 * ofBytes t; rw [ih]
theorem setIn_eq {α : Type} {n : Nat} (v : Vector α n) {i : Nat} (x : α) (h : i < n) : v.setIfInBounds i x = v.set i x h := by
  unfold Vector.setIfInBounds Vector.set; congr 1; simp [Array.setIfInBounds, h]

theorem set_getD_self {α : Type} {n : Nat} (v : Vector α n) {i : Nat} (d : α) : v.setIfInBounds i (v.getD i d) = v := by
  by_cases h : i < n
  · rw [setIn_eq _ _ h]; simp [Vector.getD, h]
  · ext j hj; rw [Vector.getElem_setIfInBounds]; rw [if_neg (by omega)]

end Sys2Proof.Laws
end

