-- ==== Sys2Proof/Laws/Commands.lean ====
section
/-! SUPPORT. What the words that place an engine command answer. -/

namespace Sys2Proof.Laws

open Sys2Proof.Machine Sys2Proof.Claims

theorem retireA_any (u : State) (h : u.who.st = .a) : ∃ t, u.retire = t ∧ t.me = u.me.retireA u.now ∧ (∀ n, n ≠ u.who.core → t.core n = u.core n)
    ∧ t = { u with cores := t.cores, turn := t.turn } :=
  ⟨_, State.retire_a _ h, State.me_setMe _ _, fun _ hn => State.core_setMe_ne _ _ hn, rfl⟩

/-- What the acceptance of a copy command changes (11 R239). -/
theorem accept_spec (s : State) (m : CCmd) :
    (s.acceptCopy m).me = s.me.setSys 0x5D (s.me.tags &&& ~~~(1#64 <<< m.tag.val))
    ∧ (∀ n, n ≠ s.who.core → (s.acceptCopy m).core n = s.core n) ∧ memSame s (s.acceptCopy m)
    ∧ (∀ k, k ≠ s.myTile → (s.acceptCopy m).tile k = s.tile k)
    ∧ (s.acceptCopy m).tile s.myTile = { s.tile s.myTile with
          cp := { s.cp s.myTile with cmds := (s.cp s.myTile).cmds ++ [m], nextId := (s.cp s.myTile).nextId + 1 } }
    ∧ (2 * (s.now + 1), Event.copyChannelTake s.myTile (m.tag.val % 4)) ∈ (s.acceptCopy m).agenda
    ∧ (s.acceptCopy m).who = s.who ∧ (s.acceptCopy m).now = s.now := by
  unfold State.acceptCopy
  refine ⟨?_, ?_, ⟨fun _ => rfl, fun _ => rfl, fun _ => rfl, fun _ => rfl⟩, ?_, ?_, agendaPut_mem _ _ _, rfl, rfl⟩
  · show (State.setMe _ _).me = _; rw [State.me_setMe]; rfl
  · intro n hn; exact State.core_setMe_ne _ _ hn
  · intro k hk; show State.tile (State.setTile _ _ _) k = _; exact State.tile_setTile_ne _ _ hk
  · show State.tile (State.setTile _ _ _) _ = _; exact State.tile_setTile_self _ _ _

theorem sysReg_set (c : Core) (i k : Nat) (v : Word) : (c.setSys i v).sysReg k = if k = i then v else c.sysReg k := by
  unfold Core.setSys Core.sysReg
  by_cases h : k = i
  · subst h; rw [if_pos rfl]; exact Map.get_set_self _ _ _ _
  · rw [if_neg h]; exact Map.get_set_ne _ _ _ h

theorem dfSet_bits (b : Batches) (n : N8) (d f : Bool) : (b.dfSet n d f).df.testBit (2 * n.val) = d ∧ (b.dfSet n d f).df.testBit (2 * n.val + 1) = f := by
  unfold Batches.dfSet; dsimp only
  rw [setBit_testBit, setBit_testBit, setBit_testBit]
  constructor <;> simp

theorem cmd_eq (s : State) (op a b d hold ord sq) : s.newCommand op a b d hold ord sq = commandOf s op a b d hold ord sq := by cases op <;> rfl

end Sys2Proof.Laws
end

