-- ==== Sys2Proof/Laws/Events.lean ====
section
/-! SUPPORT. What the shared operations of the events do: traps posted, waiters woken, requests dropped, memory written, a run committed. -/

namespace Sys2Proof.Laws

open Sys2Proof.Machine Sys2Proof.Claims

theorem due_at' (s : State) (k : Nat) (e : Event) : due (s.at_ k e) k e := agendaPut_mem _ _ _
theorem core_of {t : State} {m : Map Core} {n : Nat} {c : Core} (h : t.cores = Map.set m n c) : t.core n = c := by
  unfold State.core; rw [h]; exact Map.get_set_self _ _ _ _
theorem next_core {t : State} {P : State → Prop} {m : Map Core} {n : Nat} {c : Core} (hc : t.cores = Map.set m n c)
    (h : t.core n = c → P t) : ∃ u, (Host.Outcome.next t : Res) = .next u ∧ P u := ⟨t, rfl, h (core_of hc)⟩
theorem next_inCore {s t : State} {P : Core → Prop} {n : Nat} {c : Core} (ht : t = s.setCore n c) (hp : P c) :
    ∃ u, (Host.Outcome.next t : Res) = .next u ∧ inCore s n u ∧ P (u.core n) :=
  ⟨t, rfl, ⟨c, ht⟩, by rw [ht, State.core_setCore_self]; exact hp⟩

/-- `trapOf` in full. -/
theorem trapOf_spec (s : State) (ag : Agent) (cause : Cause) (i0 i1 : Nat) :
    ∃ a, s.trapOf ag cause i0 i1 = { s.setCore ag.core ((s.core ag.core).raising ag.st cause i0 i1) with agenda := a }
      ∧ (2 * s.now + 1, Event.trapDelivery ag.core) ∈ a := by
  rw [State.trapOf_eq, State.late_agenda]
  exact ⟨_, rfl, by simpa using State.late_mem (s.setCore ag.core ((s.core ag.core).raising ag.st cause i0 i1)) (.trapDelivery ag.core)⟩
theorem trapOf_sameMem (s : State) (ag : Agent) (cause : Cause) (i0 i1 : Nat) : sameMem s (s.trapOf ag cause i0 i1) := by
  obtain ⟨a, h, -⟩ := trapOf_spec s ag cause i0 i1; rw [h]; exact ⟨rfl, rfl, rfl, rfl⟩
theorem trapOf_core (s : State) (ag : Agent) (cause : Cause) (i0 i1 : Nat) :
    (s.trapOf ag cause i0 i1).core ag.core = (s.core ag.core).raising ag.st cause i0 i1 := by
  obtain ⟨a, h, -⟩ := trapOf_spec s ag cause i0 i1; rw [h]; exact core_of rfl
theorem trapOf_reserved (s : State) (ag : Agent) (cause : Cause) (i0 i1 : Nat) : (s.trapOf ag cause i0 i1).reserved = s.reserved := by
  obtain ⟨a, h, -⟩ := trapOf_spec s ag cause i0 i1; rw [h]; rfl
theorem raising_mem (c : Core) (st : Stream) (cause : Cause) (i0 i1 : Nat) :
    ⟨streamCode st, 0, 0, cause, match st with | .c => (c.pos st).blk | _ => if (c.pos st).pfx.isSome then (c.pos st).pfxAt else (c.pos st).pc, i0, i1⟩
      ∈ (c.raising st cause i0 i1).traps := by
  unfold Core.raising; dsimp only; exact List.mem_append_right _ (List.mem_singleton.2 rfl)

/-- A wake changes the agenda alone. -/
theorem wake_eq (s : State) (k : Nat) : ∃ a, s.wake k = { s with agenda := a } := by
  unfold State.wake; split
  · exact ⟨_, rfl⟩
  · exact ⟨s.agenda, rfl⟩
theorem wakes_eq (l : List Nat) (s : State) : ∃ a, l.foldl State.wake s = { s with agenda := a } := by
  induction l generalizing s with
  | nil => exact ⟨s.agenda, rfl⟩
  | cons k l ih =>
    obtain ⟨a, ha⟩ := wake_eq s k
    obtain ⟨b, hb⟩ := ih (s.wake k)
    exact ⟨b, by rw [List.foldl_cons, hb, ha]⟩
/-- What dropping the requests of a core changes (05 R101). -/
theorem dropRequests_spec (s : State) (core : Nat) :
    ∃ a d w, s.dropRequests core = { s with reserved := s.reserved.filter (fun e => e.2 != core), agenda := a, dies := d, waiters := w } := by
  unfold State.dropRequests; dsimp only
  obtain ⟨a, ha⟩ := wakes_eq (List.map (fun e => e.1) (List.filter (fun e => e.2 == core) s.reserved))
    { s with reserved := s.reserved.filter (fun e => e.2 != core),
             waiters := s.waiters.filter (fun w => w.who != Requester.run core),
             dies := s.dies.map (fun d => (d.1, { d.2 with resv := d.2.resv.filter (fun r => r.1 != core) })) }
  exact ⟨a, _, _, ha⟩

/-- the end of phase 2: the shapes are written, the held effects performed, the run ends (05 R101) -/
theorem phase2_end (s : State) {core : Nat} (hev : s.ev = .commitPhase2 core) (hp : (s.core core).c.pos.phase = .commit2)
    (hs : s.settles core ((s.core core).c.settle.getD s.now) = false) (P : State → Prop)
    (h : ∀ u, u = ((s.core core).c.held.foldl (State.perform core (runPlaces (s.core core)))
        (s.modCore core (fun c => { c with sh := laidShapes c.c.shapes c.sh }))).lateMerges core → ∀ t,
      (∃ a d w, t = { u with cores := t.cores, reserved := u.reserved.filter (fun e => e.2 != core), agenda := a, dies := d, waiters := w, turn := some ⟨core, .c⟩ }) →
      (t.core core = { u.core core with
          q := { (u.core core).q with bq := ((u.core core).q.bq.set 2 ((u.core core).q.bq[2].drop (u.core core).c.peek2)).set 3 ((u.core core).q.bq[3].drop (u.core core).c.peek3) },
          c := { (u.core core).c with shapes := [], undo := [], walk := none, settle := none, pos := { (u.core core).c.pos with phase := .runEnd } } }) →
      (∀ n, n ≠ core → t.core n = u.core n) → P t) :
    ∃ t, exec .commitPhase2 s = .next t ∧ P t := by
  rw [exec_commitPhase2]; unfold execCommitPhase2; rw [hev]; dsimp only
  rw [if_neg (by simp [hp]), if_neg (by simp [hs])]
  have hu := h _ rfl
  have hrp : ((s.core core).c.walk.map (fun w => w.got)).getD [] = runPlaces (s.core core) := rfl
  rw [hrp]
  generalize State.lateMerges ((s.core core).c.held.foldl (State.perform core (runPlaces (s.core core)))
    (s.modCore core (fun c => { c with sh := laidShapes c.c.shapes c.sh }))) core = u at hu ⊢
  refine ⟨_, rfl, ?_⟩
  obtain ⟨a, d, w, hd⟩ := dropRequests_spec ((u.modCore core (fun c =>
        { c with c := { c.c with shapes := [], undo := [], walk := none, settle := none,
                                 pos := { c.c.pos with phase := .runEnd } } })).modCore core (fun c =>
        { c with q := { c.q with bq := (c.q.bq.set 2 (c.q.bq[2].drop c.c.peek2)).set 3 (c.q.bq[3].drop c.c.peek3) } })) core
  have e1 : ∀ n, n ≠ core → ((u.modCore core (fun c =>
        { c with c := { c.c with shapes := [], undo := [], walk := none, settle := none,
                                 pos := { c.c.pos with phase := .runEnd } } })).modCore core (fun c =>
        { c with q := { c.q with bq := (c.q.bq.set 2 (c.q.bq[2].drop c.c.peek2)).set 3 (c.q.bq[3].drop c.c.peek3) } })).core n = u.core n := by
    intro n hn; unfold State.modCore; rw [State.core_setCore_ne _ _ hn, State.core_setCore_ne _ _ hn]
  apply hu
  · refine ⟨a, d, w, ?_⟩
    dsimp only at hd ⊢
    rw [hd]; rfl
  · dsimp only at hd ⊢
    rw [hd]
    refine (core_of (m := _) rfl).trans ?_
    unfold State.modCore
    rw [State.core_setCore_self]
  · intro n hn
    refine Eq.trans ?_ (e1 n hn)
    dsimp only at hd ⊢
    rw [hd]; rfl

/-- Bytes that are present are written, the others stay. -/
theorem byte_merge (m : Mem) (a : Nat) (bs : List (Option Byte)) : storedSome m (Mem.merge m a bs) a bs := by
  induction bs generalizing m a with
  | nil => intro k; simp [Mem.merge]
  | cons b bs ih =>
    intro k
    cases b with
    | none =>
      rw [Mem.merge, ih]
      by_cases h : a + 1 ≤ k
      · rw [if_pos h, if_pos (by omega), show k - a = (k - (a + 1)) + 1 by omega]; simp
      · rw [if_neg h]; split
        · rw [show k - a = 0 by omega]; simp
        · rfl
    | some b =>
      rw [Mem.merge, ih, Mem.byte_setByte]
      by_cases h : a + 1 ≤ k
      · rw [if_pos h, if_neg (show ¬ k = a by omega), if_pos (show a ≤ k by omega), show k - a = (k - (a + 1)) + 1 by omega]; simp
      · rw [if_neg h]
        by_cases h2 : k = a
        · subst h2; simp
        · rw [if_neg h2, if_neg (by omega)]

theorem stored_of_some (m m' : Mem) (a : Nat) (bs : List Byte) (h : storedSome m m' a (bs.map some)) : stored m m' a bs := by
  intro k; rw [h k]
  by_cases h1 : a ≤ k
  · by_cases h2 : k < a + bs.length
    · rw [if_pos h1, if_pos ⟨h1, h2⟩]
      have : k - a < bs.length := by omega
      simp [List.getD_eq_getElem?_getD, List.getElem?_map, List.getElem?_eq_getElem this]
    · rw [if_pos h1, if_neg (by omega)]
      have : bs.length ≤ k - a := by omega
      simp [List.getD_eq_getElem?_getD, List.getElem?_map, List.getElem?_eq_none this]
  · rw [if_neg h1, if_neg (by omega)]

theorem stored_setBytes (m : Mem) (a : Nat) (bs : List Byte) : stored m (Mem.setBytes m a bs) a bs := by
  intro k; rw [Mem.byte_setBytes]

theorem touch_eq (s : State) (pl : Place) (n : Nat) (st : Bool) : ∃ ti v, s.touch pl n st = { s with tiles := ti, saves := v } :=
  ⟨_, _, rfl⟩

theorem setMeta_eq (s : State) (l : Nat) (m : LineMeta) : ∃ x, s.setMeta l m = { s with lines := x } := ⟨_, rfl⟩

/-- a write of DRAM that is no home -/
theorem writePlace_dram (s : State) (dpa : Nat) (bytes : List (Option Byte)) (va gver core : Option Nat) (w : Writer)
    (h : inDram dpa = true → s.kindOf dpa = 0) :
    ∃ ti v l b, s.writePlace (.dram dpa) bytes va gver core w
      = .done { s with tiles := ti, saves := v, lines := l, badDram := b, dram := s.dram.merge dpa bytes } := by
  unfold State.writePlace
  obtain ⟨ti, v, ht⟩ := touch_eq s (.dram dpa) bytes.length gver.isSome
  dsimp only; rw [ht]
  by_cases hd : inDram dpa = true
  · rw [if_pos hd, if_neg (fun hne => hne (h hd))]
    exact ⟨_, _, _, _, rfl⟩
  · rw [if_neg hd]; exact ⟨_, _, s.lines, s.badDram, rfl⟩

theorem heldWrite_eq (s : State) (core : Nat) (d : Reg) (v : Word) : s.heldWrite core d v = s.setCore core ((s.core core).setS d v) := rfl

theorem core_setAcc (s : State) (a b c k : Nat) : (s.setAccWord a b c).core k = s.core k := rfl

theorem takeBefore_none (s : State) (core : Nat) (h : (s.core core).before = []) : s.takeBefore core = s := by
  unfold State.takeBefore; dsimp only; rw [h]

end Sys2Proof.Laws
end

