-- ==== Sys2Proof/Laws/VectorDone.lean ====
section
/-! SUPPORT. What an X word answers: its issue, the queues it takes from, the flight that its result becomes, lane by lane. -/

namespace Sys2Proof.Laws

open Sys2Proof.Machine Sys2Proof.Claims

theorem endWait_id {s : State} {n : Nat} (h : (s.core n).xr.sbWait = false) : s.endWait n = s := by
  simp [State.endWait, h]

/-- everything but bad and cells -/
def xReady (s : State) (w : XIn) : Prop := xGo s { w with bad := none, cells := false }

theorem contains_popped {srcs : List (Src × Nat)} {n : Nat} : (poppedQueues srcs).contains n = true → ∃ o ∈ srcs, ∃ k, o.1 = .q k ∧ k.val = n := by
  intro h
  simp only [poppedQueues, List.contains_iff_mem, List.mem_filterMap] at h
  obtain ⟨o, ho, h⟩ := h
  refine ⟨o, ho, ?_⟩
  split at h
  · rename_i k hk; simp at h; exact ⟨k, hk, h⟩
  · cases h

/-- An X word whose conditions hold goes on to its meaning (05 R116). -/
theorem xWord_ready {s : State} {w : XIn} {k : State → List Vec → Res} (h : xReady s w) :
    xWord s w k = match w.bad with
      | some cause => s.trap cause
      | none => if w.cells then xWord s w k else k s (s.me.srcVals w.srcs []) := by
  obtain ⟨hst, hsb, hd, hg, hiq, hgf, hh, hq, hqd, hr, hw, hl, hfma, hvr, h5, -, -, hec⟩ := h
  have hpos : s.pos.last = s.me.xo.pos.last := by unfold State.pos Core.pos; rw [hst]
  have hew : s.endWait s.who.core = s := endWait_id hsb
  have hv1 : s.me.violation s.now {} (if (s.me.xGuard w.guard).p = 0 then [] else [.p (s.me.xGuard w.guard).p.val]) = false := by
    unfold Core.violation
    simp only [Bool.or_eq_false_iff]
    refine ⟨⟨⟨?_, rfl⟩, ?_⟩, rfl⟩
    · rw [List.any_eq_false]; intro f hf
      split
      · simp
      · simp [hgf f hf]
    · rw [List.any_eq_false]; intro f hf; simp
  have h5' : ((poppedQueues w.srcs).contains 5 && s.scaleReader s.who.core) = false := by
    cases hc : (poppedQueues w.srcs).contains 5
    · rfl
    · obtain ⟨o, ho, k, hk, hk5⟩ := contains_popped hc
      rw [h5 ⟨o, ho, by rw [hk]; congr 1; exact Fin.ext hk5⟩]; rfl
  have hv2 : s.me.violation s.now w (s.me.srcItems w.srcs ++ w.reads) = false := by
    unfold Core.violation
    simp only [Bool.or_eq_false_iff]
    refine ⟨⟨⟨?_, ?_⟩, ?_⟩, ?_⟩
    · rw [List.any_eq_false]; intro f hf
      have : (s.me.srcItems w.srcs ++ w.reads).any f.hits = false := by
        rw [List.any_eq_false]; intro i hi; simp [hr f hf i hi]
      simp [this]
    · rw [List.any_eq_false]; intro o ho
      cases ho1 : o.1 <;> simp
      rename_i u
      unfold Core.latchLate
      rw [List.any_eq_false]; intro f hf
      cases hfu : f.unit with
      | none => simp
      | some p =>
        obtain ⟨p, v⟩ := p
        simp only [Bool.and_eq_true, decide_eq_true_eq, beq_iff_eq, not_and, Nat.not_lt]
        rintro rfl
        exact hl o ho p ho1 f hf v hfu
    · rw [List.any_eq_false]; intro f hf
      simp only [Bool.and_eq_true, not_and]
      intro ha
      obtain ⟨i, hi, hfi⟩ := List.any_eq_true.1 ha
      obtain ⟨t, ht, hlt⟩ := hw f hf i hi hfi
      rw [ht]; simp
      exact hlt
    · have : s.me.accepts s.now w.unit = true := by
        unfold Core.accepts
        split
        · simpa using hfma (by assumption)
        · rename_i u hu
          by_cases h6 : u = 6
          · subst h6; simp; exact hvr hu
          · simp [h6]
        · rfl
      simp [this]
  have haw : s.me.awaitsScale (s.me.srcItems w.srcs ++ w.reads) = false := by
    unfold Core.awaitsScale
    rw [List.any_eq_false]; intro f hf
    have : (s.me.srcItems w.srcs ++ w.reads).any f.hits = false := by
      rw [List.any_eq_false]; intro i hi; simp [hr f hf i hi]
    simp [this]
  have hlast : ¬ (s.now < s.pos.last + 1 + w.dly) := by rw [hpos]; exact Nat.not_lt.2 hd
  have hgi : ¬ (s.me.guard .x (s.me.xGuard w.guard) = false) := by
    dsimp only at hg; rw [hg]; simp
  have hii : ¬ (iqHolds s.me.xo = false) := by rw [hiq]; simp
  have hqw : s.me.queueWaits s.now w = false := by
    have e1 : w.qwait = false := hq
    have e2 : s.me.heads s.now w.srcs = true := hh
    unfold Core.queueWaits; rw [e1, e2]
    cases hx : w.qd with
    | none => rfl
    | some n => simpa using hqd n hx
  have hec' : s.me.bad ((s.me.srcItems w.srcs ++ w.reads).filterMap Item.reg) = false := hec
  cases hb : w.bad
  · cases hc : w.cells
    · simp only [xWord, if_neg hlast, hv1, if_neg hgi, if_neg hii, h5', hqw, hv2, haw, hew, hec', hb, hc, Bool.false_eq_true, if_false]
    · rfl
  · simp only [xWord, if_neg hlast, hv1, if_neg hgi, if_neg hii, h5', hqw, hv2, haw, hew, hec', hb, Bool.false_eq_true, if_false]

/-- The same with no bad row and no cells in flight. -/
theorem xWord_go {s : State} {w : XIn} {k : State → List Vec → Res} (h : xGo s w) :
    xWord s w k = k s (s.me.srcVals w.srcs []) := by
  have hb : w.bad = none := h.2.2.2.2.2.2.2.2.2.2.2.2.2.2.2.1
  have hc : w.cells = false := h.2.2.2.2.2.2.2.2.2.2.2.2.2.2.2.2.1
  rw [xWord_ready (w := w)]
  · rw [hb, hc]; rfl
  · show xGo s _
    have : ({ w with bad := none, cells := false } : XIn) = w := by cases w; cases hb; cases hc; rfl
    rw [this]; exact h

theorem setAfterRetireX_ex (s : State) (c : Core) (n : Nat) (e : Event) (h : s.who.st = .x) :
    ∃ t, ((s.setMe c).after n e).retire = t ∧ onlyMeAnd s t ∧ t.me = c.retireX s.now ∧ t.agenda = agendaPut s.agenda (2 * (s.now + n)) e := by
  refine ⟨_, State.retire_x _ h, ?_, ?_, rfl⟩
  · exact ⟨fun k hk => by
      show Map.get Core.fresh (Map.set (Map.set s.cores s.who.core c) s.who.core _) k = _
      rw [Map.get_set_ne _ _ _ hk, Map.get_set_ne _ _ _ hk]; rfl, ⟨fun _ => rfl, fun _ => rfl, fun _ => rfl, fun _ => rfl⟩, rfl⟩
  · show (State.setMe _ _).me = _
    rw [State.me_setMe]
    show (State.me (s.setMe c)).retireX s.now = _
    rw [State.me_setMe]

def popFold (c : Core) (l : List Nat) : Core :=
  l.foldl (fun c n =>
    let e := ((c.q.ld.getD n []).take 1).map (fun e => (n, e))
    { c with
      q := { c.q with ld := c.q.ld.setIfInBounds n ((c.q.ld.getD n []).drop 1) }
      scales := c.scales.map (fun v => { v with popped := v.popped ++ e }) }) c
theorem popFold_spec (l : List Nat) (c : Core) :
    popFold c l = { c with q := { c.q with ld := (popFold c l).q.ld }, scales := (popFold c l).scales }
    ∧ (∀ n, (popFold c l).q.ld.getD n [] = (c.q.ld.getD n []).drop (l.count n)) ∧ keptEntries c (popFold c l) := by
  induction l generalizing c with
  | nil => exact ⟨rfl, fun n => by simp [popFold], [], by simp [popFold]⟩
  | cons a t ih =>
    obtain ⟨h1, h2, e, h4⟩ := ih { c with
      q := { c.q with ld := c.q.ld.setIfInBounds a ((c.q.ld.getD a []).drop 1) }
      scales := c.scales.map (fun v => { v with popped := v.popped ++ ((c.q.ld.getD a []).take 1).map (fun e => (a, e)) }) }
    refine ⟨h1.trans rfl, fun n => ?_, ((c.q.ld.getD a []).take 1).map (fun e => (a, e)) ++ e, h4.trans ?_⟩
    · have h3 := h2 n
      refine h3.trans ?_
      have : (c.q.ld.setIfInBounds a ((c.q.ld.getD a []).drop 1)).getD n [] = if a = n then (c.q.ld.getD n []).drop 1 else c.q.ld.getD n [] := by
        by_cases hn : n < 6
        · by_cases h : a = n
          · subst h; simp [Vector.getD, hn]
          · simp [Vector.getD, hn, h, Vector.getElem_setIfInBounds_ne]
        · simp [Vector.getD, hn]
      show List.drop (List.count n t) ((c.q.ld.setIfInBounds a ((c.q.ld.getD a []).drop 1)).getD n []) = _
      rw [this]
      by_cases h : a = n
      · subst h; simp [Nat.add_comm]
      · simp [h]
    · show List.map _ (List.map _ _) = _
      rw [List.map_map]
      apply List.map_congr_left
      intro v _
      simp only [Function.comp_apply, List.append_assoc]
theorem count_popped (srcs : List (Src × Nat)) (n : Nat) :
    (poppedQueues srcs).count n = (srcs.filter (fun o => decide (∃ k, o.1 = .q k ∧ k.val = n))).length := by
  induction srcs with
  | nil => rfl
  | cons o t ih =>
    obtain ⟨o, w⟩ := o
    unfold poppedQueues at ih ⊢
    cases o <;> simp [ih, List.filter_cons]
    rename_i k
    by_cases h : k.val = n
    · simp [h, ih]
    · simp [h, ih]
theorem popSrcs_spec (c : Core) (srcs : List (Src × Nat)) :
    c.popSrcs srcs = { c with q := { c.q with ld := (c.popSrcs srcs).q.ld }, scales := (c.popSrcs srcs).scales }
      ∧ popped c (c.popSrcs srcs) srcs ∧ keptEntries c (c.popSrcs srcs) := by
  have := popFold_spec (poppedQueues srcs) c
  exact ⟨this.1, fun n => by rw [← count_popped]; exact this.2.1 n, this.2.2⟩

/-- the core part of a result -/
def resCore (c : Core) (now : Nat) (w : XIn) (dst : FDst) (latch : Vec) (so : SealOp) (busy : Nat) : Core :=
  let c := c.popSrcs w.srcs
  let (u, r) := c.xr.serve now busy w.unit
  let id := r.nextId
  let f : Flight := ⟨id, some (now + w.lat), u.map (fun u => (u, latch)), dst, so, false⟩
  let q := match dst with
    | .q n v en => { c.q with st := c.q.st.setIfInBounds (n - 6) ((c.q.st.getD (n - 6) []) ++ [⟨id, v, en, Option.none⟩]) }
    | _ => c.q
  { c with q := q, xr := { r with flights := r.flights ++ [f], nextId := id + 1 } }
theorem resCore_eq (c : Core) (now : Nat) (w : XIn) (dst : FDst) (latch : Vec) (so : SealOp) (busy : Nat) :
    popped c (resCore c now w dst latch so busy) w.srcs ∧ keptEntries c (resCore c now w dst latch so busy)
    ∧ resCore c now w dst latch so busy = { c with
      q := { c.q with ld := (resCore c now w dst latch so busy).q.ld, st := slotted c dst }
      scales := (resCore c now w dst latch so busy).scales
      xr := { c.xr with
        flights := c.xr.flights
          ++ [⟨c.xr.nextId, some (now + w.lat), (servedBy c.xr now w.unit).map (fun u => (u, latch)), dst, so, false⟩],
        nextId := c.xr.nextId + 1,
        fma0 := if w.unit = .fma ∧ c.xr.fma0 ≤ now then now + 2 else c.xr.fma0,
        fma1 := if w.unit = .fma ∧ now < c.xr.fma0 then now + 2 else c.xr.fma1,
        vred := if w.unit = .one 6 then now + busy else c.xr.vred } } := by
  obtain ⟨h1, h2, h3⟩ := popSrcs_spec c w.srcs
  unfold resCore
  rw [h1]
  generalize (c.popSrcs w.srcs).q.ld = L at *
  generalize (c.popSrcs w.srcs).scales = K at *
  have hp : popped c { c with q := { c.q with ld := L }, scales := K } w.srcs := by rw [← h1]; exact h2
  have hk : keptEntries c { c with q := { c.q with ld := L }, scales := K } := by rw [← h1]; exact h3
  unfold XRegs.serve servedBy slotted
  cases w.unit with
  | none => cases dst <;> exact ⟨hp, hk, by simp⟩
  | one u => by_cases h6 : u = 6 <;> cases dst <;> refine ⟨hp, hk, ?_⟩ <;> simp [h6]
  | fma => by_cases h6 : c.xr.fma0 ≤ now <;> cases dst <;> refine ⟨fun n => by simp only [h6, if_true, if_false]; exact hp n, by simp only [h6, if_true, if_false]; exact hk, ?_⟩ <;> simp [h6]

theorem xResult_def (s : State) (w : XIn) (dst : FDst) (latch : Vec) (so : SealOp) (busy : Nat) :
    s.xResult w dst latch so busy = ((s.setMe (resCore s.me s.now w dst latch so busy)).after w.lat
      (.xResultLand s.who.core ((s.me.popSrcs w.srcs).xr.serve s.now busy w.unit).2.nextId)).retire := rfl
/-- The result of an X word becomes a flight (05 R115). -/
theorem xResult_ok {s : State} {w : XIn} {dst : FDst} {latch : Vec} {so : SealOp} {busy : Nat} (hst : s.who.st = .x) :
    ∃ t, (Host.Outcome.next (s.xResult w dst latch so busy) : Res) = .next t ∧ xDone s t w dst latch so 0 busy := by
  obtain ⟨t, ht, ho, hm, ha⟩ := setAfterRetireX_ex s (resCore s.me s.now w dst latch so busy) w.lat (.xResultLand s.who.core s.me.xr.nextId) hst
  obtain ⟨h1, hk, h2⟩ := resCore_eq s.me s.now w dst latch so busy
  have hid : ((s.me.popSrcs w.srcs).xr.serve s.now busy w.unit).2.nextId = s.me.xr.nextId := by
    rw [(popSrcs_spec s.me w.srcs).1]; unfold XRegs.serve
    cases w.unit with
    | none => rfl
    | one u => by_cases h6 : u = 6 <;> simp [h6]
    | fma => by_cases h6 : s.me.xr.fma0 ≤ s.now <;> simp [h6]
  refine ⟨t, ?_, ho, ?_, ?_, ?_, ?_, ?_, ?_⟩
  · rw [← ht, ← hid]; rfl
  · rw [hm]; exact h1
  · rw [hm]; exact hk
  · rw [ha]; exact agendaPut_mem _ _ _
  · rw [hm, h2]; rfl
  · intro i hi; rw [hm, h2]; rfl
  · rw [hm, h2]; simp [Core.retireX, Core.sysReg]

theorem xResultSr_ok {s : State} {w : XIn} {dst : FDst} {latch : Vec} {so : SealOp} {busy n : Nat} (hst : s.who.st = .x) :
    ∃ t, (Host.Outcome.next ((s.setMe (s.me.takeSr n)).xResult w dst latch so busy) : Res) = .next t ∧ xDone s t w dst latch so n busy := by
  obtain ⟨t, ht, ho, hm, ha⟩ := setAfterRetireX_ex s (resCore (s.me.takeSr n) s.now w dst latch so busy) w.lat (.xResultLand s.who.core s.me.xr.nextId) hst
  obtain ⟨h1, hk, h2⟩ := resCore_eq (s.me.takeSr n) s.now w dst latch so busy
  have hsr : ∃ sy, s.me.takeSr n = { s.me with sys := sy } ∧ (∀ i, i ≠ 0x53 → (s.me.takeSr n).sysReg i = s.me.sysReg i)
      ∧ (s.me.takeSr n).sysReg 0x53 = s.me.sysReg 0x53 + BitVec.ofNat 64 (if s.me.xRnd = .sr then n else 0) := by
    unfold Core.takeSr
    split
    · exact ⟨_, rfl, fun i hi => by simp [Core.sysReg, Core.setSys, Map.get_set_ne _ _ _ hi], by simp [Core.sysReg, Core.setSys]⟩
    · exact ⟨_, rfl, fun _ _ => rfl, by simp⟩
  obtain ⟨sy, hs1, hs2, hs3⟩ := hsr
  have hid : (((s.me.takeSr n).popSrcs w.srcs).xr.serve s.now busy w.unit).2.nextId = s.me.xr.nextId := by
    rw [(popSrcs_spec _ w.srcs).1, hs1]; unfold XRegs.serve
    cases w.unit with
    | none => rfl
    | one u => by_cases h6 : u = 6 <;> simp [h6]
    | fma => by_cases h6 : s.me.xr.fma0 ≤ s.now <;> simp [h6]
  refine ⟨t, ?_, ho, ?_, ?_, ?_, ?_, ?_, ?_⟩
  · rw [← ht, ← hid]
    rw [xResult_def, State.me_setMe, State.setMe_setMe]; rfl
  · rw [hm]; intro k; have := h1 k; rw [hs1] at this ⊢; exact this
  · rw [hm]; rw [hs1] at hk ⊢; exact hk
  · rw [ha]; exact agendaPut_mem _ _ _
  · rw [hm, h2, hs1]; rfl
  · intro i hi; rw [hm, h2]; exact hs2 i hi
  · rw [hm, h2]; exact hs3

/-! lanes -/
theorem toNat_ofLanes_aux (w : Nat) (vs : List Nat) : vs.foldr (fun v r => r * 2 ^ w + v % 2 ^ w) 0 < 2 ^ (w * vs.length) := by
  induction vs with
  | nil => simp
  | cons a t ih =>
    simp only [List.foldr_cons, List.length_cons]
    have h1 := Nat.mod_lt a (Nat.two_pow_pos w)
    have : 2 ^ (w * (t.length + 1)) = 2 ^ (w * t.length) * 2 ^ w := by rw [← Nat.pow_add]; congr 1
    rw [this]
    calc _ < (t.foldr (fun v r => r * 2 ^ w + v % 2 ^ w) 0) * 2 ^ w + 2 ^ w := by omega
      _ = (t.foldr (fun v r => r * 2 ^ w + v % 2 ^ w) 0 + 1) * 2 ^ w := by ring
      _ ≤ _ := Nat.mul_le_mul_right _ ih
theorem lane_foldr (w : Nat) (vs : List Nat) (k : Nat) (hk : k < vs.length) :
    (vs.foldr (fun v r => r * 2 ^ w + v % 2 ^ w) 0) / 2 ^ (w * k) % 2 ^ w = vs[k] % 2 ^ w := by
  induction vs generalizing k with
  | nil => cases hk
  | cons a t ih =>
    simp only [List.foldr_cons]
    cases k with
    | zero => simp
    | succ k =>
      have h2 : 2 ^ (w * (k + 1)) = 2 ^ w * 2 ^ (w * k) := by rw [← Nat.pow_add]; congr 1; ring
      rw [h2, ← Nat.div_div_eq_div_mul]
      have h3 : (t.foldr (fun v r => r * 2 ^ w + v % 2 ^ w) 0 * 2 ^ w + a % 2 ^ w) / 2 ^ w = t.foldr (fun v r => r * 2 ^ w + v % 2 ^ w) 0 := by
        rw [Nat.add_comm, Nat.add_mul_div_right _ _ (Nat.two_pow_pos w), Nat.div_eq_of_lt (Nat.mod_lt _ (Nat.two_pow_pos w)), Nat.zero_add]
      rw [h3, ih k (by simpa using hk)]
      simp
/-- The lanes of a vector that is built of lanes. -/
theorem lane_ofLanes (w : Nat) (vs : List Nat) (h : w * vs.length ≤ 2048) (k : Nat) (hk : k < vs.length) :
    lane (ofLanes w vs) w k = vs[k] % 2 ^ w := by
  have hlt := Nat.lt_of_lt_of_le (toNat_ofLanes_aux w vs) (Nat.pow_le_pow_right (n := 2) (by decide) h)
  unfold lane ofLanes
  rw [BitVec.toNat_ofNat, Nat.mod_eq_of_lt hlt]
  exact lane_foldr w vs k hk
theorem lane_overlay (w n : Nat) (val : Nat → Option Nat) (old : Vec) (h : w * n ≤ 2048) (k : Nat) (hk : k < n) :
    lane (overlayLanes w ((List.range n).map val) old) w k = (val k).getD (lane old w k) % 2 ^ w := by
  unfold overlayLanes
  rw [lane_ofLanes w _ (by simpa using h) k (by simpa using hk)]
  congr 1
  simp only [List.getElem_map, List.getElem_zipIdx, List.getElem_range, Nat.zero_add]
/-- bits of byte enables -/
theorem bit_enable_aux (q : Nat) (vs : List (Option Nat)) (b : Nat) (hq : 0 < q) (hb : b < q * vs.length) :
    (vs.foldr (fun (v : Option Nat) r => r * 2 ^ q + (if v.isSome then 2 ^ q - 1 else 0)) 0).testBit b = (vs.getD (b / q) none).isSome := by
  induction vs generalizing b with
  | nil => simp at hb
  | cons a t ih =>
    simp only [List.foldr_cons]
    have hl : (if a.isSome then 2 ^ q - 1 else 0) < 2 ^ q := by split <;> have := Nat.two_pow_pos q <;> omega
    rw [Nat.mul_comm, Nat.testBit_two_pow_mul_add _ hl]
    by_cases hbq : b < q
    · rw [if_pos hbq, Nat.div_eq_of_lt hbq]
      cases a <;> simp [hbq, Nat.testBit_two_pow_sub_one]
    · rw [if_neg hbq, ih (b - q) (by simp [Nat.mul_add] at hb; omega)]
      have : b / q = (b - q) / q + 1 := by
        rw [← Nat.add_div_right _ hq]; congr 1; omega
      rw [this]; simp
theorem bit_enable (w n : Nat) (val : Nat → Option Nat) (hw : 0 < w / 8) (h : w / 8 * n = 256) (b : Nat) (hb : b < 256) :
    (lanesEnable w ((List.range n).map val)).getLsbD b = (val (b / (w / 8))).isSome := by
  unfold lanesEnable
  rw [BitVec.getLsbD_ofNat, bit_enable_aux _ _ _ hw (by simpa [h] using hb)]
  have hlt : b / (w / 8) < n := Nat.div_lt_of_lt_mul (by omega)
  simp [hb, hlt, List.getElem?_range hlt]
/-- A vector result: its lanes, its flight, its queue entry (08 R160, R161). -/
theorem xVector_ok {s : State} {w : XIn} {d : Dst} {wd n : Nat} {val : Nat → Option Nat} {so : SealOp} {busy : Nat}
    (hst : s.who.st = .x) (hn : n = 2048 / wd) (h8 : wd = 8 ∨ wd = 16 ∨ wd = 32) :
    ∃ t v r, (s.xVector w d wd ((List.range n).map val) so busy) = .next t ∧ xDone s t w r v so 0 busy ∧ placed s.me d wd val v r
      ∧ ∀ k, k < 2048 / wd → lane v wd k = (val k).getD (oldLane s.me d wd k) % 2 ^ wd := by
  subst hn
  have h1 : wd * (2048 / wd) ≤ 2048 := Nat.mul_div_le _ _
  have h2 : 0 < wd / 8 ∧ wd / 8 * (2048 / wd) = 256 := by rcases h8 with rfl | rfl | rfl <;> decide
  cases d with
  | v r =>
    obtain ⟨t, ht, hd⟩ := xResult_ok (s := s) (w := w) (dst := .v (physV s.me.xo.rrb r) (overlayLanes wd ((List.range (2048 / wd)).map val) (s.me.getV r)))
      (latch := overlayLanes wd ((List.range (2048 / wd)).map val) (s.me.getV r)) (so := so) (busy := busy) hst
    exact ⟨t, _, _, ht, hd, rfl, fun k hk => lane_overlay _ _ _ _ h1 _ hk⟩
  | q r =>
    obtain ⟨t, ht, hd⟩ := xResult_ok (s := s) (w := w) (dst := .q r.val (overlayLanes wd ((List.range (2048 / wd)).map val) 0) (lanesEnable wd ((List.range (2048 / wd)).map val)))
      (latch := overlayLanes wd ((List.range (2048 / wd)).map val) 0) (so := so) (busy := busy) hst
    refine ⟨t, _, _, ht, hd, ⟨_, rfl, fun b hb => bit_enable _ _ _ h2.1 h2.2 b hb⟩, fun k hk => ?_⟩
    rw [lane_overlay _ _ _ _ h1 _ hk]; simp [oldLane, lane]
  | none =>
    obtain ⟨t, ht, hd⟩ := xResult_ok (s := s) (w := w) (dst := .none)
      (latch := overlayLanes wd ((List.range (2048 / wd)).map val) 0) (so := so) (busy := busy) hst
    refine ⟨t, _, _, ht, hd, rfl, fun k hk => ?_⟩
    rw [lane_overlay _ _ _ _ h1 _ hk]; simp [oldLane, lane]

theorem xVectorSr_ok {s : State} {w : XIn} {d : Dst} {wd n sr : Nat} {val : Nat → Option Nat} {so : SealOp} {busy : Nat}
    (hst : s.who.st = .x) (hn : n = 2048 / wd) (h8 : wd = 8 ∨ wd = 16 ∨ wd = 32) :
    ∃ t v r, ((s.setMe (s.me.takeSr sr)).xVector w d wd ((List.range n).map val) so busy) = .next t ∧ xDone s t w r v so sr busy ∧ placed s.me d wd val v r
      ∧ ∀ k, k < 2048 / wd → lane v wd k = (val k).getD (oldLane s.me d wd k) % 2 ^ wd := by
  subst hn
  have hx : (s.setMe (s.me.takeSr sr)).me.xo = s.me.xo ∧ (s.setMe (s.me.takeSr sr)).me.xr = s.me.xr := by
    rw [State.me_setMe]; unfold Core.takeSr; split <;> exact ⟨rfl, rfl⟩
  have h1 : wd * (2048 / wd) ≤ 2048 := Nat.mul_div_le _ _
  have h2 : 0 < wd / 8 ∧ wd / 8 * (2048 / wd) = 256 := by rcases h8 with rfl | rfl | rfl <;> decide
  cases d with
  | v r =>
    obtain ⟨t, ht, hd⟩ := xResultSr_ok (n := sr) (s := s) (w := w) (dst := .v (physV s.me.xo.rrb r) (overlayLanes wd ((List.range (2048 / wd)).map val) (s.me.getV r)))
      (latch := overlayLanes wd ((List.range (2048 / wd)).map val) (s.me.getV r)) (so := so) (busy := busy) hst
    refine ⟨t, _, _, ?_, hd, rfl, fun k hk => lane_overlay _ _ _ _ h1 _ hk⟩
    rw [← ht]; unfold State.xVector; dsimp only; rw [hx.1, hx.2]; rfl
  | q r =>
    obtain ⟨t, ht, hd⟩ := xResultSr_ok (n := sr) (s := s) (w := w) (dst := .q r.val (overlayLanes wd ((List.range (2048 / wd)).map val) 0) (lanesEnable wd ((List.range (2048 / wd)).map val)))
      (latch := overlayLanes wd ((List.range (2048 / wd)).map val) 0) (so := so) (busy := busy) hst
    refine ⟨t, _, _, ht, hd, ⟨_, rfl, fun b hb => bit_enable _ _ _ h2.1 h2.2 b hb⟩, fun k hk => ?_⟩
    rw [lane_overlay _ _ _ _ h1 _ hk]; simp [oldLane, lane]
  | none =>
    obtain ⟨t, ht, hd⟩ := xResultSr_ok (n := sr) (s := s) (w := w) (dst := .none)
      (latch := overlayLanes wd ((List.range (2048 / wd)).map val) 0) (so := so) (busy := busy) hst
    refine ⟨t, _, _, ht, hd, rfl, fun k hk => ?_⟩
    rw [lane_overlay _ _ _ _ h1 _ hk]; simp [oldLane, lane]

theorem w8 (f : Fmt) : fmtWidth f = 8 ∨ fmtWidth f = 16 ∨ fmtWidth f = 32 := by cases f <;> decide
theorem c8 (f : CFmt) : cfmtWidth f = 8 ∨ cfmtWidth f = 16 ∨ cfmtWidth f = 32 := by cases f <;> decide
/-- what xLanes gives -/
theorem xLanes_ok {s : State} {dly : N8} {d : Dst} {me : Bool} {srcs : List Src} {w lat : Nat} {u : XUnit} {f : Core → Nat → List Nat → Nat} {r : Bool}
    (o : List (Src × Nat)) (ho : o = srcs.map (fun o => (o, w)))
    (h : xGo s (s.me.vecIn dly d me o u lat)) (h8 : w = 8 ∨ w = 16 ∨ w = 32)
    (val : Nat → Nat) (hv : ∀ k, f s.me k (srcs.zipIdx.map (fun e => opLane s.me o e.2 w k)) % 2 ^ w = val k % 2 ^ w) :
    ∃ t v x, xLanes s dly d me srcs w u lat r f = .next t ∧ xDone s t (s.me.vecIn dly d me o u lat) x v .none (if r then 2048 / w else 0) 1
      ∧ placed s.me d w (masked s.me me w val) v x
      ∧ ∀ k, k < 2048 / w → lane v w k = (masked s.me me w val k).getD (oldLane s.me d w k) % 2 ^ w := by
  subst ho
  unfold xLanes
  rw [xWord_go h]
  dsimp only
  have hlen : (s.me.srcVals (srcs.map (fun o => (o, w))) []).length = srcs.length := by
    generalize ([] : List Nat) = seen
    clear hv h
    induction srcs generalizing seen with
    | nil => rfl
    | cons a t ih => cases a <;> simp [Core.srcVals, ih]
  have hmap : ∀ k, (s.me.srcVals (srcs.map (fun o => (o, w))) []).map (fun v => lane v w k)
      = srcs.zipIdx.map (fun e => opLane s.me (srcs.map (fun o => (o, w))) e.2 w k) := by
    intro k
    apply List.ext_getElem
    · simp [hlen]
    · intro i h1 h2
      simp [opLane]
      rw [List.getElem?_eq_getElem (by simpa using h1)]; rfl
  have hvals : (List.range (laneCount w)).map (fun i => if s.me.active me w i then
      some (f s.me i ((s.me.srcVals (srcs.map (fun o => (o, w))) []).map (fun v => lane v w i)) % 2 ^ w) else none)
      = (List.range (2048 / w)).map (fun k => (masked s.me me w val k).map (fun x => x % 2 ^ w)) := by
    unfold laneCount
    congr 1; funext i
    rw [hmap, hv]; unfold masked; split <;> rfl
  have hs : (s.me.vecIn dly d me (srcs.map (fun o => (o, w))) u lat).srcs = srcs.map (fun o => (o, w)) := rfl
  rw [hs, hvals]
  have key : ∀ {v x}, placed s.me d w (fun k => (masked s.me me w val k).map (fun x => x % 2 ^ w)) v x → placed s.me d w (masked s.me me w val) v x := by
    intro v x hp
    unfold placed at hp ⊢
    split at hp <;> simp_all
  have key2 : ∀ k y, ((masked s.me me w val k).map (fun x => x % 2 ^ w)).getD y % 2 ^ w = (masked s.me me w val k).getD y % 2 ^ w := by
    intro k y; cases masked s.me me w val k <;> simp
  cases r with
  | true =>
    obtain ⟨t, v, x, h1, h2, h3, h4⟩ := xVectorSr_ok (s := s) (w := s.me.vecIn dly d me (srcs.map (fun o => (o, w))) u lat) (d := d) (wd := w) (n := 2048 / w) (sr := 2048 / w)
      (val := fun k => (masked s.me me w val k).map (fun x => x % 2 ^ w)) (so := .none) (busy := 1) h.1 rfl h8
    exact ⟨t, v, x, h1, h2, key h3, fun k hk => by rw [h4 k hk, key2]⟩
  | false =>
    obtain ⟨t, v, x, h1, h2, h3, h4⟩ := xVector_ok (s := s) (w := s.me.vecIn dly d me (srcs.map (fun o => (o, w))) u lat) (d := d) (wd := w) (n := 2048 / w)
      (val := fun k => (masked s.me me w val k).map (fun x => x % 2 ^ w)) (so := .none) (busy := 1) h.1 rfl h8
    exact ⟨t, v, x, h1, h2, key h3, fun k hk => by rw [h4 k hk, key2]⟩

theorem wrapTo_mod (w : Nat) (z : Int) : wrapTo w z % 2 ^ w = wrapTo w z := by
  unfold wrapTo
  have : (z % (2 ^ w : Int)).toNat < 2 ^ w := by
    have h := Int.emod_lt_of_pos z (show (0 : Int) < 2 ^ w by positivity)
    have h0 := Int.emod_nonneg z (show (2 ^ w : Int) ≠ 0 by positivity)
    zify; omega
  exact Nat.mod_eq_of_lt this
theorem signedOf_eq (w v : Nat) (hw : 0 < w) : signedOf w v = intOf w v := by
  unfold intOf signedOf
  rw [BitVec.toInt_eq_toNat_cond, BitVec.toNat_ofNat]
  have h2 : 2 ^ w = 2 ^ (w - 1) * 2 := by rw [← Nat.pow_succ]; congr 1; omega
  have h3 : (2 : Int) ^ w = ((2 ^ w : Nat) : Int) := by push_cast; rfl
  rw [h3]
  generalize 2 ^ w = m at *
  generalize 2 ^ (w - 1) = n at *
  have h4 : (v : Int) % (m : Int) = ((v % m : Nat) : Int) := rfl
  rw [h4]
  by_cases h : v % m < n
  · rw [if_pos h, if_pos (by omega)]
  · rw [if_neg h, if_neg (by omega)]
theorem xVector_ok' {s : State} {w : XIn} {d : Dst} {wd : Nat} {val : Nat → Option Nat} {so : SealOp} {busy : Nat} {l : List (Option Nat)}
    (hst : s.who.st = .x) (h8 : wd = 8 ∨ wd = 16 ∨ wd = 32) (hl : l = (List.range (2048 / wd)).map val) :
    ∃ t v r, s.xVector w d wd l so busy = .next t ∧ xDone s t w r v so 0 busy ∧ placed s.me d wd val v r
      ∧ ∀ k, k < 2048 / wd → lane v wd k = (val k).getD (oldLane s.me d wd k) % 2 ^ wd := by
  rw [hl]; exact xVector_ok hst rfl h8
theorem xVectorSr_ok' {s : State} {w : XIn} {d : Dst} {wd sr : Nat} {val : Nat → Option Nat} {so : SealOp} {busy : Nat} {l : List (Option Nat)}
    (hst : s.who.st = .x) (h8 : wd = 8 ∨ wd = 16 ∨ wd = 32) (hl : l = (List.range (2048 / wd)).map val) :
    ∃ t v r, (s.setMe (s.me.takeSr sr)).xVector w d wd l so busy = .next t ∧ xDone s t w r v so sr busy ∧ placed s.me d wd val v r
      ∧ ∀ k, k < 2048 / wd → lane v wd k = (val k).getD (oldLane s.me d wd k) % 2 ^ wd := by
  rw [hl]; exact xVectorSr_ok hst rfl h8
theorem lane_lt (v : Vec) (w k : Nat) : lane v w k < 2 ^ w := Nat.mod_lt _ (Nat.two_pow_pos w)
theorem opLane_lt (c : Core) (o : List (Src × Nat)) (n w k : Nat) : opLane c o n w k < 2 ^ w := lane_lt _ _ _
theorem wpos (f : Fmt) : 0 < fmtWidth f := by cases f <;> decide
theorem fits_eq (c : Core) (w : Nat) (z : Int) : intLane w c.xSat z = fits c w z := by unfold intLane fits; split <;> rfl


theorem xVector_ok'' {s : State} {w : XIn} {d : Dst} {wd : Nat} {val : Nat → Option Nat} {b b' : List Nat} {busy : Nat} {l : List (Option Nat)}
    (hst : s.who.st = .x) (h8 : wd = 8 ∨ wd = 16 ∨ wd = 32) (hl : l = (List.range (2048 / wd)).map val) (hb : b = b') :
    ∃ t v r, s.xVector w d wd l (.add b) busy = .next t ∧ xDone s t w r v (.add b') 0 busy ∧ placed s.me d wd val v r
      ∧ ∀ k, k < 2048 / wd → lane v wd k = (val k).getD (oldLane s.me d wd k) % 2 ^ wd := by
  rw [hl, hb]; exact xVector_ok hst rfl h8
theorem split_range (f : Nat → Option Nat) : (List.range (2048 / 8)).map f = (List.range 64).map f ++ (List.range 192).map (fun k => f (64 + k)) := by
  rw [show 2048 / 8 = 64 + 192 from rfl, List.range_add, List.map_append, List.map_map]; rfl
theorem scanFloat_len (rm : Rounding) (p : Option Nat) (l : List (Option Nat)) : (scanFloat rm p l).length = l.length := by
  induction l generalizing p with
  | nil => cases p <;> rfl
  | cons a t ih => cases p <;> simp [scanFloat, ih]
theorem scanInt_len (b : Bool) (p : Int) (l : List (Option Nat)) : (scanInt b p l).length = l.length := by
  induction l generalizing p with
  | nil => rfl
  | cons a t ih => simp [scanInt, ih]
theorem list_of_getD (l : List (Option Nat)) (h : l.length = 64) : l = (List.range (2048 / 32)).map (fun k => l.getD k none) := by
  apply List.ext_getElem
  · simp [h]
  · intro k h1 h2; simp [h1]
theorem placed_congr {c : Core} {d : Dst} {wd : Nat} {val val' : Nat → Option Nat} {v : Vec} {r : FDst} (h : ∀ k, (val k).isSome = (val' k).isSome)
    (hp : placed c d wd val v r) : placed c d wd val' v r := by
  unfold placed at hp ⊢
  split at hp
  · exact hp
  · obtain ⟨en, h1, h2⟩ := hp; exact ⟨en, h1, fun b hb => by rw [h2 b hb, h]⟩
  · exact hp
theorem mod_ok {s : State} {w : XIn} {d : Dst} {wd : Nat} {me : Bool} {val val' : Nat → Nat} {so : SealOp} {busy : Nat}
    (hst : s.who.st = .x) (h8 : wd = 8 ∨ wd = 16 ∨ wd = 32) (hv : ∀ k, val' k % 2 ^ wd = val k % 2 ^ wd) :
    ∃ t v r, s.xVector w d wd ((List.range (laneCount wd)).map (fun i => if s.me.active me wd i then some (val' i % 2 ^ wd) else none)) so busy = .next t
      ∧ xDone s t w r v so 0 busy ∧ placed s.me d wd (masked s.me me wd val) v r
      ∧ ∀ k, k < 2048 / wd → lane v wd k = (masked s.me me wd val k).getD (oldLane s.me d wd k) % 2 ^ wd := by
  obtain ⟨t, v, r, h1, h2, h3, h4⟩ := xVector_ok' (s := s) (w := w) (d := d) (wd := wd) (val := fun i => if s.me.active me wd i then some (val' i % 2 ^ wd) else none) (so := so) (busy := busy) hst h8 rfl
  refine ⟨t, v, r, h1, h2, placed_congr (fun k => ?_) h3, fun k hk => ?_⟩
  · unfold masked; split <;> rfl
  · rw [h4 k hk]; unfold masked; split
    · simp [hv]
    · rfl
theorem xVector_mod' {s : State} {w : XIn} {d : Dst} {val val' : Nat → Option Nat} {so : SealOp} {busy : Nat}
    (hst : s.who.st = .x) (hv : ∀ k, k < 64 → val' k = (val k).map (fun x => x % 2 ^ 32)) :
    ∃ t v r, s.xVector w d 32 ((List.range (laneCount 32)).map val') so busy = .next t
      ∧ xDone s t w r v so 0 busy ∧ placed s.me d 32 val v r
      ∧ ∀ k, k < 2048 / 32 → lane v 32 k = (val k).getD (oldLane s.me d 32 k) % 2 ^ 32 := by
  obtain ⟨t, v, r, h1, h2, h3, h4⟩ := xVector_ok' (s := s) (w := w) (d := d) (wd := 32) (val := fun k => (val k).map (fun x => x % 2 ^ 32)) (so := so) (busy := busy)
    (l := (List.range (laneCount 32)).map val') hst (.inr (.inr rfl)) (List.map_congr_left fun k hk => hv k (List.mem_range.1 hk))
  refine ⟨t, v, r, h1, h2, placed_congr (fun k => ?_) h3, fun k hk => ?_⟩
  · simp
  · rw [h4 k hk]; cases val k <;> simp
theorem conv_ok {s : State} {w : XIn} {d : Dst} {ws wd n : Nat} {me : Bool} {val : Nat → Nat} {src : Vec} {f : Nat → Nat → Nat} {so : SealOp} {busy : Nat}
    (hst : s.who.st = .x) (h8 : wd = 8 ∨ wd = 16 ∨ wd = 32) (hv : ∀ k, f k (lane src ws k) = val k) :
    ∃ t v r, (s.setMe (s.me.takeSr n)).xVector w d wd (convVals s.me me ws wd n src f) so busy = .next t
      ∧ xDone s t w r v so n busy ∧ placed s.me d wd (converted s.me me ws n val) v r
      ∧ ∀ k, k < 2048 / wd → lane v wd k = (converted s.me me ws n val k).getD (oldLane s.me d wd k) % 2 ^ wd := by
  unfold convVals
  obtain ⟨t, v, r, h1, h2, h3, h4⟩ := xVectorSr_ok' (s := s) (w := w) (d := d) (wd := wd) (sr := n) (val := fun j => if n ≤ j then some 0 else if s.me.active me ws j then some (f j (lane src ws j) % 2 ^ wd) else none) (so := so) (busy := busy) hst h8 rfl
  refine ⟨t, v, r, h1, h2, placed_congr (fun k => ?_) h3, fun k hk => ?_⟩
  · unfold converted; split
    · rfl
    · split <;> rfl
  · rw [h4 k hk]; unfold converted; split
    · rfl
    · split
      · simp [hv]
      · rfl

end Sys2Proof.Laws
end

