-- ==== Sys2Proof/Tests/Slice0.lean ====
section
/-! SUPPORT. Tests: words of the spec decode to their instructions, ill-formed terms are refused, single steps give the results that the
spec's tables give, and every statement has states that meet its hypotheses. -/

namespace Sys2Proof.Tests

set_option Elab.async false

open Sys2Proof Sys2Proof.Machine Sys2Proof.Claims

/-! Words written out from the encodings of 03 R44 to R63 and of the instructions' own rules: every operand field has a value that shows
its place. -/

theorem test_decode_c_words_1 :
    decode .c [0x8155, 0x5780] = .ok (.add ⟨true, 2⟩ 21 10 30)
      ∧ decode .c [0x8155, 0x5781] = .ok (.sub ⟨true, 2⟩ 21 10 30)
      ∧ decode .c [0x8155, 0x5782] = .ok (.mul ⟨true, 2⟩ 21 10 30)
      ∧ decode .c [0x8155, 0x5783] = .ok (.mulh ⟨true, 2⟩ 21 10 30)
      ∧ decode .c [0x8155, 0x5784] = .ok (.mulhu ⟨true, 2⟩ 21 10 30)
      ∧ decode .c [0x8155, 0x5785] = .ok (.div ⟨true, 2⟩ 21 10 30)
      ∧ decode .c [0x8155, 0x5786] = .ok (.divu ⟨true, 2⟩ 21 10 30)
      ∧ decode .c [0x8155, 0x5787] = .ok (.rem ⟨true, 2⟩ 21 10 30)
      ∧ decode .c [0x8155, 0x5788] = .ok (.remu ⟨true, 2⟩ 21 10 30)
      ∧ decode .c [0x8155, 0x5789] = .ok (.and ⟨true, 2⟩ 21 10 30)
      ∧ decode .c [0x8155, 0x578A] = .ok (.or ⟨true, 2⟩ 21 10 30)
      ∧ decode .c [0x8155, 0x578B] = .ok (.xor ⟨true, 2⟩ 21 10 30)
      ∧ decode .c [0x8155, 0x578C] = .ok (.andn ⟨true, 2⟩ 21 10 30)
      ∧ decode .c [0x8155, 0x578D] = .ok (.shl ⟨true, 2⟩ 21 10 30)
      ∧ decode .c [0x8155, 0x578E] = .ok (.shr ⟨true, 2⟩ 21 10 30)
      ∧ decode .c [0x8155, 0x578F] = .ok (.sra ⟨true, 2⟩ 21 10 30)
      ∧ decode .c [0x8155, 0x5790] = .ok (.min ⟨true, 2⟩ 21 10 30)
      ∧ decode .c [0x8155, 0x5791] = .ok (.max ⟨true, 2⟩ 21 10 30)
      ∧ decode .c [0x8155, 0x5792] = .ok (.minu ⟨true, 2⟩ 21 10 30)
      ∧ decode .c [0x8155, 0x5793] = .ok (.maxu ⟨true, 2⟩ 21 10 30)
      ∧ decode .c [0x8155, 0x5014] = .ok (.clz ⟨true, 2⟩ 21 10)
      ∧ decode .c [0x8155, 0x5015] = .ok (.ctz ⟨true, 2⟩ 21 10)
      ∧ decode .c [0x8155, 0x5016] = .ok (.popc ⟨true, 2⟩ 21 10)
      ∧ decode .c [0x8155, 0x5057] = .ok (.sext ⟨true, 2⟩ 21 10 .h) := by decide

theorem test_decode_c_words_2 :
    decode .c [0x8155, 0x5058] = .ok (.zext ⟨true, 2⟩ 21 10 .h)
      ∧ decode .c [0x8155, 0x57BD] = .ok (.sel ⟨true, 2⟩ 5 21 10 30)
      ∧ decode .c [0x8355, 0x5431] = .ok (.addi ⟨true, 2⟩ 21 10 0x431#11)
      ∧ decode .c [0x8555, 0x5431] = .ok (.andi ⟨true, 2⟩ 21 10 0x431#11)
      ∧ decode .c [0x8755, 0x5431] = .ok (.ori ⟨true, 2⟩ 21 10 0x431#11)
      ∧ decode .c [0x8955, 0x5431] = .ok (.xori ⟨true, 2⟩ 21 10 0x431#11)
      ∧ decode .c [0x8B55, 0x502D] = .ok (.shli ⟨true, 2⟩ 21 10 45)
      ∧ decode .c [0x8D55, 0x502D] = .ok (.shri ⟨true, 2⟩ 21 10 45)
      ∧ decode .c [0x8F55, 0x502D] = .ok (.srai ⟨true, 2⟩ 21 10 45)
      ∧ decode .c [0x9155, 0x8181] = .ok (.li ⟨true, 2⟩ 21 0x8181#16)
      ∧ decode .c [0x9355, 0x8181] = .ok (.lui ⟨true, 2⟩ 21 0x8181#16)
      ∧ decode .c [0xA145, 0xBA44] = .ok (.cmp ⟨true, 2⟩ .ge 5 23 9)
      ∧ decode .c [0xA345, 0xBAF3] = .ok (.cmpi ⟨true, 2⟩ .lt 5 23 0xF3#8)
      ∧ decode .c [0xA545, 0x30C0] = .ok (.pand ⟨true, 2⟩ 5 6 3)
      ∧ decode .c [0xA545, 0x30C1] = .ok (.por ⟨true, 2⟩ 5 6 3)
      ∧ decode .c [0xA545, 0x30C2] = .ok (.pxor ⟨true, 2⟩ 5 6 3)
      ∧ decode .c [0xA545, 0x3003] = .ok (.pnot ⟨true, 2⟩ 5 6)
      ∧ decode .c [0xA545, 0x3004] = .ok (.pmov ⟨true, 2⟩ 5 6)
      ∧ decode .c [0xB155, 0x55F3] = .ok (.ld ⟨true, 2⟩ .hu 21 10 0xF3#8)
      ∧ decode .c [0xB355, 0x51F3] = .ok (.st ⟨true, 2⟩ .h 21 10 0xF3#8)
      ∧ decode .c [0xB555, 0x56F3] = .ok (.lds ⟨true, 2⟩ .wu 21 10 0xF3#8)
      ∧ decode .c [0xB755, 0x52F3] = .ok (.sts ⟨true, 2⟩ .w 21 10 0xF3#8)
      ∧ decode .c [0xC150, 0x0601] = .ok (.exitC ⟨true, 2⟩ 0x100601#21)
      ∧ decode .c [0xC340, 0xA800] = .ok (.exits ⟨true, 2⟩ 21) := by decide

theorem test_decode_c_words_3 :
    decode .c [0xC550, 0x0601] = .ok (.call ⟨true, 2⟩ 0x100601#21)
      ∧ decode .c [0xC740, 0x0000] = .ok (.ret ⟨true, 2⟩)
      ∧ decode .c [0xC94E, 0xD4F3] = .ok (.dispA ⟨true, 2⟩ 3 45 0x4F3#12)
      ∧ decode .c [0xCB4E, 0xD8F3] = .ok (.dispX ⟨true, 2⟩ 3 45 0x8F3#12)
      ∧ decode .c [0xCD40, 0x0002] = .ok (.djoin ⟨true, 2⟩ true false)
      ∧ decode .c [0xCF40, 0xA800] = .ok (.ovswap ⟨true, 2⟩ 21)
      ∧ decode .c [0xD155, 0x57A0] = .ok (.amadd ⟨true, 2⟩ true 21 10 30)
      ∧ decode .c [0xD155, 0x57A4] = .ok (.ammin ⟨true, 2⟩ true 21 10 30)
      ∧ decode .c [0xD155, 0x57A8] = .ok (.ammax ⟨true, 2⟩ true 21 10 30)
      ∧ decode .c [0xD155, 0x57AC] = .ok (.amand ⟨true, 2⟩ true 21 10 30)
      ∧ decode .c [0xD155, 0x57B0] = .ok (.amor ⟨true, 2⟩ true 21 10 30)
      ∧ decode .c [0xD155, 0x57B4] = .ok (.amxor ⟨true, 2⟩ true 21 10 30)
      ∧ decode .c [0xD155, 0x57B8] = .ok (.amswp ⟨true, 2⟩ true 21 10 30)
      ∧ decode .c [0xD355, 0x57A0] = .ok (.amcas ⟨true, 2⟩ true 21 10 30)
      ∧ decode .c [0xD555, 0x5780] = .ok (.bind ⟨true, 2⟩ 21 10 30)
      ∧ decode .c [0xD740, 0xA800] = .ok (.unbind ⟨true, 2⟩ 21)
      ∧ decode .c [0xD940, 0xA804] = .ok (.acq ⟨true, 2⟩ 21 .pkg)
      ∧ decode .c [0xDB40, 0xA804] = .ok (.rel ⟨true, 2⟩ 21 .pkg)
      ∧ decode .c [0xDD40, 0x0004] = .ok (.fence ⟨true, 2⟩ .pkg)
      ∧ decode .c [0xE000, 0x0000] = .ok (.syzy)
      ∧ decode .c [0xE155, 0x0100] = .ok (.rdsc ⟨true, 2⟩ 21)
      ∧ decode .c [0xE140, 0xAA00] = .ok (.waitsc ⟨true, 2⟩ 21)
      ∧ decode .c [0xE355, 0x5431] = .ok (.post ⟨true, 2⟩ 21 10 0x431#11)
      ∧ decode .c [0xE555, 0x5000] = .ok (.mbrd ⟨true, 2⟩ 21 10) := by decide

theorem test_decode_c_words_4 :
    decode .c [0xE755, 0x501E] = .ok (.lrpatch ⟨true, 2⟩ 21 10 30)
      ∧ decode .c [0xE940, 0xA800] = .ok (.lrarm ⟨true, 2⟩ 21)
      ∧ decode .c [0xEB40, 0xA800] = .ok (.childq ⟨true, 2⟩ 21)
      ∧ decode .c [0xED55, 0x0006] = .ok (.widf ⟨true, 2⟩ 21 5)
      ∧ decode .c [0xEF40, 0x0000] = .ok (.lease ⟨true, 2⟩)
      ∧ decode .c [0xEF40, 0x0001] = .ok (.unlease ⟨true, 2⟩)
      ∧ decode .c [0xF14B, 0xAFF3] = .ok (.shld ⟨true, 2⟩ 11 21 0x7F3#11)
      ∧ decode .c [0xF34B, 0xAFF3] = .ok (.shst ⟨true, 2⟩ 11 21 0x7F3#11)
      ∧ decode .c [0xF555, 0x02C6] = .ok (.shset ⟨true, 2⟩ 21 11 .str2)
      ∧ decode .c [0xF555, 0x06C6] = .ok (.shget ⟨true, 2⟩ 21 11 .str2)
      ∧ decode .c [0xF740, 0xA801] = .ok (.albinit ⟨true, 2⟩ 21 true)
      ∧ decode .c [0xF740, 0xA900] = .ok (.albsettle ⟨true, 2⟩ 21)
      ∧ decode .c [0xF755, 0x5206] = .ok (.albrd ⟨true, 2⟩ 21 10 6)
      ∧ decode .c [0xF940, 0x0099] = .ok (.trap ⟨true, 2⟩ 0x99#8)
      ∧ decode .c [0xF940, 0x0100] = .ok (.rft ⟨true, 2⟩)
      ∧ decode .c [0xF941, 0x02A5] = .ok (.safept ⟨true, 2⟩ true 0xA5#8)
      ∧ decode .c [0xF940, 0xAB00] = .ok (.corerst ⟨true, 2⟩ 21)
      ∧ decode .c [0xF940, 0x0400] = .ok (.halt ⟨true, 2⟩)
      ∧ decode .c [0xF940, 0x0500] = .ok (.nop ⟨true, 2⟩)
      ∧ decode .c [0xFB55, 0x005D] = .ok (.srd ⟨true, 2⟩ 21 0x5D)
      ∧ decode .c [0xFB40, 0xAC53] = .ok (.swr ⟨true, 2⟩ 21 0x53)
      ∧ decode .c [0xFF63, 0xABCD] = .ok (.blockHeader true false 99 0xABCD#16) := by decide

theorem test_decode_a_words_1 :
    decode .a [0x8155, 0x5780] = .ok (.aadd ⟨true, 2⟩ 21 10 30)
      ∧ decode .a [0x8155, 0x5781] = .ok (.asub ⟨true, 2⟩ 21 10 30)
      ∧ decode .a [0x8155, 0x5782] = .ok (.amul ⟨true, 2⟩ 21 10 30)
      ∧ decode .a [0x8155, 0x5789] = .ok (.aand ⟨true, 2⟩ 21 10 30)
      ∧ decode .a [0x8155, 0x578A] = .ok (.aor ⟨true, 2⟩ 21 10 30)
      ∧ decode .a [0x8155, 0x5790] = .ok (.amin ⟨true, 2⟩ 21 10 30)
      ∧ decode .a [0x8155, 0x5791] = .ok (.amax ⟨true, 2⟩ 21 10 30)
      ∧ decode .a [0x8355, 0x5431] = .ok (.aaddi ⟨true, 2⟩ 21 10 0x431#11)
      ∧ decode .a [0x8555, 0x502D] = .ok (.ashli ⟨true, 2⟩ 21 10 45)
      ∧ decode .a [0x8755, 0x502D] = .ok (.ashri ⟨true, 2⟩ 21 10 45)
      ∧ decode .a [0x8955, 0x8181] = .ok (.ali ⟨true, 2⟩ 21 0x8181#16)
      ∧ decode .a [0x8B55, 0x8181] = .ok (.alui ⟨true, 2⟩ 21 0x8181#16)
      ∧ decode .a [0xA145, 0xBA44] = .ok (.acmp ⟨true, 2⟩ .ge 5 23 9)
      ∧ decode .a [0xA345, 0xBAF3] = .ok (.acmpi ⟨true, 2⟩ .lt 5 23 0xF3#8)
      ∧ decode .a [0xA945, 0x5431] = .ok (.ldq ⟨true, 2⟩ 5 10 0x431#11)
      ∧ decode .a [0xAB45, 0x5780] = .ok (.ldqs ⟨true, 2⟩ 5 10 30)
      ∧ decode .a [0xAD45, 0x5431] = .ok (.ldqb ⟨true, 2⟩ 5 10 0x431#11)
      ∧ decode .a [0xAF45, 0x5780] = .ok (.gathq ⟨true, 2⟩ 5 10 30)
      ∧ decode .a [0xB147, 0x5431] = .ok (.stq ⟨true, 2⟩ 7 10 0x431#11)
      ∧ decode .a [0xB347, 0x5780] = .ok (.stqs ⟨true, 2⟩ 7 10 30)
      ∧ decode .a [0xB547, 0x5780] = .ok (.scatq ⟨true, 2⟩ 7 10 30)
      ∧ decode .a [0xF550, 0x0601] = .ok (.exitA ⟨true, 2⟩ 0x100601#21)
      ∧ decode .a [0xF155, 0x1800] = .ok (.bqputA ⟨true, 2⟩ (.reg 21) 2)
      ∧ decode .a [0xF355, 0x1400] = .ok (.bqgetA ⟨true, 2⟩ (.reg 21) 1) := by decide

theorem test_decode_a_words_2 :
    decode .a [0xF74D, 0xA800] = .ok (.pgdist ⟨true, 2⟩ 13 21)
      ∧ decode .a [0xD140, 0xA800] = .ok (.tagwany ⟨true, 2⟩ 21)
      ∧ decode .a [0xD340, 0xA800] = .ok (.tagwall ⟨true, 2⟩ 21)
      ∧ decode .a [0xD555, 0x5000] = .ok (.tagffr ⟨true, 2⟩ 21 10)
      ∧ decode .a [0xD740, 0xA800] = .ok (.tagclr ⟨true, 2⟩ 21)
      ∧ decode .a [0xC156, 0xD6CE] = .ok (.cpy ⟨true, 2⟩ 11 6 45 ⟨false, true, .die⟩ true false)
      ∧ decode .a [0xC356, 0xD6C8] = .ok (.cpyg ⟨true, 2⟩ 11 6 45 9)
      ∧ decode .a [0xC556, 0xD6CC] = .ok (.cpyr ⟨true, 2⟩ 11 6 45 ⟨false, true, .die⟩)
      ∧ decode .a [0xC758, 0xAB40] = .ok (.tailput ⟨true, 2⟩ 12 10 45)
      ∧ decode .a [0xC958, 0xAB40] = .ok (.tailget ⟨true, 2⟩ 12 10 45)
      ∧ decode .a [0xCB41, 0x5B40] = .ok (.offload ⟨true, 2⟩ 21 45)
      ∧ decode .a [0xCD41, 0x5B40] = .ok (.recall ⟨true, 2⟩ 21 45)
      ∧ decode .a [0xD896, 0xD3AA] = .ok (.mma .e5m2 11 6 19 true ⟨true, false, .orbit⟩ true)
      ∧ decode .a [0xDA96, 0xD3AA] = .ok (.mmas .e5m2 11 6 19 true ⟨true, false, .orbit⟩ true)
      ∧ decode .a [0xDC16, 0x1374] = .ok (.mzero 11 19 ⟨true, true, .sys⟩)
      ∧ decode .a [0xE016, 0x1344] = .ok (.mdrain .plain 11 0 19 ⟨false, true, .tile⟩)
      ∧ decode .a [0xDF40, 0x0005] = .ok (.mcommit ⟨true, 2⟩ 5)
      ∧ decode .a [0xDF40, 0x0105] = .ok (.mwaitb ⟨true, 2⟩ 5)
      ∧ decode .a [0xDF45, 0x0246] = .ok (.mstat ⟨true, 2⟩ 5 true 6) := by decide

theorem test_decode_c_short_words :
    decode .c [0x156D] = .ok (.addiShort 21 0x2D#6)
      ∧ decode .c [0x1D6D] = .ok (.liShort 21 0x2D#6)
      ∧ decode .c [0x2554] = .ok (.addShort 21 10)
      ∧ decode .c [0x2555] = .ok (.subShort 21 10)
      ∧ decode .c [0x2DCD] = .ok (.exitCShort ⟨true, 3⟩ 0x4D#7)
      ∧ decode .c [0x3000] = .ok (.retShort)
      ∧ decode .c [0x0CB3] = .ok (.pfx 4 5 9 true)
      ∧ decode .c [0x0000] = .ok (.nop16) := by decide

theorem test_decode_a_short_words :
    decode .a [0x156D] = .ok (.aaddiShort 21 0x2D#6)
      ∧ decode .a [0x1D6D] = .ok (.aliShort 21 0x2D#6)
      ∧ decode .a [0x2553] = .ok (.ldqShort 5 10 3)
      ∧ decode .a [0x2F53] = .ok (.stqShort 7 10 3)
      ∧ decode .a [0x35CD] = .ok (.exitAShort ⟨true, 3⟩ 0x4D#7)
      ∧ decode .a [0x3D40] = .ok (.bqputAShort 2 5)
      ∧ decode .a [0x4540] = .ok (.tagwallShort 21) := by decide

theorem test_decode_x_short_words :
    decode .x [0x15D6] = .ok (.pfxGuarded ⟨true, 3⟩ 5 6)
      ∧ decode .x [0x1D54] = .ok (.vmovShort 21 10)
      ∧ decode .x [0x264D] = .ok (.xaddiShort 12 0x4D#7)
      ∧ decode .x [0x2DCD] = .ok (.exitXShort ⟨true, 3⟩ 0x4D#7) := by decide

theorem test_decode_x_words_1 :
    decode .x [0x8052, 0x34EB] = .ok (.vadd .f16 2 (.v 17) (.l 1) (.x 5) true)
      ∧ decode .x [0x8252, 0x34EB] = .ok (.vsub .f16 2 (.v 17) (.l 1) (.x 5) true)
      ∧ decode .x [0x8452, 0x34EB] = .ok (.vmul .f16 2 (.v 17) (.l 1) (.x 5) true)
      ∧ decode .x [0x8652, 0x34EB] = .ok (.vfma .f16 2 (.v 17) (.l 1) (.x 5) true)
      ∧ decode .x [0x8852, 0x34EB] = .ok (.vfms .f16 2 (.v 17) (.l 1) (.x 5) true)
      ∧ decode .x [0x8A52, 0x34EB] = .ok (.vfnma .f16 2 (.v 17) (.l 1) (.x 5) true)
      ∧ decode .x [0x8C52, 0x34EB] = .ok (.vmin .f16 2 (.v 17) (.l 1) (.x 5) true)
      ∧ decode .x [0x8E52, 0x34EB] = .ok (.vmax .f16 2 (.v 17) (.l 1) (.x 5) true)
      ∧ decode .x [0x9052, 0x3481] = .ok (.vabs .f16 2 (.v 17) (.l 1) true)
      ∧ decode .x [0x9052, 0x3483] = .ok (.vneg .f16 2 (.v 17) (.l 1) true)
      ∧ decode .x [0xA112, 0x34EB] = .ok (.viadd .i16 2 (.v 17) (.l 1) (.x 5) true)
      ∧ decode .x [0xA312, 0x34EB] = .ok (.visub .i16 2 (.v 17) (.l 1) (.x 5) true)
      ∧ decode .x [0xA512, 0x34EB] = .ok (.vimul .i16 2 (.v 17) (.l 1) (.x 5) true)
      ∧ decode .x [0xA712, 0x34EB] = .ok (.vimulh .i16 2 (.v 17) (.l 1) (.x 5) true)
      ∧ decode .x [0xA912, 0x34EB] = .ok (.vshl .i16 2 (.v 17) (.l 1) (.x 5) true)
      ∧ decode .x [0xAB12, 0x34EB] = .ok (.vshr .i16 2 (.v 17) (.l 1) (.x 5) true)
      ∧ decode .x [0xAD12, 0x34EB] = .ok (.vsra .i16 2 (.v 17) (.l 1) (.x 5) true)
      ∧ decode .x [0xAE12, 0x34EB] = .ok (.vand 2 (.v 17) (.l 1) (.x 5) true)
      ∧ decode .x [0xAE52, 0x34EB] = .ok (.vor 2 (.v 17) (.l 1) (.x 5) true)
      ∧ decode .x [0xAE92, 0x34EB] = .ok (.vxor 2 (.v 17) (.l 1) (.x 5) true)
      ∧ decode .x [0xAF12, 0x3481] = .ok (.viabs .i16 2 (.v 17) (.l 1) true)
      ∧ decode .x [0xAFD2, 0x3481] = .ok (.vnot 2 (.v 17) (.l 1) true)
      ∧ decode .x [0xB093, 0xD4EB] = .ok (.vcmp .bf16 2 .ltu 6 (.l 1) (.x 5) true)
      ∧ decode .x [0xB2D2, 0x34EB] = .ok (.vsel .i32 2 (.v 17) (.l 1) (.x 5)) := by decide

theorem test_decode_x_words_2 :
    decode .x [0xB428, 0xC18A] = .ok (.mand 5 6 3 5)
      ∧ decode .x [0xB468, 0xC18A] = .ok (.mor 5 6 3 5)
      ∧ decode .x [0xB4A8, 0xC18A] = .ok (.mxor 5 6 3 5)
      ∧ decode .x [0xB4E8, 0xC180] = .ok (.mnot 5 6 3)
      ∧ decode .x [0xB629, 0x2180] = .ok (.mpop 5 9 3)
      ∧ decode .x [0xB669, 0x2180] = .ok (.mff 5 9 3)
      ∧ decode .x [0xB6A8, 0xC300] = .ok (.mset 5 6 6)
      ∧ decode .x [0xB852, 0x3481] = .ok (.vmov .f16 2 (.v 17) (.l 1) true)
      ∧ decode .x [0xB8D2, 0x3703] = .ok (.vmovl .i32 2 (.v 17) 6 true)
      ∧ decode .x [0xB8D2, 0x2605] = .ok (.vbcast .i32 2 (.v 17) 12 true)
      ∧ decode .x [0xBAD2, 0x31E7] = .ok (.vli .i32 2 (.v 17) 0x8F3#12 true)
      ∧ decode .x [0xBD12, 0x34EB] = .ok (.vimin .i16 2 (.v 17) (.l 1) (.x 5) true)
      ∧ decode .x [0xBF12, 0x34EB] = .ok (.vimax .i16 2 (.v 17) (.l 1) (.x 5) true)
      ∧ decode .x [0xC1D2, 0x31CD] = .ok (.vcvt 2 (.v 17) (.q 3) .t8 .i16 true)
      ∧ decode .x [0xC3D4, 0xE6D7] = .ok (.vqnt 2 (.q 7) (.v 13) .i8 11 true)
      ∧ decode .x [0xC5D4, 0xE6D7] = .ok (.vdqnt 2 (.q 7) (.v 13) .i8 11 true)
      ∧ decode .x [0xC7D1, 0x84AE] = .ok (.qscale 2 12 9 .e5m2 7)
      ∧ decode .x [0xC9D2, 0x26AC] = .ok (.qfix 2 (.v 17) (.v 13) 11 false)
      ∧ decode .x [0xC9D2, 0x26EC] = .ok (.qflt 2 (.v 17) (.v 13) 11 false)
      ∧ decode .x [0xCB92, 0x34EB] = .ok (.revadd 2 (.v 17) (.l 1) (.x 5) true)
      ∧ decode .x [0xCD92, 0x34EB] = .ok (.revsub 2 (.v 17) (.l 1) (.x 5) true)
      ∧ decode .x [0xCE28, 0x0000] = .ok (.sealclr 5)
      ∧ decode .x [0xCE69, 0x2000] = .ok (.sealget 5 9)
      ∧ decode .x [0xD052, 0x3481] = .ok (.vexp2 .f16 2 (.v 17) (.l 1) true) := by decide

theorem test_decode_x_words_3 :
    decode .x [0xD052, 0x3483] = .ok (.vlog2 .f16 2 (.v 17) (.l 1) true)
      ∧ decode .x [0xD052, 0x3485] = .ok (.vrcp .f16 2 (.v 17) (.l 1) true)
      ∧ decode .x [0xD052, 0x3487] = .ok (.vrsqrt .f16 2 (.v 17) (.l 1) true)
      ∧ decode .x [0xD052, 0x3489] = .ok (.vtanh .f16 2 (.v 17) (.l 1) true)
      ∧ decode .x [0xD2D2, 0x2499] = .ok (.vrnd true 2 (.v 17) 9 12 true)
      ∧ decode .x [0xE052, 0x3481] = .ok (.vredsum .f16 2 (.v 17) (.l 1) true)
      ∧ decode .x [0xE252, 0x3481] = .ok (.vredmax .f16 2 (.v 17) (.l 1) true)
      ∧ decode .x [0xE452, 0x3481] = .ok (.vredmin .f16 2 (.v 17) (.l 1) true)
      ∧ decode .x [0xE652, 0x3483] = .ok (.vredarg .f16 2 (.v 17) (.l 1) true true)
      ∧ decode .x [0xE8D7, 0xE681] = .ok (.vscan .i32 2 .none (.v 13) true)
      ∧ decode .x [0xEAD7, 0xE69D] = .ok (.vsortk .i32 2 .none (.v 13) (.v 14) true)
      ∧ decode .x [0xEC52, 0x34EB] = .ok (.vperm .f16 2 (.v 17) (.l 1) (.x 5) true)
      ∧ decode .x [0xEE52, 0x34EB] = .ok (.vslide .f16 2 (.v 17) (.l 1) (.x 5) true)
      ∧ decode .x [0xF112, 0x34E4] = .ok (.acld true 2 (.v 17) 41 (.lit 100))
      ∧ decode .x [0xF312, 0x34E4] = .ok (.acst true 2 (.v 17) 41 (.lit 100))
      ∧ decode .x [0xF552, 0x34E4] = .ok (.acsta true true 2 (.v 17) 41 (.lit 100))
      ∧ decode .x [0xF664, 0x0301] = .ok (.xli 12 0x40301#19)
      ∧ decode .x [0xF6E4, 0xC0C1] = .ok (.xaddi 12 9 0x40C1#15)
      ∧ decode .x [0xF762, 0x3138] = .ok (.xlane 12 (.v 17) .w 39)
      ∧ decode .x [0xFA2F, 0x0500] = .ok (.bqputX ⟨true, 3⟩ (.pred 5) 3)
      ∧ decode .x [0xFA6C, 0x0500] = .ok (.bqgetX ⟨true, 3⟩ (.pred 5) 0)
      ∧ decode .x [0xFAAE, 0x0301] = .ok (.exitX ⟨true, 3⟩ 0x20301#18) := by decide

/-- Words that decode to a row of their own by a field of theirs (16 R350), and the three slots of KATCHK (08 R184). -/
theorem test_decode_special_words :
    decode .c [0xFB55, 0x005B] = .ok (.bqPopRead ⟨true, 2⟩ 21 false)
      ∧ decode .c [0xFB55, 0x005C] = .ok (.bqPopRead ⟨true, 2⟩ 21 true)
      ∧ decode .c [0xFB55, 0x0059] = .ok (.sealRead ⟨true, 2⟩ 21)
      ∧ decode .x [0xF9D0, 0x0680, 0x0123, 0x4567, 0x89AB, 0xCDEF] = .ok (.katchk 2 (.v 13) 0x0123_4567_89AB_CDEF#64) := by decide

/-- The words that the manual's own examples write out. -/
theorem test_decode_examples :
    decode .c [0xD600, 0x2800] = .ok (.unbind p0 5) ∧ decode .c [0xDC00, 0x0004] = .ok (.fence p0 .pkg)
      ∧ decode .c [0xE609, 0x4010] = .ok (.lrpatch p0 9 8 16) ∧ decode .c [0xE800, 0x4000] = .ok (.lrarm p0 8)
      ∧ decode .c [0xEA00, 0x4000] = .ok (.childq p0 8) ∧ decode .c [0xCE00, 0x5800] = .ok (.ovswap p0 11)
      ∧ decode .c [0xE005, 0x0100] = .ok (.rdsc p0 5) ∧ decode .c [0xE000, 0x3200] = .ok (.waitsc p0 6)
      ∧ decode .c [0xE407, 0x2000] = .ok (.mbrd p0 7 4) ∧ decode .c [0xEE00, 0x0000] = .ok (.lease p0)
      ∧ decode .a [0xF005, 0x1800] = .ok (.bqputA p0 (.reg 5) 2) ∧ decode .a [0xDE00, 0x0001] = .ok (.mcommit p0 1)
      ∧ decode .a [0xDE02, 0x0201] = .ok (.mstat p0 2 false 1)
      ∧ decode .x [0xFA40, 0xA000] = .ok (.bqgetX p0 (.x 4) 0) ∧ decode .x [0xCE00, 0x0000] = .ok (.sealclr 0) := by decide

/-- Encodings that the manual refuses: a major with no instruction, a field that must be 0, a queue against its direction, condition
code 6 (03 R57, R59, R64; 07 R149). -/
theorem test_decode_refuses :
    decode .c [0xBE00, 0x0000] = .error .illegalWord ∧ decode .c [0x8155, 0x5014 + 64] = .error .reservedField
      ∧ decode .a [0xA806, 0x1000] = .error .queueDirection
      ∧ decode .a [0xB002, 0x1000] = .error .queueDirection ∧ decode .x [0x804C, 0x0000] = .error .queueDirection := by decide

/-! WellFormed refuses a term for each of its checks. -/
theorem test_ill_formed_code : ¬WellFormed (.vadd .i32 0 (.v 1) (.v 2) (.v 3) false) := by unfold WellFormed; decide
theorem test_ill_formed_width : ¬WellFormed (.st p0 .bu 1 2 0) := by unfold WellFormed; decide
theorem test_ill_formed_selector : ¬WellFormed (.call p0 0) ∧ ¬WellFormed (.djoin p0 false false) := by unfold WellFormed; decide
theorem test_ill_formed_register : ¬WellFormed (.swr p0 1 0x3FF) := by unfold WellFormed; decide
theorem test_ill_formed_queue : ¬WellFormed (.ldq p0 6 1 0) ∧ ¬WellFormed (.stq p0 5 1 0) := by unfold WellFormed; decide
theorem test_ill_formed_vector_queue : ¬WellFormed (.vadd .f32 0 (.q 0) (.v 2) (.v 3) false) := by unfold WellFormed; decide
theorem test_well_formed : WellFormed (.vadd .f32 0 (.q 6) (.q 0) (.q 0) true) := by unfold WellFormed; decide

/-! States for the witnesses: cycle 100, core 0 runs, each of its streams stands at halfword 2 in a block of 16 words. -/

/-- A stream amid a block. -/
def posW : Pos := { Pos.idle with phase := .words, pc := 2, left := 16, len := 16, flen := 2, fwords := 1 }
/-- A core whose streams issue. -/
def coreW : Core :=
  { Core.fresh with mode := .running, c := { CStream.idle with pos := posW }, ao := { Outer.idle with pos := posW, active := true },
                    xo := { Outer.idle with pos := posW, active := true } }
/-- A package in which core 0 is as given. -/
def at_ (st : Stream) (c : Core) : State := { State.reset with agenda := [], now := 100, cores := [(0, c)], who := ⟨0, st⟩ }
/-- The C stream of the core with values in its registers. -/
def cS (l : List Word) : Core := { coreW with s := (Vector.replicate 32 0).mapIdx (fun i _ => l.getD i 0) }
def aS (l : List Word) : Core := { coreW with a := (Vector.replicate 32 0).mapIdx (fun i _ => l.getD i 0) }
/-- At SUPERVISOR in a handler. -/
def sup (c : Core) : Core := { c with sys := [(7, 3)] }

/-! Every statement's hypotheses are met. -/

theorem witness_stepsKeep : ∃ s t, s.memWf = true ∧ step s = .next t := ⟨{ State.reset with agenda := [] }, _, by decide, rfl⟩
theorem witness_decodeOfEncode : isWord (.ldqs p0 5 31 30) = true ∧ WellFormed (.ldqs p0 5 31 30) ∧ Stream.a ∈ streamsOf (.ldqs p0 5 31 30) := by
  unfold WellFormed; decide
theorem witness_eventsComplete : (∃ r, ¬reservedAddress r) ∧ reservedAddress 0x60_0000_0000 ∧ reservedAddress 0x7F_FFFF_FFFF
    ∧ reservedAddress 0x140_0000_0000 ∧ reservedAddress 0x3FFF_FFFF_FFFF := by
  unfold reservedAddress; exact ⟨⟨0, by omega⟩, by omega, by omega, by omega, by omega⟩
theorem witness_cGo : cGo (at_ .c coreW) p0 [1, 2] ∧ cGo (at_ .c coreW) p0 [] ∧ cGo (at_ .c coreW) ⟨true, 1⟩ [3] := by unfold cGo; decide
theorem witness_aGo : aGo (at_ .a coreW) p0 [1, 2] ∧ aGo (at_ .a coreW) p0 [] ∧ aGo (at_ .a coreW) ⟨true, 1⟩ [3] := by unfold aGo; decide
theorem witness_division : cGo (at_ .c (cS [0, 7])) p0 [1, 2] ∧ (at_ .c (cS [0, 7])).me.getS 2 = 0
    ∧ cGo (at_ .c (cS [0, 0x8000_0000_0000_0000, 0xFFFF_FFFF_FFFF_FFFF])) p0 [1, 2]
    ∧ (at_ .c (cS [0, 0x8000_0000_0000_0000, 0xFFFF_FFFF_FFFF_FFFF])).me.getS 1 = 0x8000_0000_0000_0000#64
    ∧ (at_ .c (cS [0, 0x8000_0000_0000_0000, 0xFFFF_FFFF_FFFF_FFFF])).me.getS 2 = 0xFFFF_FFFF_FFFF_FFFF#64 := by unfold cGo; decide

/-- LI writes register 5; the halfwords of another core's place are no instruction. -/
def wordS : State := { at_ .c { coreW with imemC := [(2, 0x9005), (3, 7)] } with turn := some ⟨0, .c⟩ }
def badS : State := { at_ .c { coreW with imemC := [(2, 0xBE00)] } with turn := some ⟨0, .c⟩ }
theorem witness_stepRuns :
    wordS.turn = some ⟨0, .c⟩ ∧ standsAtWord wordS ⟨0, .c⟩ ∧ decode .c ((wordS.core 0).halfwords .c 2 6) = .ok (.li p0 5 7)
      ∧ (∃ t, exec (.li p0 5 7) (issuing wordS ⟨0, .c⟩ (.li p0 5 7)) = .next t ∧ ((t.core 0).sysReg 0x0B).toNat ≤ 16384 ∧ (t.core 0).getS 5 = 7)
      ∧ standsAtWord badS ⟨0, .c⟩ ∧ decode .c ((badS.core 0).halfwords .c 2 6) = .error .illegalWord ∧ (badS.core 0).c.pos.pfx = none := by
  unfold standsAtWord
  exact ⟨by decide, by decide, by decide, ⟨_, rfl, by decide, by decide⟩, by decide, by decide, by decide⟩
theorem witness_stepRunsEvent : ∃ rest, State.reset.turn = none ∧ State.reset.agenda = (0, .beatSend 0) :: rest ∧ 0 ≤ 2 * State.reset.now :=
  ⟨_, rfl, rfl, by decide⟩

/-- Core 0 has context of record 3, whose work identifier has no fields. -/
def recW : State := { at_ .c { coreW with lr := some 3 } with recs := [(3, Rec.fresh)] }
theorem witness_widf :
    standsAtWord { at_ .c { coreW with imemC := [(2, 0xEC05)] } with turn := some ⟨0, .c⟩ } ⟨0, .c⟩
      ∧ ({ coreW with imemC := [(2, 0xEC05)] } : Core).halfwords .c 2 6 = 0xEC05 :: 0 :: [0, 0, 0, 0]
      ∧ ({ coreW with imemC := [(2, 0xEC05), (3, 7)] } : Core).halfwords .c 2 6 = 0xEC05 :: 7 :: [0, 0, 0, 0]
      ∧ 0xEC05 = 0xEC00 + 32 * (b2n p0.neg * 8 + p0.p.val) + (5 : Reg).val
      ∧ cGo recW p0 [] ∧ recW.me.lr = some 3 ∧ recWidw (recW.rcd 3).img 5 = 0 := by unfold cGo standsAtWord; decide +kernel
theorem witness_starts : ({ State.reset with ev := .coldStart } : State).ev = .coldStart ∧ ({ State.reset with ev := .warmStart } : State).ev = .warmStart
    ∧ ({ State.reset with ev := .startComplete true, pkg := { Package.fresh with go := true } } : State).pkg.go = true := by decide

/-! C words. -/
theorem witness_cAlu : CAluRow (cS [0, 7, 9]) (.div p0 5 1 2) p0 [1, 2] 5 (BitVec.ofInt 64 ((7 : Int).tdiv 9))
    ∧ CAluRow (cS [0, 7, 9]) (.lui p0 5 1) p0 [5] 5 (BitVec.ofInt 64 65536) :=
  ⟨CAluRow.div (g := p0) (d := 5) (a := 1) (b := 2), CAluRow.lui (g := p0) (d := 5) (imm := 1)⟩
theorem witness_cPred : CPredRow (cS [0, 7, 9]) (.cmp p0 .lt 1 1 2) p0 [1, 2] 1 true := CPredRow.cmp (g := p0) (cc := .lt) (pd := 1) (a := 1) (b := 2)
theorem witness_aPred : APredRow coreW (.mstat p0 1 true 7) p0 [] 1 false := APredRow.mstat (g := p0) (pd := 1) (fault := true) (b := 7)
theorem witness_aAlu : AAluRow (aS [0, 7, 9]) (.aadd p0 5 1 2) p0 [1, 2] 5 16 := AAluRow.aadd (g := p0) (d := 5) (a := 1) (b := 2)
theorem witness_cReads : (∃ v, CReadRow (at_ .c coreW) (.rdsc p0 5) p0 5 v) ∧ (∃ v, CReadRow (at_ .c coreW) (.srd p0 5 0x68) p0 5 v)
    ∧ (∃ v, CReadRow (at_ .c { coreW with xo := Outer.idle }) (.srd p0 5 0x59) p0 5 v)
    ∧ (∃ v, CReadRow (at_ .c { coreW with xo := Outer.idle }) (.sealRead p0 5) p0 5 v) ∧ ∃ v, CReadRow recW (.widf p0 5 0) p0 5 v :=
  ⟨⟨_, .rdsc⟩, ⟨_, .plain (by decide)⟩, ⟨_, .sealRegister (by decide)⟩, ⟨_, .sealRead (by decide)⟩, ⟨_, .widf (r := 3) rfl⟩⟩
theorem witness_cOnly : COnlyRetires (at_ .c { coreW with xo := Outer.idle, ao := Outer.idle }) (.djoin p0 true true) p0 []
      (fun m => if true = true ∧ m.src = .vqnt ∨ true = true ∧ (m.src = .queue ∨ m.level = 1) then 2 else 0)
    ∧ COnlyRetires (at_ .c (cS [0, 100])) (.waitsc p0 1) p0 [1] noMerge :=
  ⟨.djoin (by decide) (by decide), .waitsc (by decide) (by decide)⟩
theorem witness_swr : SwrRow coreW 0x50 3 1 ∧ SwrRow coreW 0x53 5 5 ∧ SwrRow coreW 0x54 0xFFFF 0x8F8F ∧ SwrRow coreW 0x55 31 31
    ∧ SwrRow coreW 0x56 (2 ^ 45 - 1) 0x1FFFFFFF00FF ∧ SwrRow coreW 0x57 3 3 ∧ SwrRow coreW 0x58 0x10000 0x10000 ∧ SwrRow (sup coreW) 0x64 64 64
    ∧ SwrRow (sup coreW) 0x64 1 1 :=
  ⟨.sbmode (v := 3) (by decide), .whole (by decide), .qbind (v := 0xFFFF) (by decide), .qntbind (by decide), .cpycfg (v := 2 ^ 45 - 1) (by decide),
    .tailcfg (by decide), .tailhost (by decide), .leasemax (by decide) (by decide), .leasemax (by decide) (by decide)⟩
/-- ABANDON goes into MPROG and CPYPROG, and leaves their other fields; the supervisor's stream writes SEAL and ORBITSET. -/
theorem witness_swrSupervisor : SwrRow { coreW with sys := [(7, 3), (0x67, 5)] } 0x67 (2 ^ 62) (2 ^ 62 + 5)
    ∧ SwrRow { coreW with sys := [(7, 3), (0x68, 2 ^ 62 + 5)] } 0x68 0 5 ∧ cGo (at_ .c (sup coreW)) p0 [1] ∧ (at_ .c (sup coreW)).me.sup = true :=
  ⟨.progress (by decide) (.inl rfl) (by decide +kernel), .progress (by decide) (.inr rfl) (by decide +kernel), by unfold cGo; decide, by decide⟩
/-- A record whose target is core 0 alone. -/
def recC : State := { at_ .c { sup coreW with lr := some 3 } with recs := [(3, { Rec.fresh with img := 1#2048 <<< 80 })] }
theorem witness_held :
    CHeldRow (at_ .c (cS [0, 5])) (.shst p0 0 1 0) p0 [1] (.shst 5 0)
    ∧ (∃ h, CHeldRow (at_ .c coreW) (.dispA p0 4 63 0) p0 (argRegs 4) h)
    ∧ (∃ h, CHeldRow (at_ .c coreW) (.dispX p0 0 0 0) p0 (argRegs 0) h)
    ∧ CHeldRow (at_ .c coreW) (.trap p0 9) p0 [] (.trap 9)
    ∧ CHeldRow (at_ .c (sup coreW)) (.halt p0) p0 [] .halt
    ∧ CHeldRow (at_ .c (cS [0, 0x7FF])) (.sealopPut p0 1) p0 [1] (.seal true 0x7FF)
    ∧ CHeldRow (at_ .c (cS [0, 0x107FF])) (.sealopCheck p0 1) p0 [1] (.seal false 0x7FF)
    ∧ CHeldRow (at_ .c (sup coreW)) (.swr p0 1 0x4B) p0 [1] (.swrFrame 0x4B 0) :=
  ⟨.shst (by decide), ⟨_, .dispA (s := at_ .c coreW) (narg := 4) (by decide)⟩, ⟨_, .dispX (s := at_ .c coreW) (narg := 0) (by decide)⟩,
    .trap (by intro k; simp [at_, coreW, State.me, State.core, Map.get, CStream.idle]), .halt (by decide) (by decide), .sealopPut (by decide),
    .sealopCheck (by decide) (by decide), .swrFrame (i := 0x4B) (by decide) (by decide)⟩
theorem witness_corerst : CHeldRow recC (.corerst p0 1) p0 [1] (.corerst 0) := .corerst (n := 0) (l := 3) (by decide) (by decide) rfl (List.mem_filter.2 ⟨List.mem_range.2 (by decide), by decide +kernel⟩)
theorem witness_exits :
    CExitRow (at_ .c coreW) (.call p0 4) p0 [] (.call 6)
    ∧ CExitRow (at_ .c { coreW with c := { coreW.c with stack := [8] } }) .retShort p0 [] .ret
    ∧ CExitRow (at_ .c (sup coreW)) (.rft p0) p0 [] .rft ∧ CExitRow (at_ .c coreW) (.exitC p0 0) p0 [] .finish
    ∧ AExitRow coreW (.exitA p0 4) p0 (.block 6) ∧ XExitRow coreW (.exitX p0 4) p0 (.block 6) ∧ coreW.c.pos.exit = none :=
  ⟨.call (off := 4) (by decide), .retShort (by decide), .rft (by decide) (by decide), .exitC (off := 0), .exitA (off := 4), .exitX (off := 4), by decide⟩

/-- The C stream's TLB holds the first 512 MiB of DRAM, readable. -/
def coreT : Core := { coreW with ctlb := [⟨0, true, 0, 0x4D, 100⟩] }
/-- The same core with its walk ended: the page has been found. -/
def coreK : Core := { coreW with c := { coreW.c with walk := some ⟨[(24, .dram 24), (128, .dram 128)], none, [], none, 100, true⟩ } }
theorem witness_loads : cGo (at_ .c coreT) p0 [1]
    ∧ (∃ t, reaches (at_ .c coreT) (eaOf (coreT.getS 1) (3 : BitVec 8) (bytesOf .d)) (bytesOf .d) (.dram 24) t)
    ∧ ∃ t, reaches (at_ .c coreT) (eaOf (coreT.getS 1) (2 : BitVec 11) 64) 64 (.dram 128) t :=
  ⟨by unfold cGo; decide,
    ⟨_, by decide, by decide, by decide, .inl ⟨_, by decide, by decide, by decide, rfl, by decide, by decide, rfl⟩, by decide, by decide⟩,
    ⟨_, by decide, by decide, by decide, .inl ⟨_, by decide, by decide, by decide, rfl, by decide, by decide, rfl⟩, by decide, by decide⟩⟩
theorem witness_loadsWalked : cGo (at_ .c coreK) p0 [1]
    ∧ (∃ t, reaches (at_ .c coreK) (eaOf (coreK.getS 1) (3 : BitVec 8) (bytesOf .d)) (bytesOf .d) (.dram 24) t)
    ∧ ∃ t, reaches (at_ .c coreK) (eaOf (coreK.getS 1) (2 : BitVec 11) 64) 64 (.dram 128) t :=
  ⟨by unfold cGo; decide, ⟨_, by decide, by decide, by decide, .inr ⟨_, rfl, rfl, by decide, rfl⟩, by decide, by decide⟩,
    ⟨_, by decide, by decide, by decide, .inr ⟨_, rfl, rfl, by decide, rfl⟩, by decide, by decide⟩⟩
theorem witness_shapes : (∀ e ∈ coreW.c.ready, e.1 = 32 + (15 : N16).val → e.2 ≤ 100) ∧ fieldFits .str1 (-0x8000_0000_0000)
    ∧ fieldFits .str3 0x7FFF_FFFF_FFFF ∧ fieldFits .layout 0xFF ∧ fieldFits .albf 3 ∧ fieldFits .sync 0xF_FFFF ∧ fieldFits .qfrac 31
    ∧ fieldFits .base 0xFFFF_FFFF_FFFF_FFFF := by unfold fieldFits; decide
def c17 (n : Nat) : Core := { coreW with c := { coreW.c with stack := List.replicate n 0, pos := { posW with exit := some .ret } } }
theorem witness_cTraps :
    CTrapRow (at_ .c { coreW with c := { coreW.c with stack := List.replicate 16 0 } }) (.call p0 4) p0 [] .callDepth
    ∧ CTrapRow (at_ .c coreW) (.ret p0) p0 [] .callDepth ∧ CTrapRow (at_ .c coreW) .retShort p0 [] .callDepth
    ∧ CTrapRow (at_ .c { coreW with c := { coreW.c with held := List.replicate 8 (.disp false 0 0 []) } }) (.dispA p0 1 0 0) p0 [1] .dispOvercommit
    ∧ CTrapRow (at_ .c { coreW with c := { coreW.c with held := List.replicate 8 (.disp true 0 0 []) } }) (.dispX p0 1 0 0) p0 [1] .dispOvercommit
    ∧ CTrapRow (at_ .c { coreW with c := { coreW.c with held := [.trap 1] } }) (.trap p0 2) p0 [] .reservedField
    ∧ CTrapRow (at_ .c (cS [0, 0x100])) (.shset p0 1 0 .layout) p0 [1] .reservedField
    ∧ CTrapRow (at_ .c (sup (cS [0, 1024]))) (.corerst p0 1) p0 [1] .reservedField
    ∧ CTrapRow (at_ .c (cS [0, 0x20000])) (.sealopPut p0 1) p0 [1] .reservedField
    ∧ CTrapRow (at_ .c (cS [0, 0x10800])) (.sealopCheck p0 1) p0 [1] .reservedField
    ∧ CTrapRow (at_ .c (cS [0, 0x10000])) (.swr p0 1 0x54) p0 [1] .reservedField
    ∧ CTrapRow (at_ .c (cS [0, 0x20])) (.swr p0 1 0x55) p0 [1] .reservedField
    ∧ CTrapRow (at_ .c (cS [0, 2 ^ 45])) (.swr p0 1 0x56) p0 [1] .reservedField
    ∧ CTrapRow (at_ .c (cS [0, 4])) (.swr p0 1 0x57) p0 [1] .reservedField
    ∧ CTrapRow (at_ .c (cS [0, 0xFFFF])) (.swr p0 1 0x58) p0 [1] .reservedField
    ∧ CTrapRow (at_ .c (sup (cS [0, 0]))) (.swr p0 1 0x64) p0 [1] .reservedField
    ∧ CTrapRow (at_ .c (sup (cS [0, 65]))) (.swr p0 1 0x64) p0 [1] .reservedField :=
  ⟨.call (by decide) (by decide), .ret (by decide) (by decide), .retShort (by decide) (by decide), .dispA (narg := 1) (by decide),
    .dispX (narg := 1) (by decide), .trap ⟨1, by decide⟩, .shset (by decide) (by unfold fieldFits; decide), .corerst (by decide) (by decide),
    .sealopPut (by decide), .sealopCheck (by decide), .qbind (by decide), .qntbind (by decide), .cpycfg (by decide), .tailcfg (by decide),
    .tailhost (by decide), .leasemax (by decide) (by decide), .leasemax (by decide) (by decide)⟩
theorem witness_cTrapsLoads :
    CTrapRow (at_ .c (cS [0, 1])) (.ld p0 .h 5 1 0) p0 [1] .align
    ∧ CTrapRow (at_ .c (cS [0, 0x3F_FF00_0000_0000])) (.ld p0 .h 5 1 0) p0 [1] .scratchBounds
    ∧ CTrapRow (at_ .c (cS [0, 0x3F_FE00_3FFF_FFF8])) (.ld p0 .d 5 1 0) p0 [1] .accBounds
    ∧ CTrapRow (at_ .c (cS [0, 32])) (.shld p0 0 1 0) p0 [1] .align
    ∧ CTrapRow (at_ .c (c17 1)) (.exitC p0 4) p0 [] .exitMulti ∧ CTrapRow (at_ .c (c17 0)) (.exits p0 1) p0 [1] .exitMulti
    ∧ CTrapRow { recC with cores := [(0, { sup (cS [0, 1023]) with lr := some 3 })] } (.corerst p0 1) p0 [1] .privilege :=
  ⟨.ld (by decide), .ldScratch (by decide) (by decide), .ldAcc (by decide) (by decide) (by decide), .shld (by decide),
    .exit (.exitC) rfl, .exit (.exits) rfl,
    .corerstForeign (l := 3) (by decide) (by decide) rfl (fun h => absurd (List.mem_filter.1 h).2 (by decide +kernel))⟩
theorem witness_privilege : PrivRow coreW (.rft p0) ∧ PrivRow (sup coreW) (.swr p0 1 0x0D) ∧ PrivRow coreW (.halt p0) ∧ PrivRow coreW (.corerst p0 1)
    ∧ PrivRow coreW (.swr p0 1 0x4B) ∧ PrivRow { coreW with sys := [(7, 1)] } (.halt p0) ∧ PrivRow { coreW with sys := [(7, 2)] } (.rft p0) :=
  ⟨.rft (by decide), .swrPriv (by decide), .halt (by decide), .corerst (by decide), .swrSupv (by decide) (by decide), .halt (by decide),
    .rft (by decide)⟩
theorem witness_guard : GuardRow coreW (.add ⟨true, 0⟩ 1 2 3) .c ⟨true, 0⟩ [2, 3] ∧ (at_ .c coreW).who.st = .c
    ∧ (at_ .c coreW).me.guard .c ⟨true, 0⟩ = false ∧ GuardRow coreW (.aadd ⟨false, 3⟩ 1 2 3) .a ⟨false, 3⟩ [2, 3]
    ∧ (at_ .a coreW).me.guard .a ⟨false, 3⟩ = false ∧ GuardRow (sup coreW) (.rft ⟨true, 0⟩) .c ⟨true, 0⟩ []
    ∧ GuardRow (sup coreW) (.halt ⟨true, 0⟩) .c ⟨true, 0⟩ [] ∧ GuardRow (sup coreW) (.corerst ⟨true, 0⟩ 1) .c ⟨true, 0⟩ [1]
    ∧ GuardRow coreW (.swr ⟨true, 0⟩ 1 0x5A) .c ⟨true, 0⟩ [1] ∧ GuardRow coreW (.gathq ⟨true, 0⟩ 5 1 2) .a ⟨true, 0⟩ [1, 2]
    ∧ GuardRow coreW (.cpyg ⟨true, 0⟩ 0 1 7 2) .a ⟨true, 0⟩ [] ∧ (at_ .a coreW).me.guard .a ⟨true, 0⟩ = false :=
  ⟨.add, rfl, by decide, .aadd, by decide, .rft (by decide) (by decide), .halt (by decide) (by decide), .corerst (by decide), .swr (by decide),
    .gathq, .cpyg, by decide⟩
theorem witness_waits : ∃ c : Core, GuardRow c (.add p0 1 2 3) .c p0 [2, 3] ∧ (at_ .c c).me.guard .c p0 = true ∧ (3, 101) ∈ c.c.ready ∧ (at_ .c c).now < 101
    ∧ GuardRow c (.aadd p0 1 2 3) .a p0 [2, 3] ∧ iqHolds c.ao = true ∧ (2, 200) ∈ c.aReady
    ∧ GuardRow c (.tailput p0 0 2 7) .a p0 [2] ∧ GuardRow c (.pgdist p0 0 2) .a p0 [2] :=
  ⟨{ coreW with c := { coreW.c with ready := [(3, 101)] }, aReady := [(2, 200)] }, .add, by decide, by decide, by decide, .aadd, by decide, by decide,
    .tailput, .pgdist⟩
theorem witness_bqPop : ∃ c : Core, cGo (at_ .c c) p0 [] ∧ c.q.bq[2][c.c.peek2]? = some (7, 100) ∧ c.q.bq[3][c.c.peek3]? = some (9, 5)
    ∧ c.c.peek3 + c.bqOpen 3 < c.q.bq[3].length ∧ c.c.peek2 + c.bqOpen 2 < c.q.bq[2].length :=
  ⟨{ coreW with q := { Queues.empty with bq := #v[[], [], [(7, 100)], [(1, 1), (9, 5)]] }, c := { coreW.c with peek3 := 1 } }, by unfold cGo; decide,
    by decide, by decide, by decide, by decide⟩
/-- Each stream at a block's place. -/
def coreH : Core :=
  let p : Pos := { Pos.idle with phase := .header, pc := 2, flen := 2, fwords := 1 }
  { coreW with c := { coreW.c with pos := p }, ao := { coreW.ao with pos := p }, xo := { coreW.xo with pos := p } }
theorem witness_headers :
    (at_ .c coreH).pos.phase = .header ∧ (at_ .c coreH).pos.pc + 2 + spanOf (at_ .c coreH).me .c 1 0 ((at_ .c coreH).pos.pc + 2) ≤ imemSize .c
    ∧ (at_ .x coreH).pos.phase = .header ∧ (at_ .x coreH).pos.pc + 2 + spanOf (at_ .x coreH).me .x 1 0 ((at_ .x coreH).pos.pc + 2) ≤ imemSize .x
    ∧ (at_ .c coreH).pos.pfx = none ∧ (0 : Fin 128).val = 0 := by decide
theorem witness_prefix : 2 ≤ (at_ .x coreW).pos.left ∧ pairFate .x ⟨none, 0, 0, 0, false⟩ [0x8000, 0x0000] = .ok
    ∧ pairFate .x ⟨none, 0, 0, 0, false⟩ ({ coreW with imemX := [(3, 0x8000)] }.halfwords .x (posW.pc + 1) 6) = .ok := by decide
theorem witness_syzy : ∃ c : Core, (at_ .c c).who.st = .c ∧ c.c.pos.len = 1 ∧ c.c.pos.rep = 0 ∧ c.sent = false ∧ tgtOrb c.orbitset = true ∧ (at_ .c c).xIdle 0 = true
    ∧ (at_ .c c).aIdle 0 = true ∧ c.posts = [] ∧ 0 ∈ tgtCores c.orbitset :=
  ⟨{ coreW with ao := Outer.idle, xo := Outer.idle, c := { coreW.c with pos := { posW with len := 1 } }, sys := [(0x63, 0x110000)] },
    by decide, by decide, by decide, by decide, by decide +kernel, by decide, by decide, by decide,
    List.mem_filter.2 ⟨List.mem_range.2 (by decide), by decide +kernel⟩⟩

/-! A words. -/

/-- One granule of scratchpad; a1 holds the first address of the window, and q6 has an entry. -/
def coreQ : Core :=
  { aS [0, 0x3F_FF00_0000_0000] with sys := [(0x60, 0x100)], q := { Queues.empty with st := #v[[⟨1, 5, 3, some 100⟩], []] } }
def segsQ : List (Nat × Place) :=
  [(0x3F_FF00_0000_0000, .scratch 0), (0x3F_FF00_0000_0040, .scratch 64), (0x3F_FF00_0000_0080, .scratch 128), (0x3F_FF00_0000_00C0, .scratch 192)]
theorem witness_queueLoads : aGo (at_ .a coreQ) p0 [1] ∧ coreQ.q.ld[5].length < 16
    ∧ (∃ segs, QLoadRow coreQ (.ldq p0 5 1 0) p0 [1] 5 0 segs ∧ planned (at_ .a coreQ) 5 false 0 segs segsQ StreamTlb.empty
      ∧ (at_ .a coreQ).segCause ((placesOf segsQ segs).map (fun e => e.2)) true = none) := by
  unfold aGo planned; exact ⟨by decide, by decide, _, .ldq, ⟨by decide, 0, rfl⟩, by decide +kernel⟩
theorem witness_queueStores : storeEntry (at_ .a coreQ) 6 ⟨1, 5, 3, some 100⟩ [] ∧ coreQ.boundShape 6 = none
    ∧ (∃ segs, QStoreRow coreQ (.stq p0 6 1 0) p0 [1] 6 0 segs ∧ planned (at_ .a coreQ) 6 true 0 segs segsQ StreamTlb.empty
      ∧ (at_ .a coreQ).segCause ((placesOf segsQ segs).map (fun e => e.2)) false = none) := by
  unfold planned; exact ⟨⟨by decide +kernel, ⟨100, rfl, by decide⟩, by decide⟩, by decide +kernel, _, .stq, ⟨by decide, 0, rfl⟩, by decide +kernel⟩
/-- q6 is bound to a shape of I32 with UPD 1, or to one with no format. -/
def coreB (sh : Shape) : Core := { coreQ with sys := [(0x60, 0x100), (0x54, 0x80)], sh := (Vector.replicate 16 0).set 0 sh }
def updShape : Shape := BitVec.ofNat 512 (2 ^ 64 + 2 ^ 96 + 2 ^ 128 + 2 ^ 160 + 2 ^ 336 * 9 + 2 ^ 376)
theorem witness_boundStores :
    ((coreB updShape).boundShape 6 = some updShape ∧ shapeCheck { coreB updShape with sys := [(0x60, 0x100), (0x54, 0x80), (0x62, 0x1_0000)] } updShape = none)
    ∧ (coreB 0).boundShape 6 = some 0 ∧ shapeCheck (coreB 0) 0 = some .shapeInvalid ∧ storeEntry (at_ .a (coreB 0)) 6 ⟨1, 5, 3, some 100⟩ [] :=
  ⟨⟨by decide +kernel, by decide +kernel⟩, by decide +kernel, by decide +kernel, by decide +kernel, ⟨100, rfl, by decide⟩, by decide⟩
theorem witness_scratch : (at_ .a coreQ).me.q.walk = none ∧ (64 : Nat) % 64 = 0
    ∧ ∀ va ∈ [0x3F_FF00_0000_0000, 0x3F_FF00_0000_FFC0], va % 64 = 0 ∧ inScratchWindow va = true
      ∧ ∃ o, (at_ .a coreQ).me.scratchAt (at_ .a coreQ).myTile va 64 = some o ∧ (at_ .a coreQ).heldAt (at_ .a coreQ).myTile va (some (.scratch o)) = false := by
  refine ⟨by decide, by decide, fun va h => ?_⟩
  rcases List.mem_cons.1 h with rfl | h
  · exact ⟨by decide, by decide, 0, by decide, by decide⟩
  · obtain rfl := List.mem_singleton.1 h
    exact ⟨by decide, by decide, 0xFFC0, by decide, by decide⟩
theorem witness_misaligned : ∃ segs, QLoadRow (aS [0, 63]) (.ldq p0 5 1 0) p0 [1] 5 0 (63 :: segs) ∧ aGo (at_ .a (aS [0, 63])) p0 [1]
    ∧ ((aS [0, 63]).q.ld.getD 5 []).length < 16 ∧ (aS [0, 63]).q.walk = none := by
  unfold aGo; exact ⟨_, .ldq, by decide, by decide, by decide⟩
/-- A stride of 63: the second segment of a load, and of a store, is the first to fail. -/
theorem witness_misalignedLater :
    (∃ segs, QLoadRow (aS [0, 0x3F_FF00_0000_0000, 63]) (.ldqs p0 5 1 2) p0 [1, 2] 5 63 segs ∧ segs = [] ++ 0x3F_FF00_0000_0000 :: segs.tail
      ∧ planned (at_ .a (aS [0, 0x3F_FF00_0000_0000, 63])) 5 false 63 [] [] StreamTlb.empty)
    ∧ ∃ segs, QStoreRow coreQ (.scatq p0 6 1 2) p0 [1, 2] 6 0 segs ∧ storeEntry (at_ .a coreQ) 6 ⟨1, 5, 3, some 100⟩ [] :=
  ⟨⟨_, .ldqs, by decide +kernel, by unfold planned; exact ⟨by decide, 0, rfl⟩⟩, _, .scatq, by decide +kernel, ⟨100, rfl, by decide⟩, by decide⟩
def coreTag (tags : Word) (a1 : Word) : Core := { aS [0, a1] with sys := [(0x5D, tags)] }
def batchW (st : Nat) : Core := { coreW with batch := { Batches.fresh with st := Vector.replicate 8 st } }
theorem witness_aRetires : (∃ f, AOnlyRetires (at_ .a (coreTag 5 4)) (.tagwany p0 1) p0 [1] f)
    ∧ (∃ f, AOnlyRetires (at_ .a (coreTag 5 4)) (.tagwall p0 1) p0 [1] f)
    ∧ (∃ f, AOnlyRetires (at_ .a (coreTag 5 4)) (.tagwallShort 1) p0 [1] f) ∧ AOnlyRetires (at_ .a coreW) (.mwaitb p0 7) p0 [] (commandsIn 7)
    ∧ AOnlyRetires (at_ .a (batchW 2)) (.mcommit p0 7) p0 [] noMerge :=
  ⟨⟨_, .tagwany (by decide)⟩, ⟨_, .tagwall (by decide)⟩, ⟨_, .tagwallShort (by decide)⟩, .mwaitb (by decide), .mcommit (by decide)⟩
/-- Tag 2 of core 0 is in flight. -/
def cmdW : CCmd :=
  { id := 1, core := 0, op := .cpy false false, tag := 2, dst := 0, src := 0, idx := 0, ord := ⟨false, false, .core⟩, cfg := 0, seg := 0, part := 0,
    tail := false, sup := false, pref := 0, issue := 90, store := 0, st := .queued, start := 0, elem := 0, folded := 0, groups := [],
    ring := false, direct := false, auto := false, segVa := 0, hostVa := 0, failAt := none }
def flightS : State := { at_ .a (coreTag 0 4) with tiles := [(0, { Tile.fresh with cp := ⟨[cmdW], Vector.replicate 4 3, 2⟩ })] }
theorem witness_aWaits : AWaits flightS (.tagwany p0 1) p0 [1] ∧ AWaits flightS (.tagwall p0 1) p0 [1] ∧ AWaits (at_ .a (batchW 2)) (.mwaitb p0 0) p0 []
    ∧ AWaits (at_ .a { coreW with q := { Queues.empty with bq := Vector.replicate 4 (List.replicate 32 (0, 0)) } }) (.bqputA p0 (.pred 0) 3) p0 []
    ∧ AWaits (at_ .a coreW) (.bqgetA p0 (.reg 1) 3) p0 []
    ∧ AWaits (at_ .a { coreW with q := { Queues.empty with ld := Vector.replicate 6 (List.replicate 16 ⟨0, 0, none⟩) } }) (.ldq p0 5 1 0) p0 [1]
    ∧ AWaits (at_ .a coreW) (.stq p0 7 1 0) p0 [1] :=
  ⟨.tagwany (by decide) (by decide), .tagwall (by decide) (by decide), .mwaitb (by decide), .bqputA (by decide), .bqgetA (by decide),
    .ldq (by decide), .stq (by decide)⟩
theorem witness_aTraps : ATrapRow (at_ .a (coreTag 1 4)) (.tagwany p0 1) p0 [1] .tagIdle ∧ ATrapRow (at_ .a (coreTag 1 5)) (.tagwall p0 1) p0 [1] .tagIdle
    ∧ ATrapRow (at_ .a (coreTag 1 4)) (.tagwallShort 1) p0 [1] .tagIdle ∧ ATrapRow (at_ .a (batchW 1)) (.mwaitb p0 0) p0 [] .batchOpen
    ∧ (∃ f c, ATrapRow (at_ .a coreW) (.mma f 0 0 1 false ⟨false, false, .core⟩ false) p0 [1] c)
    ∧ (∃ f c, ATrapRow (at_ .a (aS [0, 2 ^ 41])) (.mma f 0 0 1 false ⟨false, false, .core⟩ false) p0 [1] c)
    ∧ ATrapRow (at_ .a coreW) (.mzero 0 1 ⟨false, false, .core⟩) p0 [1] .leaseNone
    ∧ ATrapRow (at_ .a { coreW with ao := { coreW.ao with pos := { posW with exit := some .finish } } }) (.exitA p0 0) p0 [] .exitMulti :=
  ⟨.tagwany (by decide), .tagwall (by decide), .tagwallShort (by decide), .mwaitb (by decide),
    ⟨.i8, _, .mmaNoLease (by decide) (by decide)⟩, ⟨.i8, _, .mmaDescriptor (by decide)⟩, .mzeroNoLease (by decide) (by decide),
    .exit .exitA rfl⟩
theorem witness_bq : BqPutRow (aS [0, 0x1FF]) (.bqputA p0 (.reg 1) 3) p0 [1] 3 (BitVec.ofNat 8 0x1FF) ∧ coreW.q.bq[3].length < 32
    ∧ ∃ c : Core, aGo (at_ .a c) p0 [] ∧ c.q.bq[3] = (7, 100) :: [] ∧ c.bqOpen 3 ≤ 0 :=
  ⟨BqPutRow.reg (r := 1), by decide, { coreW with q := { Queues.empty with bq := #v[[], [], [], [(7, 100)]] } }, by unfold aGo; decide, by decide, by decide⟩
theorem witness_mcommit : aGo (at_ .a (batchW 1)) p0 [] ∧ (at_ .a (batchW 1)).me.batch.st[(7 : N8)] = 1 := by unfold aGo; decide
/-- A shape of 64 elements of I32. -/
def shp (base ext0 ext1 fmt : Nat) : Shape := BitVec.ofNat 512 (base + 2 ^ 64 * ext0 + 2 ^ 96 * ext1 + 2 ^ 128 + 2 ^ 160 + 2 ^ 192 * (ext0 * esize fmt) + 2 ^ 336 * fmt)
/-- Shapes 0 and 1 lie in the core's granule; shape 2 is an index list of 8 elements, shape 3 a table of the same rows. -/
def coreC : Core :=
  { coreQ with sh := ((((Vector.replicate 16 0).set 0 (shp 0x3F_FF00_0000_0400 64 1 9)).set 1 (shp 0x3F_FF00_0000_0000 64 1 9)).set 2
    (shp 0x3F_FF00_0000_0800 1 1 9)).set 3 (shp 0x3F_FE00_0000_0000 64 1 9) }
theorem witness_copies : (∃ x, CopyRow coreC (.cpy p0 0 1 7 ⟨false, false, .core⟩ false false) p0 (.cpy false false) 7 coreC.sh[0] coreC.sh[1] x ⟨false, false, .core⟩)
    ∧ copyCheck coreC (.cpy false false) coreC.sh[0] coreC.sh[1] coreC.sh[1] ⟨false, false, .core⟩ = none
    ∧ copyCheck coreC .cpyg coreC.sh[0] coreC.sh[1] coreC.sh[2] ⟨false, false, .core⟩ = none
    ∧ copyCheck coreC .cpyr coreC.sh[3] coreC.sh[1] coreC.sh[1] ⟨false, false, .core⟩ = none
    ∧ (at_ .a coreC).copyBusy 0 7 = false :=
  ⟨⟨_, .cpy⟩, by decide +kernel, by decide +kernel, by decide +kernel, by decide⟩
theorem witness_copyTraps : ATrapRow (at_ .a coreW) (.cpy p0 0 1 7 ⟨false, false, .core⟩ false false) p0 [] .shapeInvalid := .cpy (by decide +kernel)
/-- A tail of one granule, whose segment 0 is as given. -/
def tailS (st : Nat) : State :=
  { at_ .a { coreC with a := Vector.replicate 32 0, sys := [(0x58, 0x10000), (0x60, 0x200)], ringSize := 0x10000 } with
    scratch := [(stagingAt 0 0x200, BitVec.ofNat 8 st)] }
theorem witness_tail : TailRow (tailS 2).me (.offload p0 1 7) p0 1 .offload 0 (tailS 2).me.sh[(0 : N16)] 7 ∧ aGo (tailS 2) p0 [1]
    ∧ (tailS 2).tailCheck (tailS 2).me .offload (tailS 2).me.sh[(0 : N16)] = none ∧ (tailS 2).copyBusy 0 7 = false
    ∧ (tailS 2).segEcc 0 0x200 0 = false ∧ ({ tailS 2 with badScr := [stagingAt 0 0x200] } : State).segEcc 0 0x200 0 = true
    ∧ (tailS 2).tailState (tailS 2).me 0 .offload 0 (tailS 2).me.sh[(0 : N16)] = .accept none
    ∧ (tailS 3).tailState (tailS 3).me 0 .offload 0 (tailS 3).me.sh[(0 : N16)] = .noEffect
    ∧ (tailS 2).tailState (tailS 2).me 0 .recall 0 (tailS 2).me.sh[(0 : N16)] = .noEffect :=
  ⟨.offload (r := 1) (by decide +kernel), by unfold aGo; decide +kernel, by decide +kernel, by decide +kernel, by decide +kernel, by decide +kernel,
    rfl, rfl, rfl⟩
theorem witness_tailForms : TailRow (aS [0, 2047]) (.tailput p0 0 1 7) p0 1 .tailput 2047 (aS []).sh[(0 : N16)] 7
    ∧ TailRow (aS [0, 2 ^ 32 + 2047]) (.tailget p0 0 1 7) p0 1 (.tailget true) 2047 (aS []).sh[(0 : N16)] 7
    ∧ TailRow (aS [0, 2047]) (.tailget p0 0 1 7) p0 1 (.tailget false) 2047 (aS []).sh[(0 : N16)] 7 :=
  ⟨.tailput (r := 1) (by decide), .tailgetFree (by decide) (by decide), .tailget (by decide) (by decide)⟩
/-- A lease with three commands left, plane 0 granted, MZERO of one cell. -/
def mxS : State :=
  { at_ .a { coreC with a := Vector.replicate 32 0, sys := [(0x60, 0x100), (0x61, 1)] } with
    tiles := [(0, { Tile.fresh with mx := { Matrix.fresh with runs := [⟨1, 0, 3, 0, true, 50⟩], owner := some 1 } })] }
theorem witness_matrix : aGo mxS p0 [1] ∧ matrixClear mxS .mzero (commandOf mxS .mzero 0 0 1 false ⟨false, false, .core⟩ false) ⟨1, 0, 3, 0, true, 50⟩ [] := by
  unfold aGo matrixClear
  exact ⟨by decide +kernel, by decide +kernel, by decide +kernel, by decide +kernel, by decide +kernel, by decide +kernel, by decide +kernel,
    by decide +kernel, rfl, by decide +kernel, by decide +kernel, by decide +kernel, by decide +kernel, by decide +kernel⟩

/-- After UNLEASE a command traps, though a new request waits in the queue. -/
theorem witness_matrixClosed : ∃ s f, ATrapRow s (.mma f 0 0 1 false ⟨false, false, .core⟩ false) p0 [1] .leaseNone
    ∧ ∃ o, (s.mx s.myTile).oldest s.who.core = some o ∧ o.closed = 2 ∧ (s.mx s.myTile).newest s.who.core ≠ some o :=
  ⟨{ at_ .a coreW with tiles := [(0, { Tile.fresh with mx := { Matrix.fresh with runs := [⟨1, 0, 3, 2, true, 50⟩, ⟨2, 0, 3, 0, false, 60⟩], owner := some 1 } })] },
    .t8, .mmaClosed (by decide) rfl rfl, _, rfl, rfl, by decide⟩

/-! X words. -/

/-- A core without results in flight issues a word that asks for nothing else. -/
theorem xGo_idle (c : Core) (w : XIn) (h : c.xr.flights = [])
    (hd : c.xr.sbWait = false ∧ c.xo.pos.last + 1 + w.dly ≤ 100 ∧ c.guard .x (c.xGuard w.guard) = true ∧ iqHolds c.xo = true
      ∧ c.heads 100 w.srcs = true ∧ w.qwait = false ∧ (∀ n, w.qd = some n → (c.q.st.getD (n.val - 6) []).length < 16)
      ∧ c.xr.fma0 ≤ 100 ∧ c.xr.vred ≤ 100 ∧ w.bad = none ∧ w.cells = false
      ∧ c.bad ((c.srcItems w.srcs ++ w.reads).filterMap Item.reg) = false) : xGo (at_ .x c) w := by
  obtain ⟨h1, h2, h3, h4, h5, h6, h7, h8, h9, hb, hc⟩ := hd
  have hm : (at_ .x c).me = c := rfl
  unfold xGo
  rw [hm, h]
  exact ⟨rfl, h1, h2, h3, h4, by simp, h5, h6, h7, by simp, by simp, by simp, fun _ => .inl h8, fun _ => h9, fun _ => rfl, hb, hc⟩
/-- Two operands from queue 0 and one from queue 5, a mask that lets lanes 0 to 3 of a quarter through, a destination in q7. -/
def coreX : Core :=
  { coreW with xr := { XRegs.zero with m := (Vector.replicate 8 0).set 1 0xFFFF },
               q := { Queues.empty with ld := #v[[⟨1, 5, some 90⟩, ⟨2, 6, some 100⟩], [], [], [], [], [⟨3, 7, some 1⟩]] } }
theorem witness_xVec : (∃ w, XVecRow coreX (.vadd .f32 0 (.q 7) (.q 0) (.q 0) true) w (.q 7) 32 64
      (masked coreX true 32 (fun k => roundLane .f32 (coreX.rounding k) (Machine.Num.add (coreX.xRnd == .rdn)
        (laneNum .f32 (opLane coreX [(.q 0, 32), (.q 0, 32)] 0 32 k)) (laneNum .f32 (opLane coreX [(.q 0, 32), (.q 0, 32)] 1 32 k))))) .none 1
      ∧ xGo (at_ .x coreX) w)
    ∧ (∃ w sr busy val so, XVecRow coreX (.vredsum .f32 0 (.v 1) (.q 5) true) w (.v 1) 32 sr val so busy ∧ xGo (at_ .x coreX) w) :=
  ⟨⟨_, .vadd _ rfl, xGo_idle _ _ rfl (by decide)⟩, ⟨_, _, _, _, _, .reduce _ rfl (.inl ⟨rfl, rfl, rfl⟩), xGo_idle _ _ rfl (by decide)⟩⟩
theorem witness_xVecHyps : (coreX.sysReg 0x55).toNat.testBit 4 = false ∧ (∃ w op, XVecRow coreX (.qfix 0 (.v 1) (.v 2) 0 true) w (.v 1) 32 0 op .none 1)
    ∧ (∃ w op so, XVecRow coreX (.revadd 0 (.v 1) (.v 2) (.v 3) true) w (.v 1) 32 0 op so 1) :=
  ⟨by decide, ⟨_, _, XVecRow.q32 (c := coreX) (sh := 0) _ rfl (by decide +kernel) (by decide +kernel) (.inl ⟨rfl, rfl⟩)⟩, _, _, _, .paired _ rfl (.inl ⟨rfl, rfl⟩)⟩
theorem witness_xMask : (∃ w bit l, XMaskRow coreX (.vcmp .i8 0 .lt 7 (.v 1) (.q 0) true) w 7 bit l ∧ xGo (at_ .x coreX) w)
    ∧ ∃ w, XMaskRow coreX (.mset 0 7 1) w 7 (fun k => decide (k < (coreX.getX 1).toNat)) none ∧ xGo (at_ .x coreX) w :=
  ⟨⟨_, _, _, .vcmp _ rfl, xGo_idle _ _ rfl (by decide)⟩, _, .mset, xGo_idle _ _ rfl (by decide)⟩
theorem witness_xScalar : ∃ w v, XScalarRow coreX (.xlane 1 (.q 0) .w 63) w 1 v ∧ xGo (at_ .x coreX) w :=
  ⟨_, _, .xlane rfl, xGo_idle _ _ rfl (by decide)⟩
theorem witness_xSort : xGo (at_ .x coreX)
    { coreX.vecIn (0 : N8) (.v 1) false [((.q 0 : Src), 32), (.q 0, 32)] (.one 6) 12 with reads := [.m coreX.xMaskNo.val] } :=
  xGo_idle _ _ rfl (by decide)
/-- Shapes 0 to 2: QFRAC 31, a reserved bit, and UPD with TRAPEN of record 0; x1 is as given. -/
def coreV (x1 : Word) (qnt : Word) (scale : Nat) : Core :=
  { coreX with xr := { coreX.xr with x := (Vector.replicate 16 0).set 1 x1 }, sys := [(0x55, qnt), (0x62, 0x1_0000)],
               sh := (((Vector.replicate 16 0).set 0 (BitVec.ofNat 512 (31 * 2 ^ 416))).set 1 (BitVec.ofNat 512 (2 ^ 421))).set 2
                 (BitVec.ofNat 512 (scale * 2 ^ 376)) }
/-- The check of 256 zero bytes is 0. -/
theorem zero_bytes (l : List Nat) : crc64 0 (l.map (opLane coreX [(.v 1, 8)] 0 8)) = 0 := by
  have h : ∀ k, opLane coreX [(.v 1, 8)] 0 8 k = 0 := fun k => by
    show lane (0 : Vec) 8 k = 0
    unfold lane; simp
  induction l with
  | nil => rfl
  | cons a l ih => rw [List.map_cons, h]; exact ih
theorem witness_xTraps :
    (∃ w, XTrapRow (at_ .x coreX) (.katchk 0 (.v 1) 1) w .katMismatch 0 ∧ xGo (at_ .x coreX) w)
    ∧ (∃ w, XTrapRow (at_ .x (coreV 0 0 0)) (.qfix 0 (.v 1) (.v 2) 0 false) w .shapeInvalid 0 ∧ xGo (at_ .x (coreV 0 0 0)) w)
    ∧ (∃ w, XTrapRow (at_ .x (coreV 0 0 0)) (.qflt 0 (.v 1) (.v 2) 1 false) w .reservedField 0 ∧ xGo (at_ .x (coreV 0 0 0)) w)
    ∧ (∃ w, XTrapRow (at_ .x (coreV 0x10000 0 0)) (.qscale 0 2 1 .i8 0) w .reservedField 0 ∧ xGo (at_ .x (coreV 0x10000 0 0)) w) :=
  ⟨⟨_, .katchk (zero_bytes _).symm (by decide), xGo_idle _ _ rfl (by decide)⟩,
    ⟨_, .qfix (.inl rfl) (by decide +kernel) (by decide +kernel), xGo_idle _ _ rfl (by decide)⟩,
    ⟨_, .qfixReserved (.inr rfl) (by decide +kernel), xGo_idle _ _ rfl (by decide)⟩,
    ⟨_, .qscale (by decide +kernel), xGo_idle _ _ rfl (by decide)⟩⟩
theorem witness_xExitTrap : ∃ c : Core, XTrapRow (at_ .x c) (.exitX p0 0) { guard := p0 } .exitMulti 0 ∧ xGo (at_ .x c) { guard := p0 } :=
  ⟨{ coreX with xo := { coreX.xo with pos := { posW with exit := some .finish } } }, .exit .exitX rfl, xGo_idle _ _ rfl (by decide)⟩
/-- A word held back by its DLY, by an empty queue, by a result in flight; in SBMODE 0 and 1. -/
def coreF (mode : Word) (scale : Bool) : Core :=
  { coreX with xr := { coreX.xr with flights := [⟨1, some 101, none, .v 1 0, .none, scale⟩] }, sys := [(0x50, mode)] }
theorem witness_xHeld : (∃ w, xNeeds coreX (.vnot 7 (.v 1) (.v 2) false) w ∧ w.dly = 7)
    ∧ (∃ w, xNeeds coreX (.vnot 0 (.v 1) (.q 4) false) w ∧ coreX.heads 100 w.srcs = false)
    ∧ (∃ w, xNeeds (coreF 0 false) (.vnot 0 (.v 2) (.v 1) false) w ∧ (coreF 0 false).heads 100 w.srcs = true
      ∧ ∃ f ∈ (coreF 0 false).xr.flights, f.scale = false ∧ ∃ k ∈ (coreF 0 false).srcItems w.srcs ++ w.reads, f.hits k = true)
    ∧ ((coreF 1 false).sysReg 0x50).toNat.testBit 0 = true ∧ ((coreF 0 false).sysReg 0x50).toNat.testBit 0 = false ∧ (coreF 0 false).aligned = false :=
  ⟨⟨_, .inl ⟨_, _, _, _, _, _, .vnot _ rfl⟩, rfl⟩, ⟨_, .inl ⟨_, _, _, _, _, _, .vnot _ rfl⟩, by decide⟩,
    ⟨_, .inl ⟨_, _, _, _, _, _, .vnot _ rfl⟩, by decide, _, List.mem_singleton.2 rfl, rfl, .v 1, by decide, by decide⟩, by decide, by decide, by decide⟩
/-- Held back by the result of a QSCALE; by a full store queue; by its qualifier; by its guard; and a word that takes q5 beside a command
that takes scales, and beside none. -/
theorem witness_xHeldScale : ∃ w, xNeeds (coreF 0 true) (.vnot 0 (.v 2) (.v 1) false) w ∧ (coreF 0 true).heads 100 w.srcs = true
    ∧ (∃ f ∈ (coreF 0 true).xr.flights, f.scale = true ∧ ∃ k ∈ (coreF 0 true).srcItems w.srcs ++ w.reads, f.hits k = true)
    ∧ (coreF 0 true).violation 100 w ((coreF 0 true).srcItems w.srcs ++ w.reads) = false :=
  ⟨_, .inl ⟨_, _, _, _, _, _, .vnot _ rfl⟩, by decide, ⟨_, List.mem_singleton.2 rfl, rfl, .v 1, by decide, by decide⟩, by decide⟩
theorem witness_xHeldQueue : ∃ c w, xNeeds c (.vnot 0 (.q 7) (.v 1) false) w ∧ ∃ n, w.qd = some n ∧ 16 ≤ (c.q.st.getD (n.val - 6) []).length :=
  ⟨{ coreX with q := { coreX.q with st := #v[[], List.replicate 16 ⟨0, 0, 0, none⟩] } }, _, .inl ⟨_, _, _, _, _, _, .vnot _ rfl⟩, 7, rfl, by decide⟩
theorem witness_xHeldQualifier : (∃ w, xNeeds coreX (.vnot 0 (.v 1) (.v 2) false) w) ∧ ∃ c : Core, c.xr = coreX.xr ∧ iqHolds c.xo = false
    ∧ c.xo.pos.last + 1 + 0 ≤ 100 :=
  ⟨⟨_, .inl ⟨_, _, _, _, _, _, .vnot _ rfl⟩⟩, { coreX with xo := { coreX.xo with nlev := 1, idx := Vector.replicate 6 5, pos := { coreX.xo.pos with pfx := some ⟨none, 0, 0, 1, false⟩ } } }, rfl,
    by decide, by decide⟩
theorem witness_xHeldGuard : ∃ c w, xNeeds c (.vnot 0 (.v 1) (.v 2) false) w ∧ c.xr.flights = [] ∧ c.guard .x (c.xGuard w.guard) = false :=
  ⟨{ coreX with xo := { coreX.xo with pos := { coreX.xo.pos with pfx := some ⟨some ⟨true, 0⟩, 0, 0, 0, false⟩ } } }, _,
    .inl ⟨_, _, _, _, _, _, .vnot _ rfl⟩, rfl, by decide⟩
theorem witness_xBq : xGo (at_ .x coreX) { guard := p0, reads := [.x 1] } ∧ coreX.q.bq[3].length < 32
    ∧ ∃ c : Core, xGo (at_ .x c) { guard := p0, writes := [.p 7] } ∧ c.q.bq[0] = (3, 100) :: [] ∧ c.bqOpen 0 ≤ 0 :=
  ⟨xGo_idle _ _ rfl (by decide), by decide, { coreX with q := { coreX.q with bq := #v[[(3, 100)], [], [], []] } }, xGo_idle _ _ rfl (by decide), by decide, by decide⟩
theorem witness_xSeal : xGo (at_ .x coreX) { dly := (0 : N8).val, writes := [.sealAcc] }
    ∧ xGo (at_ .x coreX) { dly := (0 : N8).val, srcs := [(.v 1, 8)] }
    ∧ ∃ k : Word, crc64 0 ((List.range 256).map (opLane coreX [(.v 1, 8)] 0 8)) = k.toNat :=
  ⟨xGo_idle _ _ rfl (by decide), xGo_idle _ _ rfl (by decide), 0, zero_bytes _⟩
theorem witness_xQuantise : ((coreV 0 0x12 3).sysReg 0x55).toNat.testBit 4 = true
    ∧ ((coreV 0 0x12 3).sh.getD (((coreV 0 0x12 3).sysReg 0x55).toNat % 16) 0).toNat.testBit 377 = true
    ∧ ((coreV 0 0x12 1).sh.getD (((coreV 0 0x12 1).sysReg 0x55).toNat % 16) 0).toNat.testBit 377 = false
    ∧ ((coreV 0 0x12 1).sh.getD (((coreV 0 0x12 1).sysReg 0x55).toNat % 16) 0).toNat.testBit 376 = true
    ∧ (coreV 0 0x12 3).albOk 0 = true ∧ (quantLane .i8 0 ((coreV 0 0x12 3).rounding 0) 0x7F7F_FFFF).2 = true
    ∧ ((coreV 0 0x12 0).sh.getD (((coreV 0 0x12 0).sysReg 0x55).toNat % 16) 0).toNat.testBit 377 = false
    ∧ ((coreV 0 0x12 0).sh.getD (((coreV 0 0x12 0).sysReg 0x55).toNat % 16) 0).toNat.testBit 376 = false := by decide +kernel
theorem witness_xQuantiseGo : xGo (at_ .x (coreV 0 0x12 1))
    { (coreV 0 0x12 1).vecIn (0 : N8) (.v 2) false [((.v 1 : Src), 32)] (.one 7) 3 with
      reads := ((coreV 0 0x12 1).vecIn (0 : N8) (.v 2) false [((.v 1 : Src), 32)] (.one 7) 3).reads ++ [.x (1 : N16).val] } :=
  xGo_idle _ _ rfl (by decide +kernel)
/-- The last record, whose home is tile 255. -/
theorem witness_qscale : ∃ s : State, xGo s (scaleNeeds s 0 2 1) ∧ (s.me.getX 1).toNat = 0xFFFF ∧ s.muted s.myTile (0xFFFF / 256) = false :=
  ⟨at_ .x (coreV 0xFFFF 0 0), xGo_idle (coreV 0xFFFF 0 0) _ rfl (by decide +kernel), by decide, by decide⟩
theorem witness_acc : (∃ w r, AccRow coreX (.acld true 0 (.v 1) 5 (.lit 127)) .load true 5 (.lit 127) w r ∧ xGo (at_ .x coreX) w)
    ∧ (128 ≤ rowOf (coreV 128 0 0) (.x 1) ∨ False) ∧ coreX.planeOk 5 = false
    ∧ ∃ c : Core, rowOf c (.lit 127) < 128 ∧ c.planeOk 5 = true ∧ (at_ .x c).mxConflict 0 5 127 64 false = false ∧ (at_ .x c).rowEcc 0 5 127 64 = false :=
  ⟨⟨_, _, .acld, xGo_idle _ _ rfl (by decide)⟩, by decide, by decide, { coreX with sys := [(0x61, 0x20)] }, by decide, by decide, by decide, by decide +kernel⟩

/-! Events. -/

/-- An event with core 0 as given. -/
def evS (e : Event) (c : Core) : State := { at_ .c c with ev := e }
/-- The C stream of core 0 in a phase. -/
def cPh (ph : Phase) (f : CStream → CStream) : Core := { coreW with c := f { CStream.idle with pos := { posW with phase := ph, blk := 0 } } }
theorem witness_commitAsk : ∃ P, CommitEventRow (evS (.commitPhase1 0) (cPh .commit1 (fun c => { c with asks := [(0, 3)] }))) .commitPhase1 P :=
  ⟨_, .ask rfl rfl rfl rfl⟩
theorem witness_commitAccepted :
    ∃ P, CommitEventRow (evS (.commitPhase1 0) (cPh .commit1 (fun c => { c with asks := [(0, 3)], asked := true, until_ := 100 }))) .commitPhase1 P :=
  ⟨_, .accepted rfl rfl rfl rfl (by decide) (by decide) rfl⟩
theorem witness_commitRefused :
    ∃ P, CommitEventRow (evS (.commitPhase1 0)
      (cPh .commit1 (fun c => { c with asks := [(0, 3), (8, 3)], asked := true, until_ := 100, refused := some (.syncMisuse, 0, 0) }))) .commitPhase1 P :=
  ⟨_, .refused rfl rfl rfl rfl (by decide) (by decide) rfl⟩
theorem witness_commitNothing : ∃ P, CommitEventRow (evS (.commitPhase1 0) (cPh .commit1 id)) .commitPhase1 P :=
  ⟨_, .nothing rfl rfl rfl rfl rfl rfl (by decide) (by decide)⟩
theorem witness_commitBadObject :
    ∃ P, CommitEventRow (evS (.commitPhase1 0) (cPh .commit1 (fun c => { c with held := [.acq 0x10_0000 .core] }))) .commitPhase1 P :=
  ⟨_, .badObject rfl rfl rfl rfl rfl (by decide)⟩
theorem witness_commitShapes :
    ∃ P, CommitEventRow (evS (.commitPhase2 0) (cPh .commit2 (fun c => { c with shapes := [(3, 0xFF, 5)], peek2 := 1 }))) .commitPhase2 P :=
  ⟨_, .shapes rfl rfl rfl rfl⟩
theorem witness_commitStore :
    ∃ P, CommitEventRow (evS (.commitPhase2 0) (cPh .commit2 (fun c => { c with
      held := [.st 16 8 0xFFFF false], walk := some ⟨[(65, .dram 16)], none, [], none, 100, true⟩ }))) .commitPhase2 P :=
  ⟨_, .store (dpa := 16) rfl rfl rfl rfl rfl rfl⟩
theorem witness_commitAtomic :
    ∃ P, CommitEventRow (evS (.commitPhase2 0) (cPh .commit2 (fun c => { c with held := [.atomic .add true accBase 5 0 7] }))) .commitPhase2 P :=
  ⟨_, .atomic rfl rfl rfl rfl rfl⟩
/-- A merge of record 0 issued in cycle 90 is on its way. -/
def mergeT : Tile := { Tile.fresh with merges := [⟨0, .queue, 90, 101, 0, ⟨0, 0, 0, 0, 0, 0, []⟩⟩] }
theorem witness_commitSettle :
    ∃ P, CommitEventRow { evS (.commitPhase2 0) (cPh .commit2 (fun c => { c with held := [.albsettle 0] })) with tiles := [(0, mergeT)] }
      .commitPhase2 P := ⟨_, .settle rfl rfl rfl (by decide)⟩
theorem witness_commitSettleAgain :
    (∃ P, CommitEventRow { evS (.albedoSettleDone 0) (cPh .commit2 (fun c => { c with held := [.albsettle 0], settle := some 100 })) with
      tiles := [(0, mergeT)] } .albedoSettleDone P)
    ∧ ∃ P, CommitEventRow (evS (.albedoSettleDone 0) (cPh .commit2 (fun c => { c with held := [.albsettle 0], settle := some 100 }))) .albedoSettleDone P :=
  ⟨⟨_, .settleAgain rfl rfl (by decide)⟩, _, .settleDone rfl rfl (by decide)⟩
def askS (h : Held) : State :=
  { evS (.syncAccept 0x80) (cPh .commit1 (fun c => { c with asks := [(0x80, 0)], asked := true, held := [h] })) with
    waiters := [⟨0x80, 100, 0, .run 0⟩] }
def askW : Waiter := ⟨0x80, 100, 0, .run 0⟩
theorem witness_commitServe : (∃ P, CommitEventRow (askS (.atomic .add true (accBase + 0x80) 5 0 7)) .syncAccept P)
    ∧ (∃ P, CommitEventRow { askS (.atomic .add true (accBase + 0x80) 5 0 7) with reserved := [(0x80, 1)] } .syncAccept P)
    ∧ ∃ P, CommitEventRow { askS (.atomic .add true (accBase + 0x80) 5 0 7) with fencedR := [0] } .syncAccept P :=
  ⟨⟨_, .serve (w := askW) (key := 0x80) rfl ⟨rfl, by decide⟩ rfl (by decide) (by decide +kernel)⟩,
    ⟨_, .stays (w := askW) (key := 0x80) rfl ⟨rfl, by decide⟩ (by decide) rfl (by decide +kernel)⟩,
    _, .turnAway (w := askW) (key := 0x80) (cause := .destEclipsed) rfl ⟨rfl, by decide⟩ rfl (by decide) (by decide +kernel)⟩
theorem witness_runEnds :
    (∃ P, CommitEventRow (evS (.blockRunEnd ⟨0, .c⟩) (cPh .runEnd (fun c => { c with pos := { c.pos with rep := 1 } }))) .blockRunEnd P)
    ∧ (∃ P, CommitEventRow (evS (.blockRunEnd ⟨0, .c⟩) (cPh .runEnd id)) .blockRunEnd P)
    ∧ (∃ P, CommitEventRow (evS (.blockRunEnd ⟨0, .c⟩) (cPh .runEnd (fun c => { c with pos := { c.pos with exit := some (.block 8) } }))) .blockRunEnd P)
    ∧ (∃ P, CommitEventRow (evS (.blockRunEnd ⟨0, .c⟩) (cPh .runEnd (fun c => { c with pos := { c.pos with exit := some (.call 8) } }))) .blockRunEnd P)
    ∧ ∃ P, CommitEventRow (evS (.blockRunEnd ⟨0, .c⟩) (cPh .runEnd (fun c => { c with stack := [8], pos := { c.pos with exit := some .ret } }))) .blockRunEnd P :=
  ⟨⟨_, .again rfl rfl rfl rfl rfl rfl (by decide)⟩, ⟨_, .next rfl rfl rfl rfl rfl rfl (by decide)⟩, ⟨_, .branch rfl rfl rfl rfl rfl rfl⟩,
    ⟨_, .call rfl rfl rfl rfl rfl rfl⟩, _, .ret (rest := []) rfl rfl rfl rfl rfl rfl rfl⟩
def outerEnd (nlev cnt blk : Nat) : Outer :=
  { Outer.idle with active := true, nlev := nlev, cnt := Vector.replicate 6 cnt, pos := { posW with phase := .runEnd, exit := some .finish, blk := blk } }
theorem witness_outerEnds :
    (∃ P, CommitEventRow (evS (.blockRunEnd ⟨0, .x⟩) { coreW with xo := outerEnd 0 0 0 }) .blockRunEnd P)
    ∧ ∃ P, CommitEventRow (evS (.blockRunEnd ⟨0, .a⟩) { coreW with ao := outerEnd 1 2 8 }) .blockRunEnd P :=
  ⟨⟨_, .outerDone rfl rfl rfl rfl⟩, _, .outerNext rfl rfl rfl (by decide) (by decide) (by decide)⟩

def dispE : Disp := ⟨4, 63, [1, 2], 100⟩
theorem witness_dispatch :
    (∃ P, CycleEventRow (evS (.dispatchStart ⟨0, .x⟩) { coreW with xo := { Outer.idle with dq := [dispE] } }) .dispatchStart P)
    ∧ ∃ P, CycleEventRow (evS (.dispatchStart ⟨0, .a⟩) { coreW with ao := { Outer.idle with dq := [{ dispE with desc := 0 }] }, desc := [(7, 0x80)] }) .dispatchStart P :=
  ⟨⟨_, .dispatch rfl rfl rfl (by decide) rfl (by decide)⟩, _, .dispatchBad rfl rfl rfl (by decide) (by decide) (by decide)⟩
def landS (f : Flight) (st : List StoreEntry) : State :=
  evS (.xResultLand 0 1) { coreW with xr := { XRegs.zero with flights := [f] }, q := { Queues.empty with st := #v[[], st] } }
theorem witness_lands :
    (∃ P, CycleEventRow (landS ⟨1, some 100, none, .v 31 5, .none, false⟩ []) .xResultLand P)
    ∧ (∃ P, CycleEventRow (landS ⟨1, some 100, none, .m 7 5, .none, false⟩ []) .xResultLand P)
    ∧ (∃ P, CycleEventRow (landS ⟨1, some 100, none, .x 15 5, .none, false⟩ []) .xResultLand P)
    ∧ (∃ P, CycleEventRow (landS ⟨1, some 100, some (3, 9), .none, .none, false⟩ []) .xResultLand P)
    ∧ ∃ P, CycleEventRow (landS ⟨1, some 100, none, .q 7 5 1, .none, false⟩ [⟨1, 5, 1, none⟩]) .xResultLand P :=
  ⟨⟨_, .landV rfl rfl rfl⟩, ⟨_, .landM rfl rfl rfl⟩, ⟨_, .landX rfl rfl rfl (by decide)⟩, ⟨_, .landLatch rfl rfl rfl⟩,
    _, .landQ rfl rfl rfl (by decide) (by decide) rfl rfl⟩
theorem witness_queues : (∃ P, CycleEventRow (evS (.loadQueueEntryReady 0 1) coreQ) .loadQueueEntryReady P)
    ∧ (∃ P, CycleEventRow (evS (.scalarWrite 0 1) { coreW with cst := [⟨1, 1, 100, [⟨.dram 64, 0, [some 5, none]⟩], none, none⟩] }) .lineAccess P)
    ∧ ∃ P, CycleEventRow (evS (.queueStoreWrite 0 1) { coreW with q := { Queues.empty with wr := [⟨1, 1, 100, [⟨.scratch 64, 0, [some 5, none]⟩], none, none⟩] } })
      .queueStoreWrite P := ⟨⟨_, .loadReady rfl⟩, ⟨_, .scalarWrite rfl rfl rfl (by decide)⟩, _, .storeWrite rfl rfl rfl rfl⟩
/-- A store with a merge, and one to DRAM with a version. -/
def wrS (w : QStore) : State := evS (.queueStoreWrite 0 1) { coreW with q := { Queues.empty with wr := [w] } }
theorem witness_boundWrites :
    (∃ P, CycleEventRow (wrS ⟨1, 1, 100, [⟨.scratch 64, 0, [some 5, none]⟩], none, some ⟨0, 5, 0, 0, 0, 0, []⟩⟩) .queueStoreWrite P)
    ∧ ∃ P, CycleEventRow (wrS ⟨1, 1, 100, [⟨.dram 64, 0, [some 5, none]⟩], some 7, none⟩) .queueStoreWrite P :=
  ⟨⟨_, .storeMerges rfl rfl rfl rfl (fun v h _ => by rw [List.mem_singleton.1 h])⟩,
    _, .storeDram rfl rfl rfl rfl (by decide) (by decide) ⟨_, List.mem_cons_self, by decide⟩⟩
def walkW : Walk := ⟨[], none, [⟨0, true, 0, 0x4D, 100⟩], some StreamTlb.empty, 100, false⟩
theorem witness_walks :
    (∃ P, CycleEventRow (evS (.streamTlbWalkDone 0 14) { coreW with c := { coreW.c with walk := some walkW } }) .streamTlbWalkDone P)
    ∧ (∃ P, CycleEventRow (evS (.streamTlbWalkDone 0 14) { coreW with c := { coreW.c with walk := some { walkW with fail := some (.pageNotPresent, 8, 1) } } })
      .streamTlbWalkDone P)
    ∧ ∃ P, CycleEventRow (evS (.streamTlbWalkDone 0 5) { coreW with q := { Queues.empty with walk := some walkW } }) .streamTlbWalkDone P :=
  ⟨⟨_, .walkC rfl rfl rfl rfl rfl⟩, ⟨_, .walkCFails rfl rfl rfl rfl rfl⟩, _, .walkQ (ch := 5) rfl rfl rfl rfl rfl rfl⟩
def portS (op : AccOp) : State :=
  { evS (.accumulatorPortGrant 0 61) { coreW with xr := { XRegs.zero with flights := [⟨7, some 104, none, .v 3 0, .none, false⟩] } } with
    tiles := [(0, { Tile.fresh with ports := [⟨0, 7, op, 61, 127, 64, 0, .rne, false, 100⟩] })] }
theorem witness_ports : (∃ P, CycleEventRow ((portS .store).takePlane 61) .accumulatorPortGrant P)
    ∧ (∃ P, CycleEventRow (portS .store) .accumulatorPortGrant P) ∧ (∃ P, CycleEventRow (portS .addF) .accumulatorPortGrant P)
    ∧ ∃ P, CycleEventRow (portS .load) .accumulatorPortGrant P :=
  ⟨⟨_, .portWaits (tile := 0) (plane := 61) rfl rfl rfl (by decide) (by decide)⟩,
    ⟨_, .portWrite (tile := 0) (plane := 61) rfl rfl rfl (by decide) (by decide) (by decide) (by decide)⟩,
    ⟨_, .portWrite (tile := 0) (plane := 61) rfl rfl rfl (by decide) (by decide) (by decide) (by decide)⟩,
    _, .portRead (tile := 0) (plane := 61) rfl rfl rfl (by decide) (by decide) rfl rfl rfl rfl (by decide)⟩
/-- What core 0 keeps of a QSCALE of record n, as `f` changes it. -/
def scaleK (f : ScaleSave → ScaleSave) : ScaleSave :=
  f ⟨1, 0, 2, .i8, 0, true, none, { Outer.idle with pos := { posW with pc := 8 } }, XRegs.zero, 0, [], [], [], [], [], none, []⟩
/-- The request of that QSCALE stands at its home, tile 0. -/
def recW0 : Waiter := ⟨recOff 0, 100, 0, .scale 0 1⟩
def recS (e : Event) (k : ScaleSave) (accum : Mem) (who : Requester) : State :=
  { evS e { coreW with scales := [k], xr := { XRegs.zero with flights := [⟨1, some 114, none, .x 2 0, .none, true⟩] } } with
    accum := accum, waiters := [⟨recOff 0, 100, 0, who⟩] }
theorem witness_cycleRest :
    (∃ P, CycleEventRow (evS (.dramReadReturn 0 0) coreW) .dramReadReturn P) ∧ (∃ P, CycleEventRow (evS .dramRefresh coreW) .dramRefresh P)
    ∧ (∃ P, CycleEventRow (recS (.qscaleResult 0 1) (scaleK id) [] .rescale) .qscaleResult P)
    ∧ (∃ P, CycleEventRow (recS (.qscaleResult 0 1) (scaleK (fun k => { k with refusal := some .albedoFree })) [] .rescale) .qscaleResult P)
    ∧ (∃ P, CycleEventRow (recS (.qscaleResult 0 1) (scaleK (fun k => { k with owed := [(90, .albedoMergeIssue 0 .vqnt ⟨0, 0, 0, 0, 0, 0, []⟩)] })) [] .rescale)
        .qscaleResult P)
    ∧ (∃ P, CycleEventRow (recS (.homeRequest 0 (.rescale 0)) (scaleK id) [] .rescale) .homeRequest P)
    ∧ (∃ P, CycleEventRow (recS (.homeRequest 0 (.qscale 0 2 .i8 0 0 1)) (scaleK id) [(0x3F_001B, 0x80)] (.scale 0 1)) .homeRequest P)
    ∧ (∃ P, CycleEventRow (recS (.homeRequest 0 (.qscale 0 2 .i8 0 0 1)) (scaleK id) [] (.scale 0 1)) .homeRequest P)
    ∧ ∃ P, CycleEventRow (recS (.homeRequest 0 (.qscale 0 2 .i8 0 0 1)) (scaleK (fun k => { k with granted := false })) [] (.scale 0 1)) .homeRequest P :=
  ⟨⟨_, .dramReturn rfl⟩, ⟨_, .refresh⟩, ⟨_, .qscale (k := scaleK id) (f := ⟨1, some 114, none, .x 2 0, .none, true⟩) (v := 0) rfl rfl rfl rfl rfl rfl (by decide)⟩,
    ⟨_, .qscaleTraps rfl rfl rfl rfl rfl rfl (by decide)⟩, ⟨_, .qscaleOwed (core := 0) rfl rfl rfl rfl rfl rfl⟩,
    ⟨_, .rescale (w := ⟨recOff 0, 100, 0, .rescale⟩) rfl (by decide) ⟨rfl, by decide⟩ rfl (by decide) (by decide)⟩,
    ⟨_, .qscaleHome (w := recW0) rfl (by decide) ⟨rfl, by decide⟩ rfl (by decide) rfl rfl rfl rfl rfl rfl rfl (by decide +kernel) rfl rfl ⟨2, 0, rfl⟩⟩,
    ⟨_, .qscaleRefused (w := recW0) (cause := .albedoFree) rfl (by decide) ⟨rfl, by decide⟩ rfl (by decide) rfl rfl rfl rfl rfl
      (.inr ⟨rfl, by decide +kernel⟩)⟩,
    _, .qscaleRefused (w := recW0) rfl (by decide) ⟨rfl, by decide⟩ rfl (by decide) rfl rfl rfl rfl rfl (.inl ⟨rfl, rfl⟩)⟩
def mergeS (e : Event) (n : Nat) : State :=
  { evS e coreW with accum := [(0x3F_001B, 0x80)],
                     tiles := [(0, { Tile.fresh with merges := List.replicate n ⟨0, .vqnt, 90, 100, 0, ⟨0, 5, 0, 0, 0, 0, []⟩⟩ })] }
def mergeE : Event := .albedoMergeIssue 0 .vqnt ⟨0, 0, 0, 0, 0, 0, []⟩
/-- Core 0 waits, in phase 2 of its commit, to initialise record 0, since cycle 80. -/
def initC : Core := { coreW with c := { coreW.c with settle := some 80, held := [.albinit 0 0] } }
theorem witness_merges :
    (∃ P, CycleEventRow (mergeS mergeE 63) .albedoMergeIssue P)
    ∧ (∃ P, CycleEventRow (mergeS mergeE 64) .albedoMergeIssue P)
    ∧ (∃ P, CycleEventRow { mergeS mergeE 0 with fencedR := [0] } .albedoMergeIssue P)
    ∧ (∃ P, CycleEventRow { mergeS (.albedoMergeIssue 0 .vqnt ⟨256, 0, 0, 0, 0, 0, []⟩) 0 with fencedC := [0] } .albedoMergeIssue P)
    ∧ (∃ P, CycleEventRow (mergeS (.albedoMergeApply 0) 1) .albedoMergeApply P)
    ∧ (∃ P, CycleEventRow { mergeS (.albedoMergeApply 0) 1 with cores := [(0, initC)] } .albedoMergeApply P)
    ∧ ∃ P, CycleEventRow { mergeS (.albedoMergeApply 0) 1 with accum := [] } .albedoMergeApply P :=
  ⟨⟨_, .mergeIssue rfl rfl (by decide) (by decide) (by decide)⟩, ⟨_, .mergeWaits rfl rfl (by decide) (by decide) (by decide)⟩,
    ⟨_, .mergeFenced rfl (by decide)⟩, ⟨_, .mergeMuted rfl rfl (by decide) (by decide)⟩,
    ⟨_, .mergeApply rfl rfl (by decide) (by decide) (by decide) (by decide +kernel) (by decide) (by decide) rfl⟩,
    ⟨_, .mergeAfterInit (core := 0) rfl rfl (by decide) (by decide) (by decide) rfl⟩,
    _, .mergeDropped rfl rfl (by decide) (by decide) (by decide) (by decide) rfl⟩

/-- Tile 0 with a matrix array or a copy engine as given, core 0 in it. -/
def mxE (e : Event) (m : Matrix) (c : Core) : State := { evS e c with tiles := [(0, { Tile.fresh with mx := m })] }
def cpE (e : Event) (l : List CCmd) (c : Core) : State := { evS e c with tiles := [(0, { Tile.fresh with cp := ⟨l, Vector.replicate 4 3, 9⟩ })] }
/-- An MZERO of 4 rows of 64 cells in plane 1. -/
def mzeroC : MCmd :=
  { id := 5, core := 0, run := 1, op := .mzero, sa := shp 0 64 4 9, sb := 0, desc := 1, ord := ⟨false, false, .core⟩, hold := false, sq := false,
    part := 0, sup := false, index := 0, issue := 90, rows := 4, cols := 64, spans := [], st := .queued, start := 0, dur := 0, kdone := 0, rowg := 0,
    opA := [], opB := [], posn := [], scales := [], rest := [], blk := 0, watch := [], marked := false, biv := 0, prefA := 0, prefB := 0, failAt := none,
    ret := none }
def mxC (m : MCmd) : Matrix := { Matrix.fresh with runs := [⟨1, 0, 3, 0, true, 50⟩], owner := some 1, gat := 60, cmds := [m] }
theorem witness_lease :
    (∃ P, EngineEventRow (mxE (.leaseGrant 0) { Matrix.fresh with runs := [⟨1, 0, 3, 0, false, 99⟩] } coreW) .leaseGrant P)
    ∧ (∃ P, EngineEventRow (mxE (.leaseGrant 0) { Matrix.fresh with freed := 100 } coreW) .leaseGrant P)
    ∧ ∃ P, EngineEventRow (mxE (.leaseGrant 0) (mxC mzeroC) coreW) .leaseGrant P :=
  ⟨⟨_, .lease (tile := 0) rfl rfl rfl rfl (by decide) (by decide) rfl (by decide)⟩, ⟨_, .leaseEarly rfl (by decide)⟩, _, .leaseTaken rfl (by decide)⟩
/-- An MMA of one k-step, 16 rows and 16 columns of FP8 in plane 1, A and B in the scratchpad; the same with a sparse A. -/
def mmaC : MCmd :=
  { mzeroC with op := .mma .e5m2 false, sa := shp scrBase 8 16 4, sb := shp (scrBase + 0x200) 16 8 4, desc := 2 ^ 20 + 1, rows := 16, cols := 16 }
/-- An MDRAIN of one row of 16 I32 cells; to I8. -/
def drainC : MCmd := { mzeroC with op := .mdrain .plain, sa := shp scrBase 16 1 9, rows := 1, cols := 16 }
def drainI8 : MCmd := { drainC with op := .mdrain .i8, sa := shp scrBase 16 1 6, sb := shp (scrBase + 0x200) 32 1 9 }
theorem witness_matrixStart :
    (∃ P, EngineEventRow (mxE (.matrixCommandStart 0) (mxC { mzeroC with issue := 99 }) coreW) .matrixCommandStart P)
    ∧ (∃ P, EngineEventRow (mxE (.matrixCommandStart 0) (mxC mzeroC) coreW) .matrixCommandStart P)
    ∧ (∃ P, EngineEventRow (mxE (.matrixCommandStart 0) (mxC mmaC) coreW) .matrixCommandStart P)
    ∧ (∃ P, EngineEventRow (mxE (.matrixCommandStart 0) (mxC drainI8) coreW) .matrixCommandStart P)
    ∧ ∃ P, EngineEventRow (mxE (.matrixCommandStart 0) (mxC { mzeroC with ord := ⟨true, false, .core⟩ }) coreW) .matrixCommandStart P :=
  ⟨⟨_, .startLater (c := { mzeroC with issue := 99 }) rfl rfl (by decide)⟩,
    ⟨_, .startZero (c := mzeroC) ⟨rfl, rfl, by decide, by decide, .inl rfl⟩ rfl rfl rfl rfl rfl⟩,
    ⟨_, .startMma (c := mmaC) ⟨rfl, rfl, by decide, by decide, .inl rfl⟩ rfl rfl rfl rfl rfl rfl (by decide +kernel) (by decide +kernel)
      (fun x y hx hy => (by unfold scratchReads; decide +kernel : ∀ x, x < 8 → ∀ y, y < 16 →
        scratchReads (mxE (.matrixCommandStart 0) (mxC mmaC) coreW) 0 mmaC (elemAddr mmaC.sa x y 0 0) (Shape.esz mmaC.sa)) x hx y hy)
      (fun n k hn hk => (by unfold scratchReads; decide +kernel : ∀ n, n < 16 → ∀ k, k < 8 →
        scratchReads (mxE (.matrixCommandStart 0) (mxC mmaC) coreW) 0 mmaC (elemAddr mmaC.sb n k 0 0) (Shape.esz mmaC.sb)) n hn k hk)
      (fun h => Bool.noConfusion h) (fun r _ => rfl)⟩,
    ⟨_, .startDrain (c := drainI8) ⟨rfl, rfl, by decide, by decide, .inl rfl⟩ rfl rfl rfl rfl
      (fun _ => (by unfold scratchReads; decide +kernel : ∀ i, i < 32 →
        scratchReads (mxE (.matrixCommandStart 0) (mxC drainI8) coreW) 0 drainI8 (elemAddr drainI8.sb i 0 0 0) 4))⟩,
    _, .startAcquire (c := { mzeroC with ord := ⟨true, false, .core⟩ }) ⟨rfl, rfl, by decide, by decide, .inl rfl⟩ rfl rfl⟩
def acqV : Waiter := ⟨syncOff 0, 100, 0, .matrix 0⟩
def acqC : MCmd := { mzeroC with st := .acquiring, ord := ⟨true, false, .core⟩ }
def acqS (w : Nat) : State :=
  { mxE (.matrixAcquire 0) (mxC acqC) coreW with accum := Mem.setNum [] 0x3F_8000 8 w, waiters := [acqV] }
theorem witness_matrixAcquire :
    (∃ P, EngineEventRow (acqS 0) .matrixAcquire P)
    ∧ (∃ P, EngineEventRow (acqS 584) .matrixAcquire P)
    ∧ (∃ P, EngineEventRow { acqS 0 with fencedR := [0] } .matrixAcquire P)
    ∧ ∃ P, EngineEventRow (mxE (.matrixCommandStop 0 (Cause.code .destEclipsed) 0 0) (mxC acqC) coreW) .matrixCommandStop P :=
  ⟨⟨_, .acquire (w := 8) (c := acqC) (v := acqV) ⟨rfl, rfl, ⟨rfl, by decide⟩, rfl, rfl, rfl⟩ (by decide +kernel)⟩,
    ⟨_, .acquireWaits (c := acqC) (v := acqV) ⟨rfl, rfl, ⟨rfl, by decide⟩, rfl, rfl, rfl⟩ (by decide +kernel)⟩,
    ⟨_, .acquireRefused (cause := .destEclipsed) (c := acqC) (v := acqV) ⟨rfl, rfl, ⟨rfl, by decide⟩, rfl, rfl, rfl⟩ (by decide +kernel)⟩,
    _, .stopRefused (c := acqC) rfl rfl rfl⟩
/-- A release of the array stands at its object's home. -/
def relC : MCmd := { mzeroC with st := .releasing, ord := ⟨false, true, .core⟩ }
theorem witness_matrixEnds :
    (∃ P, EngineEventRow (mxE (.matrixCommandComplete 0) (mxC { mzeroC with st := .running }) coreW) .matrixCommandComplete P)
    ∧ (∃ P, EngineEventRow (mxE (.matrixCommandComplete 0) (mxC { mmaC with st := .running }) coreW) .matrixCommandComplete P)
    ∧ (∃ P, EngineEventRow (mxE (.matrixCommandStop 0 64 0 0) (mxC { mzeroC with st := .running, failAt := some (64, 8, 0, 0) }) coreW) .matrixCommandStop P)
    ∧ ∃ P, EngineEventRow (mxE (.matrixCommandStop 0 64 3 1) (mxC { mzeroC with st := .running }) coreW) .matrixCommandStop P :=
  ⟨⟨_, .completeZero (tile := 0) (c := { mzeroC with st := .running }) ⟨rfl, rfl, by decide, by decide⟩ rfl rfl rfl rfl rfl (by decide) (by decide)⟩,
    ⟨_, .completeMma (tile := 0) (c := { mmaC with st := .running }) ⟨rfl, rfl, by decide, by decide⟩ rfl rfl rfl rfl rfl (by decide +kernel) (by decide +kernel)⟩,
    ⟨_, .stop (cause := .eccReg) rfl rfl rfl rfl rfl rfl⟩, _, .stopCheck (cause := .eccReg) (c := { mzeroC with st := .running }) rfl rfl rfl rfl (by decide)⟩
theorem witness_drains :
    (∃ P, EngineEventRow (mxE (.matrixCommandComplete 0) (mxC { drainC with st := .running }) coreW) .matrixCommandComplete P)
    ∧ (∃ P, EngineEventRow (mxE (.matrixCommandComplete 0)
        { mxC { drainC with st := .running } with
          cmds := [{ drainC with st := .running }, { drainC with id := 6, core := 1, hold := true, spans := [⟨true, 0, 63⟩] }] } coreW) .matrixCommandComplete P)
    ∧ (∃ P, EngineEventRow (mxE (.matrixCommandComplete 0) (mxC { drainC with st := .running, kdone := 1 }) coreW) .matrixCommandComplete P)
    ∧ (∃ P, EngineEventRow (mxE (.matrixCommandComplete 0) (mxC { drainC with st := .running, kdone := 1, ord := ⟨false, true, .core⟩ }) coreW) .matrixCommandComplete P)
    ∧ ∃ P, EngineEventRow { mxE (.syncAccept (syncOff 0)) (mxC relC) coreW with
        accum := Mem.setNum [] 0x3F_8000 8 8, waiters := [⟨syncOff 0, 100, 0, .matrix 0⟩] } .syncAccept P :=
  ⟨⟨_, .drainRow (tile := 0) (va := scrBase) (r := 0) (c := { drainC with st := .running }) (md := .plain) ⟨rfl, rfl, by decide, by decide⟩ rfl (by decide) rfl
      (by decide) (by decide +kernel) (by decide +kernel) (by decide) (fun j hj => (by decide +kernel : ∀ j, j < 16 →
        elemAddr drainC.sa j 0 0 0 = scrBase + Shape.esz drainC.sa * j) j hj)⟩,
    ⟨_, .drainWaits (tile := 0) (r := 0) (c := { drainC with st := .running }) (md := .plain) ⟨rfl, rfl, by decide, by decide⟩ rfl rfl (by decide)
      (by decide) (by decide +kernel)⟩,
    ⟨_, .drainEnds (tile := 0) (c := { drainC with st := .running, kdone := 1 }) (md := .plain) ⟨rfl, rfl, by decide, by decide⟩ rfl rfl rfl rfl rfl⟩,
    ⟨_, .asksRelease (tile := 0) (c := { drainC with st := .running, kdone := 1, ord := ⟨false, true, .core⟩ }) (md := .plain)
      ⟨rfl, rfl, by decide, by decide⟩ rfl rfl rfl rfl rfl (by decide +kernel) (by decide)⟩,
    _, .released (w := 2 ^ 48) (c := relC) (v := ⟨syncOff 0, 100, 0, .matrix 0⟩) rfl ⟨rfl, by decide⟩ rfl rfl rfl rfl (by decide +kernel) rfl (by decide +kernel)⟩
/-- An MMA of 16 rows and columns that takes scales from q5. -/
def scaleC : MCmd :=
  { mzeroC with op := .mma .t8 false, sa := shp 0 24 16 4, sb := shp 0 16 24 4, desc := 3 * 2 ^ 20, sq := true, rows := 16, cols := 16, st := .running }
theorem witness_scales :
    (∃ P, EngineEventRow (mxE (.scaleQueuePop 0) (mxC scaleC) coreW) .scaleQueuePop P)
    ∧ ∃ P, EngineEventRow (mxE (.scaleQueuePop 0) (mxC scaleC) coreX) .scaleQueuePop P :=
  ⟨⟨_, .scaleWaits (core := 0) (c := scaleC) rfl rfl (by decide +kernel) (by decide +kernel) (by decide) rfl⟩,
    _, .scalePop (core := 0) (c := scaleC) rfl rfl (by decide +kernel) (by decide +kernel) (by decide) rfl rfl (by decide)⟩
theorem witness_copyTakes :
    (∃ P, EngineEventRow (cpE (.copyChannelTake 0 2) [cmdW] coreW) .copyChannelTake P)
    ∧ (∃ P, EngineEventRow (cpE (.copyChannelTake 0 2) [{ cmdW with st := .taken }] coreW) .copyChannelTake P)
    ∧ (∃ P, EngineEventRow (cpE (.copyCommandStart 0 2) [{ cmdW with st := .taken, store := 4 }]
        { coreW with q := { Queues.empty with wr := [⟨3, 3, 110, [], none, none⟩] } }) .copyCommandStart P)
    ∧ (∃ P, EngineEventRow (cpE (.copyCommandStart 0 2) [{ cmdW with st := .taken, ord := ⟨true, false, .core⟩ }] coreW) .copyCommandStart P)
    ∧ ∃ P, EngineEventRow (cpE (.copyCommandStart 0 2) [{ cmdW with st := .taken }] coreW) .copyCommandStart P :=
  ⟨⟨_, .take (ch := 2) rfl rfl rfl rfl (by decide) (by decide) (by decide)⟩, ⟨_, .channelBusy rfl (by rfl)⟩,
    ⟨_, .copyWaits (w := ⟨3, 3, 110, [], none, none⟩) rfl (by rfl) rfl (by decide) (by decide)⟩, ⟨_, .copyAcquires rfl (by rfl) rfl ⟨by decide, by decide, by decide⟩ rfl rfl⟩,
    _, .copyStarts (m := { cmdW with st := .taken }) rfl (by rfl) rfl ⟨by decide, by decide, by decide⟩ rfl rfl (fun _ => rfl)⟩
/-- A copy of one byte of the scratchpad, from offset 0 to offset 64, due in cycle 100; to device memory at 0; a gather of the byte of row 0;
an addition of one I32 to a cell of plane 0, and the sticky bit of FP32 additions that are done. -/
def byteC : CCmd := { cmdW with st := .running, dst := shp (scrBase + 64) 1 1 4, src := shp scrBase 1 1 4, part := 0x100, due := 100 }
def gathC : CCmd := { byteC with op := .cpyg, idx := shp (scrBase + 128) 1 1 9 }
def dramC : CCmd := { byteC with dst := shp 0 1 1 4, pages := [⟨2, 0, some ⟨0, true, 0, 0x5D, 100⟩⟩] }
def addC : CCmd := { byteC with op := .cpyr, dst := shp accBase 1 1 9, src := shp scrBase 1 1 9 }
def flagC : CCmd := { addC with src := shp scrBase 1 1 1, dst := shp accBase 1 1 1, elem := 1, sticky := true }
def cpEv : Event := .copyCommandComplete 0 2
/-- Bytes of the scratchpad are read as they are. -/
theorem readsAs_scr {s : State} {m : CCmd} {check : Option Nat} {va n v o : Nat} (hv : v < 256 ^ n)
    (h : ∀ k, k < n → s.copyPlace m ((va + k) % 2 ^ 64) .read = .ok (.scratch (o + k)) ∧ s.placeEcc (.scratch (o + k)) 1 = none
      ∧ v / 256 ^ k % 256 = ofBytes (s.readPlace (.scratch (o + k)) 1)) : readsAs s m check va n v :=
  ⟨hv, fun k hk => ⟨_, (h k hk).1, (h k hk).2.1, (h k hk).2.2, fun _ _ _ h => by cases h⟩⟩
theorem only_zero {p : Nat → Prop} (h : p 0) : ∀ k, k < 1 → p k := fun k hk => (by omega : 0 = k) ▸ h
theorem witness_copyMoves :
    (∃ P, EngineEventRow (cpE cpEv [{ byteC with due := 0 }] coreW) .copyCommandComplete P)
    ∧ (∃ P, EngineEventRow (cpE cpEv [byteC] coreW) .copyCommandComplete P)
    ∧ (∃ P, EngineEventRow (cpE cpEv [dramC] coreW) .copyCommandComplete P)
    ∧ ∃ P, EngineEventRow (cpE cpEv [gathC] coreW) .copyCommandComplete P :=
  ⟨⟨_, .copyReckons (n := 1) (m := { byteC with due := 0 }) ⟨rfl, by rfl, rfl, rfl, rfl, by decide⟩ rfl (by decide +kernel) rfl ⟨false, false, rfl⟩
      (by decide +kernel) (by decide) (by decide +kernel)⟩,
    ⟨_, .copyBlock (n := 1) (m := byteC) (codes := [0]) (pl := .scratch 64) ⟨⟨rfl, by rfl, rfl, rfl, rfl, by decide⟩, rfl, by decide +kernel, by decide, by decide⟩
      (by decide) rfl rfl (.inr (by decide +kernel)) (by decide +kernel) rfl (by decide +kernel) (by decide +kernel) (by decide +kernel) (by decide +kernel) rfl
      (only_zero ⟨_, rfl, readsAs_scr (o := 0) (by decide +kernel) (by decide +kernel)⟩) (by decide +kernel) (.inl ⟨_, rfl⟩)⟩,
    ⟨_, .copyBlock (n := 1) (m := dramC) (codes := [0]) (pl := .dram 0) ⟨⟨rfl, by rfl, rfl, rfl, rfl, by decide⟩, rfl, by decide +kernel, by decide, by decide⟩
      (by decide) rfl rfl (.inr (by decide +kernel)) (by decide +kernel) rfl (by decide +kernel) (by decide +kernel) (by decide +kernel) (by decide +kernel) rfl
      (only_zero ⟨_, rfl, readsAs_scr (o := 0) (by decide +kernel) (by decide +kernel)⟩) (by decide +kernel) (.inr ⟨_, rfl, by decide⟩)⟩,
    _, .copyBlock (n := 1) (m := gathC) (codes := [0]) (pl := .scratch 64) ⟨⟨rfl, by rfl, rfl, rfl, rfl, by decide⟩, rfl, by decide +kernel, by decide, by decide⟩
      (by decide) rfl rfl (.inl rfl) (by decide +kernel) rfl (by decide +kernel) (by decide +kernel) (by decide +kernel) (by decide +kernel) rfl
      (only_zero ⟨_, ⟨0, readsAs_scr (o := 128) (by decide +kernel) (by decide +kernel), by decide +kernel, rfl⟩,
        readsAs_scr (o := 0) (by decide +kernel) (by decide +kernel)⟩) (by decide +kernel) (.inl ⟨_, rfl⟩)⟩
theorem witness_copyAdds :
    (∃ P, EngineEventRow (cpE cpEv [addC] coreW) .copyCommandComplete P)
    ∧ (∃ P, EngineEventRow ((cpE cpEv [addC] coreW).takePlane 0) .copyCommandComplete P)
    ∧ (∃ P, EngineEventRow (cpE cpEv [flagC] coreW) .copyCommandComplete P)
    ∧ ∃ P, EngineEventRow (cpE cpEv [{ byteC with elem := 1 }] coreW) .copyCommandComplete P :=
  ⟨⟨_, .copyAdds (ch := 2) (n := 1) (m := addC) (codes := [0]) ⟨⟨rfl, by rfl, rfl, rfl, rfl, by decide⟩, rfl, by decide +kernel, by decide, by decide⟩
      rfl (by decide) (by decide +kernel) rfl
      (only_zero ⟨readsAs_scr (o := 0) (by decide +kernel) (by decide +kernel), by decide +kernel, by decide +kernel, by decide +kernel, by decide +kernel⟩)
      (by decide +kernel)⟩,
    ⟨_, .copyPortWaits (ch := 2) (n := 1) (m := addC) (codes := [0]) ⟨⟨rfl, by rfl, rfl, rfl, rfl, by decide⟩, rfl, by decide +kernel, by decide, by decide⟩
      rfl (by decide) (by decide +kernel) rfl (only_zero (readsAs_scr (o := 0) (by decide +kernel) (by decide +kernel))) (by decide +kernel) (by decide +kernel)⟩,
    ⟨_, .copyFlag (ch := 2) (m := flagC) ⟨rfl, by rfl, rfl, rfl, rfl, by decide⟩ rfl (by decide) rfl (by decide +kernel) (by decide +kernel) rfl (by decide +kernel)
      (by decide +kernel) (by decide +kernel)⟩,
    _, .copyEnds (m := { byteC with elem := 1 }) ⟨rfl, by rfl, rfl, rfl, rfl, by decide⟩ rfl rfl (by decide +kernel) rfl⟩
theorem witness_copyStops :
    (∃ P, EngineEventRow (cpE cpEv [{ byteC with src := shp 0 1 1 4 }] coreW) .copyCommandComplete P)
    ∧ (∃ P, EngineEventRow { cpE cpEv [gathC] coreW with scratch := [(128, 1)] } .copyCommandComplete P)
    ∧ ∃ P, EngineEventRow (cpE (.copyCommandStop 0 2 16) [byteC] coreW) .copyCommandStop P :=
  ⟨⟨_, .copyStops (cause := .pageNotPresent) (m := { byteC with src := shp 0 1 1 4 }) (e := 0)
      ⟨⟨rfl, by rfl, rfl, rfl, rfl, by decide⟩, rfl, by decide +kernel, by decide, by decide⟩ rfl (by decide +kernel) (.inl (by decide +kernel)) (by decide)
      (by decide +kernel) (by decide) (.inl rfl) (fun k hk => absurd hk (by omega))⟩,
    ⟨_, .copyIndexStops (m := gathC) (j := 1) ⟨⟨rfl, by rfl, rfl, rfl, rfl, by decide⟩, rfl, by decide +kernel, by decide, by decide⟩ rfl
      (readsAs_scr (o := 128) (by decide +kernel) (by decide +kernel)) (by decide +kernel) rfl (by decide)⟩,
    _, .copyStopsAt (cause := .pageNotPresent) (m := byteC) rfl (by rfl) rfl rfl (by decide)⟩
/-- A release on the way; an acquire and a release at their home, where the object is as given; their replies. -/
def cpV : Waiter := ⟨syncOff 0, 100, 0, .copy 0 2⟩
def cpA (st : CSt) (w : Nat) : State :=
  { cpE (.syncAccept (syncOff 0)) [{ cmdW with st := st, ord := ⟨true, true, .core⟩ }] coreW with
    accum := Mem.setNum [] 0x3F_8000 8 w, waiters := [cpV] }
theorem witness_copySyncs :
    (∃ P, EngineEventRow (cpE (.copyCommandComplete 0 2) [{ byteC with ord := ⟨false, true, .core⟩, elem := 1 }] coreW)
      .copyCommandComplete P)
    ∧ (∃ P, EngineEventRow (cpA .acquiring 0) .syncAccept P) ∧ (∃ P, EngineEventRow (cpA .releasing 8) .syncAccept P)
    ∧ (∃ P, EngineEventRow { cpA .releasing 8 with fencedR := [0] } .syncAccept P)
    ∧ (∃ P, EngineEventRow (cpE (.copyCommandComplete 0 2) [{ cmdW with st := .replying }] coreW) .copyCommandComplete P)
    ∧ ∃ P, EngineEventRow (cpE (.copyCommandStop 0 2 (Cause.code .destEclipsed)) [{ cmdW with st := .replying }] coreW) .copyCommandStop P :=
  ⟨⟨_, .copyReleases (m := { byteC with ord := ⟨false, true, .core⟩, elem := 1 }) ⟨rfl, by rfl, rfl, rfl, rfl, by decide⟩ (by decide) rfl rfl rfl rfl
      (by decide +kernel)⟩,
    ⟨_, .copyAcquired (w := 8) (v := cpV) ⟨rfl, ⟨rfl, by decide⟩, rfl, by rfl, rfl⟩ rfl (by decide +kernel)⟩,
    ⟨_, .copyReleased (w := 2 ^ 48) (v := cpV) ⟨rfl, ⟨rfl, by decide⟩, rfl, by rfl, rfl⟩ rfl (by decide +kernel)⟩,
    ⟨_, .copyRefused (cause := .destEclipsed) (v := cpV) ⟨rfl, ⟨rfl, by decide⟩, rfl, by rfl, rfl⟩ (.inr rfl) (by decide +kernel)⟩,
    ⟨_, .copyReplied rfl (by rfl) rfl⟩, _, .copyStopsRefused (cause := .destEclipsed) rfl (by rfl) rfl (by decide)⟩
def tailE (e : Event) (op : COp) (st : Nat) : State :=
  { cpE e [{ cmdW with op := op, part := 0x200 }] coreW with scratch := Mem.setNum [] (stagingAt 0 0x200) 1 st }
theorem witness_tails :
    (∃ P, EngineEventRow (tailE (.tailCommandAccept 0 2) .tailput 0) .tailCommandAccept P)
    ∧ (∃ P, EngineEventRow (tailE (.tailCommandAccept 0 2) .offload 2) .tailCommandAccept P)
    ∧ (∃ P, EngineEventRow (tailE (.tailCommandAccept 0 2) .recall 4) .tailCommandAccept P)
    ∧ ∃ P, EngineEventRow (cpE (.tailCommandComplete 0 2) [{ cmdW with op := .tailget true, part := 0x200, st := .running }] coreW) .tailCommandComplete P :=
  ⟨⟨_, .tailPut rfl rfl rfl rfl (by decide +kernel)⟩, ⟨_, .tailOffload rfl rfl rfl rfl (by decide +kernel) (by decide +kernel)⟩,
    ⟨_, .tailRecall rfl rfl rfl rfl (by decide +kernel) (by decide +kernel)⟩,
    _, .tailDone (n := 0) rfl (by rfl) (.inr (.inr (.inr ⟨rfl, rfl⟩))) (by decide +kernel)⟩

/-- The set of core 0 alone, aligned. -/
def orbC (aligned : Bool) : Core := { coreW with sys := [(0x63, BitVec.ofNat 64 (0x110000 + b2n aligned * 2 ^ 21))] }
theorem mem_one : tgtCores (orbC false).orbitset = [0] := by decide +kernel
theorem witness_orbits :
    (∃ P, OrbitEventRow (evS (.orbitStop 0) (orbC true)) .orbitStop P) ∧ (∃ P, OrbitEventRow (evS (.orbitStop 0) (orbC false)) .orbitStop P)
    ∧ (∃ P, OrbitEventRow (evS (.orbitResume 0) { orbC true with stopped := true }) .orbitResume P)
    ∧ ∃ P, OrbitEventRow (evS (.orbitAlign 0) (orbC true)) .orbitAlign P :=
  ⟨⟨_, .stop rfl (by decide) (by decide)⟩, ⟨_, .stopped rfl (.inl (by decide))⟩, ⟨_, .resume rfl rfl⟩, _, .align rfl⟩
/-- The C stream stands at a WAITSC of s1. -/
def waitC (v : Word) : Core := { cS [0, v] with imemC := [(2, 0xE000), (3, 0x0A00)] }
theorem witness_waitsc :
    (∃ P, OrbitEventRow (evS (.waitscDone 0) (waitC 100)) .waitscDone P) ∧ ∃ P, OrbitEventRow (evS (.waitscDone 0) (waitC 101)) .waitscDone P :=
  ⟨⟨_, .waited (g := p0) (a := 1) rfl (by decide) rfl rfl (by decide) rfl (by decide)⟩, _, .waitsOn (g := p0) (a := 1) rfl (by decide) rfl rfl (by decide)⟩
theorem witness_arrivals :
    (∃ P, OrbitEventRow (evS (.orbitArrival 0 1 false 5) (orbC false)) .orbitArrival P)
    ∧ (∃ P, OrbitEventRow (evS (.orbitArrival 0 0 false (BitVec.ofNat 64 (orbC false).syzyWord)) { orbC false with sent := true }) .orbitArrival P)
    ∧ (∃ P, OrbitEventRow (evS (.orbitArrival 0 0 false (BitVec.ofNat 64 ((orbC false).syzyWord + 1)))
        { orbC false with sent := true, imemC := [(2, 0xE000)] }) .orbitArrival P)
    ∧ ∃ P, OrbitEventRow (evS (.orbitArrival 0 0 false (BitVec.ofNat 64 ((orbC false).syzyWord + 1)))
        { orbC false with sent := true, mode := .trapped }) .orbitArrival P :=
  ⟨⟨_, .arrives (n := 0) rfl (mem_one.symm ▸ List.mem_singleton.2 rfl : 0 ∈ tgtCores (orbC false).orbitset) (by decide) (by decide)⟩,
    ⟨_, .lastArrives rfl rfl mem_one rfl (by decide +kernel)⟩, ⟨_, .differs rfl rfl mem_one rfl (by decide +kernel) (by decide)⟩,
    _, .differsLater rfl rfl mem_one rfl (by decide +kernel) rfl⟩
def postP : Post := ⟨1, 1, ⟨3, 200, 0, 9⟩, false, none⟩
theorem witness_mail :
    (∃ P, OrbitEventRow (evS (.mailArrival 0 1) { coreW with posts := [postP] }) .mailArrival P)
    ∧ (∃ P, OrbitEventRow (evS (.mailArrival 0 1) coreW) .mailArrival P)
    ∧ (∃ P, OrbitEventRow (evS (.mailAck 0 1) { coreW with posts := [postP] }) .mailAck P)
    ∧ (∃ P, OrbitEventRow (evS (.mailAck 0 1) { coreW with posts := [{ postP with raised := some 90 }] }) .mailAck P)
    ∧ (∃ P, OrbitEventRow (evS (.mailLate 0 1) { coreW with posts := [postP] }) .mailLate P)
    ∧ (∃ P, OrbitEventRow (evS (.mailLate 0 1) { coreW with posts := [{ postP with mail := ⟨3, 117, 0, 9⟩ }] }) .mailLate P)
    ∧ ∃ P, OrbitEventRow (evS (.mailLate 0 1)
        { coreW with posts := [{ postP with mail := ⟨3, 117, 0, 9⟩ }], sys := [(0x50, 1)], c := { coreH.c with pos := { coreH.c.pos with phase := .header } } })
        .mailLate P :=
  ⟨⟨_, .mail (p := postP) rfl rfl (by decide) rfl⟩, ⟨_, .mailGone rfl rfl⟩, ⟨_, .ack (p := postP) rfl rfl rfl⟩,
    ⟨_, .ackLate (p := { postP with raised := some 90 }) rfl rfl rfl⟩, ⟨_, .early (p := postP) rfl rfl (by decide)⟩,
    ⟨_, .late rfl rfl rfl (by decide) rfl (by decide)⟩,
    _, .lateTraps (p := { postP with mail := ⟨3, 117, 0, 9⟩ }) rfl rfl (by decide) rfl (by decide) (by decide) rfl rfl⟩

/-- Record 3 names core 0; its predecessor word is as given; it is in the arm list of die 0, ready or not. The record's overlay of no code
lies at address 0. -/
def armS (e : Event) (img : BitVec 2048) (ready : Option Nat) (c : Core) : State :=
  { evS e c with recs := [(3, { Rec.fresh with img := 1#2048 <<< 80 ||| img })], dies := [(0, { Die.fresh with arms := [⟨3, 60, ready, 0, []⟩] })] }
def freeC : Core := { Core.fresh with ctlb := [⟨0, true, 0, 0x5D, 100⟩] }
theorem witness_recordStart : ∃ P, LaunchEventRow (armS (.recordStart 3) 0 (some 90) freeC) .recordStart P :=
  ⟨_, .start (plan := [(0, 0, 0)]) (alb := 0)
    (ovs := [(⟨0, 0, 0, 0, 0, [(0, .dram 0)], (armS (.recordStart 3) 0 (some 90) freeC).accessTime 0 (.dram 0) + 128⟩,
      ⟨[(2, .dram 0)], [⟨0, true, 0, 0x5D, 100⟩], 0, false⟩)]) rfl (by decide +kernel) (by decide +kernel) (by decide +kernel) rfl⟩
theorem witness_recordFails : ∃ P, LaunchEventRow (armS (.recordStart 3) 0 (some 90) Core.fresh) .recordStart P :=
  ⟨_, .startFails (plan := [(0, 0, 0)]) (alb := 0) (cause := .pageNotPresent) (i0 := 0) (i1 := 1) (p := ⟨[], [], 85, true⟩) rfl (by decide +kernel) (by decide +kernel) (by decide +kernel)⟩
/-- START 50, and a predecessor that is not DONE. -/
theorem witness_timed : (∃ P, LaunchEventRow (armS (.startTimeReached 3) (50#2048 <<< 256) none coreW) .startTimeReached P)
    ∧ ∃ P, LaunchEventRow (armS (.startTimeReached 3) (50#2048 <<< 256 ||| 0x8005#2048 <<< 320) none coreW) .startTimeReached P :=
  ⟨⟨_, .timed rfl (by decide +kernel) (by decide +kernel)⟩, _, .timedFails rfl (by decide +kernel) (by decide +kernel)⟩
theorem witness_age : ∃ P, LaunchEventRow { armS (.priorityAge 3) 0 (some 90) coreW with now := 90 + 2 ^ 20 } .priorityAge P :=
  ⟨_, .age (a := ⟨3, 60, some 90, 0, []⟩) (k := 90) rfl rfl rfl rfl rfl⟩
theorem witness_child :
    (∃ P, LaunchEventRow { evS (.childQueueMove 2) coreW with dies := [(2, { Die.fresh with childq := [8192] })] } .childQueueMove P)
    ∧ ∃ P, LaunchEventRow { evS (.childQueueMove 2) coreW with
        dies := [(2, { Die.fresh with arms := List.replicate 1024 ⟨8192, 0, none, 0, []⟩ })] } .childQueueMove P :=
  ⟨⟨_, .child rfl rfl (by decide)⟩, _, .childWaits rfl (by decide +kernel)⟩
def ovlO : Overlay := ⟨0, 0, 0, 0, 0, [(0, .dram 0)], 130⟩
def loadC (f : Core → Core) : Core := f { coreW with mode := .loading, load := some ovlO }
theorem witness_loads2 :
    (∃ P, LaunchEventRow (evS (.overlayLoadDone 0) (loadC id)) .overlayLoadDone P)
    ∧ ∃ P, LaunchEventRow (evS (.overlayLoadDone 0) (loadC (fun c => { c with frame := some c.saved }))) .overlayLoadDone P :=
  ⟨⟨_, .loaded rfl rfl rfl rfl (by decide) rfl (by decide) (by decide +kernel)⟩, _, .handler rfl rfl rfl rfl (by decide) (by decide +kernel)⟩
/-- The first line after the header holds an uncorrectable error. -/
theorem witness_loadsBad :
    (∃ P, LaunchEventRow { evS (.overlayLoadDone 0) (loadC id) with badDram := [1] } .overlayLoadDone P)
    ∧ ∃ P, LaunchEventRow { evS (.overlayLoadDone 0) (loadC (fun c => { c with frame := some c.saved })) with badDram := [1] } .overlayLoadDone P :=
  ⟨⟨_, .loadedBad rfl rfl rfl rfl (by decide) (by decide +kernel)⟩, _, .handlerBad rfl rfl rfl rfl (by decide) (by decide +kernel)⟩
/-- No page table: no address leads anywhere. -/
theorem no_tables (s : State) (hd : s.dram = []) (hp : (s.tile 0).pgroot = 0) (hl : s.lines = []) (hb : s.badDram = []) (off : Nat)
    (acc : Access) : s.savePlace 0 off acc = none := by
  have hn (a : Nat) : Mem.num [] a 8 = 0 := by
    unfold Mem.num Mem.bytes
    have (l : List Nat) : leNat (l.map (fun k => Mem.byte [] (a + k))) = 0 := by
      induction l with
      | nil => rfl
      | cons x l ih => rw [List.map_cons]; unfold leNat; rw [ih]; rfl
    exact this _
  have hw (va : Nat) : ∃ t, walkFrom s (tileOf 0) va 3 1 (s.tile (tileOf 0)).root = (.error ⟨.pageNotPresent, 1, false⟩, t) := by
    rw [show s.tile (tileOf 0) = s.tile 0 from rfl]
    unfold walkFrom Tile.root
    rw [hp, hd, hn]
    refine ⟨columnTime (tileOf 0) (columnOf (field (BitVec.toNat (0 : Word)) 16 32 * 0x1_0000)), ?_⟩
    have he (a : Nat) (ha : a < 0x1_0000) : s.placeEcc (.dram a) 8 = none := by
      unfold State.placeEcc State.lineMeta
      rw [hl, hb]
      have hm : metaDefault (a / 128) = ⟨true, zeroCrc, 0, 0, 8⟩ := by
        unfold metaDefault
        rw [decide_eq_false (p := apertureBase / 128 ≤ a / 128) (by have : 512 ≤ apertureBase / 128 := (by decide); omega)]
        rfl
      have hn : (Map.get (metaDefault (a / 128)) [] (a / 128)).plain = true := by
        show (metaDefault (a / 128)).plain = true
        rw [hm]; decide
      exact if_neg (by rw [hn]; simp)
    rw [if_neg (by decide), he _ (by show 0 + 8 * field va 42 13 < _; have : field va 42 13 < 2 ^ 13 := Nat.mod_lt _ (by decide); omega), if_neg (by decide)]
    exact if_pos (by decide)
  obtain ⟨t, ht⟩ := hw (((s.core 0).sysReg 5).toNat + off)
  have hr : ∃ f, (s.translate (tileOf 0) true [] (((s.core 0).sysReg 5).toNat + off) acc false).res = .error f := by
    unfold State.translate
    simp only [List.find?_nil, ht]
    split <;> exact ⟨_, rfl⟩
  obtain ⟨f, hf⟩ := hr
  unfold State.savePlace
  simp only [hf]
theorem witness_return : ∃ P, LaunchEventRow (evS (.overlayLoadDone 0)
    { loadC id with frame := some coreW.saved, sys := [(7, 3)], c := { coreW.c with pos := { posW with phase := .boundary, exit := some .rft } } }) .overlayLoadDone P :=
  ⟨_,  .returned rfl rfl rfl rfl (by decide) rfl rfl rfl (by decide +kernel) (fun off acc => no_tables _ rfl rfl rfl rfl off acc) rfl rfl⟩
/-- A stream at its task boundary, the outer streams idle. -/
def bndC (e : ExitTo) (f : CStream → CStream) : Core :=
  { coreW with ao := Outer.idle, xo := Outer.idle, c := f { coreW.c with pos := { posW with phase := .boundary, exit := some e } } }
theorem witness_boundaries :
    (∃ P, LaunchEventRow (evS (.taskBoundary 0) (bndC .finish id)) .taskBoundary P)
    ∧ (∃ P, LaunchEventRow (evS (.taskBoundary 0) (bndC (.overlay 0) (fun c => { c with ovl := some ovlO }))) .taskBoundary P)
    ∧ (∃ P, LaunchEventRow (evS (.taskBoundary 0) { bndC .finish id with xo := coreW.xo }) .taskBoundary P)
    ∧ ∃ P, LaunchEventRow (evS (.contextEnd 0) (bndC .finish id)) .contextEnd P :=
  ⟨⟨_, .boundaryEnd rfl rfl rfl (by decide) (by decide) rfl rfl (by decide)⟩,
    ⟨_, .boundaryNext (o := ovlO) rfl rfl rfl (by decide) (by decide) rfl rfl (by decide) rfl⟩,
    ⟨_, .boundaryWaits rfl rfl rfl (.inl (by decide))⟩, _, .ends rfl rfl rfl rfl rfl rfl rfl⟩
theorem witness_allotments : (∃ P, LaunchEventRow (evS (.allotmentReturn 0) { coreW with mode := .ended }) .allotmentReturn P)
    ∧ ∃ P, LaunchEventRow (cpE (.allotmentReturn 0) [cmdW] { coreW with mode := .ended }) .allotmentReturn P :=
  ⟨⟨_, .returns rfl rfl (by decide)⟩, _, .returnsLater rfl rfl (by decide)⟩

def trapQ : TrapReq := ⟨0, 0, 0, .align, 0, 5, 6⟩
theorem witness_traps :
    (∃ P, TrapEventRow (evS (.trapDelivery 0) { coreW with traps := [⟨0, 2, 3, .eccReg, 0, 0, 0⟩, trapQ, ⟨1, 0, 0, .align, 0, 0, 0⟩], q := { Queues.empty with wr := [⟨3, 3, 110, [], none, none⟩] } }) .trapDelivery P)
    ∧ (∃ P, TrapEventRow (evS (.trapDelivery 0) { coreW with mode := .trapped, q := { Queues.empty with wr := [⟨3, 3, 110, [], none, none⟩] } }) .trapDelivery P)
    ∧ (∃ P, TrapEventRow (evS (.trapDelivery 0) { coreH with mode := .trapped }) .trapDelivery P)
    ∧ ∃ P, TrapEventRow (evS (.trapDelivery 0) { sup coreW with traps := [trapQ], frame := some coreW.saved }) .trapDelivery P :=
  ⟨⟨_, .taken (q := trapQ) (others := [⟨0, 2, 3, .eccReg, 0, 0, 0⟩, ⟨1, 0, 0, .align, 0, 0, 0⟩]) rfl
      ⟨[⟨0, 2, 3, .eccReg, 0, 0, 0⟩], [⟨1, 0, 0, .align, 0, 0, 0⟩], rfl, rfl, by decide, by decide⟩ rfl (by decide) rfl rfl (by decide) (by decide) rfl rfl (by decide)⟩, ⟨_, .waitsQuiet rfl rfl rfl (by decide)⟩,
    ⟨_, .toDmc rfl rfl rfl (by decide) rfl (fun off => no_tables _ rfl rfl rfl rfl off _)⟩, _, .double (q := trapQ) rfl rfl rfl (by decide) rfl (by decide) (by decide)⟩
theorem witness_watch :
    (∃ P, TrapEventRow (evS (.debugBreak ⟨0, .c⟩) coreW) .debugBreak P) ∧ (∃ P, TrapEventRow (evS (.safeptLate 0) coreW) .safeptLate P)
    ∧ (∃ P, TrapEventRow (evS (.watchdog 0) { coreW with wd := ⟨2 ^ 28, 0, false⟩ }) .watchdog P)
    ∧ (∃ P, TrapEventRow (evS (.watchdog 0) coreW) .watchdog P) ∧ ∃ P, TrapEventRow (evS (.watchdog 0) Core.fresh) .watchdog P :=
  ⟨⟨_, .debug rfl rfl⟩, ⟨_, .safept rfl⟩, ⟨_, .watch rfl rfl (by decide)⟩, ⟨_, .watchLater rfl rfl (by decide)⟩, _, .watchFree rfl rfl⟩
def saveV : Save := ⟨1, 0, 63, { coreW with lr := some 3 }, [], [], [], []⟩
theorem witness_preempt :
    (∃ P, TrapEventRow (evS (.preemptRequest 0) { coreW with lr := some 3 }) .preemptRequest P) ∧ (∃ P, TrapEventRow (evS (.preemptRequest 0) coreW) .preemptRequest P)
    ∧ (∃ P, TrapEventRow (evS (.orbitSave 0) { coreH with mode := .saving, lr := some 3 }) .orbitSave P)
    ∧ (∃ P, TrapEventRow (evS (.orbitSave 0) { coreF 0 false with mode := .saving }) .orbitSave P)
    ∧ (∃ P, TrapEventRow (evS (.contextRestore 0 1) coreW) .contextRestore P)
    ∧ ∃ P, TrapEventRow { evS (.contextRestore 0 1) Core.fresh with saves := [saveV] } .contextRestore P :=
  ⟨⟨_, .preempt (r := 3) rfl (by decide) rfl⟩, ⟨_, .preemptFree rfl (by decide) rfl⟩, ⟨_, .save rfl (by decide) rfl (by decide) rfl (by decide) (fun off => no_tables _ rfl rfl rfl rfl off _)⟩,
    ⟨_, .saveWaits rfl (by decide) rfl (by decide)⟩, ⟨_, .restoreWaits rfl (by decide)⟩, _, .restore (v := saveV) rfl rfl rfl rfl rfl rfl rfl rfl rfl rfl (by decide)⟩

theorem witness_lines :
    (∃ P, TileEventRow (evS (.lineAccess ⟨127, [some 1], none, none⟩) coreW) .lineAccess P)
    ∧ ∃ P, TileEventRow (evS (.lineAccess ⟨128, [], none, none⟩) coreW) .lineAccess P :=
  ⟨⟨_, .line (r := ⟨127, [some 1], none, none⟩) rfl (by decide) (by decide) (by decide) (by decide) (by decide)⟩,
    _, .lineRead (r := ⟨128, [], none, none⟩) rfl (by decide) rfl⟩
/-- Die 0 has index blocks; the kind of unit 0 is as given. -/
def homeS (e : Event) (kind : Nat) : State :=
  { evS e coreW with dies := [(0, { Die.fresh with cmpcfg := 512 + 2 ^ 48 })], dram := Mem.setNum [] 2048 1 kind }
theorem witness_homes :
    (∃ P, TileEventRow (homeS (.homeCreate 0 2) 0) .homeCreate P) ∧ (∃ P, TileEventRow (homeS (.homeCreate (2 ^ 30) 1) 0) .homeCreate P)
    ∧ ∃ P, TileEventRow (homeS (.homeRelease 0) 2) .homeRelease P :=
  ⟨⟨_, .home rfl (by decide) (by decide +kernel) (by decide) (by decide)⟩, ⟨_, .homeNever rfl (by decide)⟩,
    _, .homeGone rfl (by decide) (by decide +kernel)⟩
theorem witness_invalidations :
    (∃ P, TileEventRow { evS (.tlbinvGo 0) coreT with dies := [(0, { Die.fresh with tlbinv := 3 * 2 ^ 126 })] } .tlbinvGo P)
    ∧ ∃ P, TileEventRow { evS (.tlbinvComplete 0) coreT with dies := [(0, { Die.fresh with tlbinv := 3 * 2 ^ 126, inval := [(0, 1, false, false)] })] } .tlbinvComplete P :=
  ⟨⟨_, .inval (k := 0) (n := 0) (c := coreT) rfl (by decide +kernel) rfl (by decide +kernel)⟩,
    _, .invalDone (k := 0) rfl (by decide +kernel) (by decide +kernel) (by decide) (by decide +kernel)⟩
def beatB (kind : Nat) (acc : Nat) (tile : Nat) : Beat := ⟨tile, kind, 5, acc, 0, 0, 0, 0, 0, true⟩
/-- Tile 0 with a port to tile 1 as given. -/
def portT (fence : Nat) : Tile := { Tile.fresh with hb := { Hbu.fresh with nbr := Vector.replicate 4 { Nbr.fresh with fence := fence } } }
theorem flit_beat : beatOfFlit (beatFlit (beatB 1 0 1)) = beatB 1 0 1 ∧ beatOfFlit (beatFlit (beatB 3 2 7)) = beatB 3 2 7 := by decide +kernel
theorem flit_bad : (beatOfFlit (beatFlit (beatB 3 2 7) + 2 ^ 120)).crcOk = false ∧ (beatOfFlit (beatFlit (beatB 3 2 7) + 2 ^ 120)).kind = 3 := by decide +kernel
/-- 17 R359: a beat read from its 64-byte flit is the beat, with every field at a value that shows its place. -/
theorem test_beat_flit : beatOfFlit (beatFlit ⟨0x85, 1, 0x1234, 0x98, 0x9, 5, 0x41, 0x1_0003, 0x8000_0000_0000_0001, true⟩)
    = ⟨0x85, 1, 0x1234, 0x98, 0x9, 5, 0x41, 0x1_0003, 0x8000_0000_0000_0001, true⟩ := by decide +kernel
theorem witness_beats :
    (∃ P, TileEventRow (evS (.beatSend 0) coreW) .beatSend P)
    ∧ (∃ P, TileEventRow (evS (.beatReceive 0 0 (beatFlit (beatB 1 0 1))) coreW) .beatReceive P)
    ∧ (∃ P, TileEventRow (evS (.beatReceive 0 0 (beatFlit (beatB 3 2 7))) coreW) .beatReceive P)
    ∧ (∃ P, TileEventRow (evS (.beatReceive 0 0 (beatFlit (beatB 3 2 7) + 2 ^ 120)) coreW) .beatReceive P)
    ∧ (∃ P, TileEventRow { evS (.beatReceive 0 0 (beatFlit (beatB 3 2 7))) coreW with tiles := [(0, portT 2)] } .beatReceive P)
    ∧ ∃ P, TileEventRow { evS (.beatReceive 0 0 (beatFlit (beatB 3 2 7))) coreW with now := 2048 } .beatReceive P :=
  ⟨⟨_, .beat (k := 0) (d := 0) (u := 1) rfl (by decide) (by decide) (by decide)⟩,
    ⟨_, .beatIn (d := 0) rfl flit_beat.1 (by decide) rfl (by decide) rfl (by decide) (by decide)⟩,
    ⟨_, .vote (d := 0) rfl flit_beat.2 (by decide) rfl (by decide) rfl (by decide)⟩,
    ⟨_, .voteBad (d := 0) rfl rfl (by decide) flit_bad.2 (by decide) flit_bad.1⟩,
    ⟨_, .beatDropped (d := 0) rfl (by decide) (by rw [flit_beat.2]; decide)⟩, _, .beatLate (d := 0) rfl (by decide) (by decide)⟩
/-- Where no beat accuses or lifts, nobody is eclipsed or readmitted. -/
theorem saying_none (known : List Beat) (ms : List Nat) (u : Nat) (p : Beat → Nat → Bool) (h : ∀ b ∈ known, ∀ d, p b d = false) :
    saying known ms u p = [] := by
  unfold saying
  rw [List.filter_eq_nil_iff]
  intro m _
  cases dirTo m u with
  | none => simp
  | some d =>
    simp only [List.any_eq_true, Bool.and_eq_true, not_exists, not_and]
    intro b hb _
    rw [h b hb d]
    simp
theorem quorum_none (l : List Nat) : quorum [] l = false := by unfold quorum; simp
theorem verdict_none (s : State) (known : List Beat) (u : Nat) (h : ∀ b ∈ known, b.acc = 0) : s.verdict known u = 0 := by
  have ha : ∀ b ∈ known, ∀ d, accuses b d = false := fun b hb d => by unfold accuses; rw [h b hb]; simp
  unfold State.verdict
  simp [saying_none known _ _ _ ha, quorum_none]
theorem readmits_none (s : State) (known : List Beat) (u : Nat) (h : ∀ b ∈ known, b.lift = 0) : s.readmits known u = false := by
  unfold State.readmits
  rw [saying_none known _ _ _ (fun b hb d => by unfold lifts bitOf; rw [h b hb]; simp), quorum_none]
theorem known_fresh (s : State) (k : Nat) (h : s.tile k = Tile.fresh) : ∀ b ∈ s.known k, b.acc = 0 ∧ b.lift = 0 := by
  unfold State.known State.beatOf State.hb
  rw [h]
  intro b hb
  have hn : Tile.fresh.hb.votes ++ Tile.fresh.hb.nbr.toList.flatMap (fun n => n.beats.filter (fun b => b.crcOk)) = [] := by decide
  simp only [hn, List.mem_singleton] at hb
  rw [hb]
  exact ⟨(by decide : Tile.fresh.hb.acc = 0), (by decide : Tile.fresh.hb.lift = 0)⟩
theorem witness_judge : ∃ P, TileEventRow (evS .judgePoint coreW) .judgePoint P :=
  ⟨_, .judge (fun k u => ⟨verdict_none _ _ u (fun b hb => (known_fresh _ k rfl b hb).1), readmits_none _ _ u (fun b hb => (known_fresh _ k rfl b hb).2)⟩)⟩
/-- Tile 0 has the votes of tiles 2 and 17 against tile 1. -/
def fenceS : State :=
  { evS .judgePoint coreW with tiles := [(0, { Tile.fresh with hb := { Hbu.fresh with votes := [beatB 3 32 2, beatB 3 128 17] } })] }
theorem fenceS_tile (k : Nat) (h : k ≠ 0) : fenceS.tile k = Tile.fresh := by
  unfold State.tile
  show Map.get Tile.fresh [(0, _)] k = Tile.fresh
  unfold Map.get
  rw [if_neg (Ne.symm h)]
  rfl
theorem fenceS_lift (k : Nat) : ∀ b ∈ fenceS.known k, b.lift = 0 := by
  by_cases h : k = 0
  · rw [h]; decide
  · exact fun b hb => (known_fresh _ k (fenceS_tile k h) b hb).2
theorem witness_fence : ∃ P, TileEventRow fenceS .judgePoint P :=
  ⟨_, .fence (k := 0) (d := 0) (u := 1) (by decide) (by decide) (by decide) (by decide) (by decide) (by decide +kernel)
    (fun j => by
      by_cases h : j = 0
      · rw [h]; decide +kernel
      · exact verdict_none _ _ _ (fun b hb => (known_fresh _ j (fenceS_tile j h) b hb).1))
    (fun j v => readmits_none _ _ v (fenceS_lift j)) (by decide)⟩
/-- A load of core 0 has data on the way from tile 1. -/
def cutC : Core := { coreW with c := { coreW.c with air := [(1, 150)] } }
theorem witness_fenceCuts : ∃ P, TileEventRow { fenceS with cores := [(0, cutC)] } .judgePoint P :=
  ⟨_, .fenceCuts (k := 0) (d := 0) (u := 1) (n := 0) (till := 150) (c := cutC) (by decide) (by decide) (by decide) (by decide) (by decide) (by decide)
    (by decide +kernel)
    (fun j => by
      by_cases h : j = 0
      · rw [h]; decide +kernel
      · exact verdict_none _ _ _ (fun b hb => (known_fresh _ j (fenceS_tile j h) b hb).1))
    (fun j v => readmits_none _ _ v (fenceS_lift j)) rfl rfl (by decide) rfl⟩
theorem witness_notice : ∃ P, TileEventRow { evS (.fenceNotice 0 5 2 9) coreW with dies := [(3, { Die.fresh with notices := [.fence 5 2 9] })] } .fenceNotice P :=
  ⟨_, .notice rfl ⟨3, by decide, by decide⟩⟩
def flitF (sender : Option FlitSender) : Flit := ⟨0, 0, 7, .core, true, sender, 9, false⟩
def hbT (h : Hbu) : Tile := { Tile.fresh with hb := h }
theorem witness_flits :
    (∃ P, TileEventRow { evS (.fabricFlitArrival (flitF none)) coreW with tiles := [(0, hbT { Hbu.fresh with nbr := Vector.replicate 4 { Nbr.fresh with fence := 2 } })] }
      .fabricFlitArrival P)
    ∧ ∃ P, TileEventRow { evS (.fabricFlitArrival (flitF (some (.run 0)))) (cPh .commit1 id) with fencedR := [9] } .fabricFlitArrival P :=
  ⟨⟨_, .flitDropped (d := 0) rfl rfl rfl rfl (by decide)⟩, _, .flitReturned (core := 0) rfl rfl (by decide) rfl⟩
theorem witness_selfTests :
    (∃ P, TileEventRow { evS (.selfTestDone 0 5) coreW with tiles := [(0, hbT { Hbu.fresh with self := 1, appeals := 2 })] } .selfTestDone P)
    ∧ (∃ P, TileEventRow { evS (.selfTestDone 0 5) coreW with tiles := [(0, hbT { Hbu.fresh with self := 1, appeals := 3 })] } .selfTestDone P)
    ∧ ∃ P, TileEventRow (evS (.selfTestDone 0 5) coreW) .selfTestDone P :=
  ⟨⟨_, .selfTest rfl (by decide) (by decide)⟩, ⟨_, .selfTestSpent rfl (by decide) (by decide)⟩, _, .selfTestNone rfl (by decide)⟩
theorem witness_scores :
    (∃ P, TileEventRow (evS (.suspctlInc 0 5 255) coreW) .suspctlInc P) ∧ (∃ P, TileEventRow (evS (.suspctlInc 0 6 1) coreW) .suspctlInc P)
    ∧ (∃ P, TileEventRow (evS (.suspctlClrq 0 5) coreW) .suspctlClrq P) ∧ (∃ P, TileEventRow (evS (.suspcfgWrite 0 0) coreW) .suspcfgWrite P)
    ∧ ∃ P, TileEventRow { evS .scoreDecay coreW with tiles := [(3, Tile.fresh)] } .scoreDecay P :=
  ⟨⟨_, .score (u := 5) rfl⟩, ⟨_, .noUnit rfl (by decide)⟩, ⟨_, .clear (u := 5) rfl⟩, ⟨_, .threshold rfl⟩, _, .decay rfl rfl⟩

theorem witness_hostMemory :
    (∃ P, HostEventRow (evS (.hostRequest ⟨.memory, 0, false, 0, 128, []⟩) coreW) .hostRequest P)
    ∧ (∃ P, HostEventRow (evS (.hostRequest ⟨.memory, 0, true, 127, 0, [5]⟩) coreW) .hostRequest P)
    ∧ ∃ P, HostEventRow (homeS (.hostRequest ⟨.memory, 0, false, 0, 128, []⟩) 1) .hostRequest P :=
  ⟨⟨_, .read (a := 0) (n := 128) rfl rfl (by decide) (by decide) (by decide) (by decide) (by decide) rfl rfl⟩,
    ⟨_, .write (a := 127) rfl rfl (by decide) (by decide) (by decide) (by decide) (by decide) rfl rfl⟩,
    _, .abort (a := 0) (n := 128) rfl rfl (by decide) (by decide) (by decide) (by decide +kernel) (by decide) rfl rfl rfl⟩
theorem witness_registers :
    (∃ v P, HostEventRow (evS (.hostRegisterWrite 0 (registerBase + 0x4_0000_0000) v) coreW) .hostRegisterWrite P)
    ∧ ∃ v P, HostEventRow (evS (.hostRegisterWrite 257 (2 ^ 48 + 1023 * 2 ^ 12 + 8 * 5) v) coreW) .hostRegisterWrite P :=
  ⟨⟨5, _, .register rfl rfl⟩, 5, _, .saveVa (core := 1023) rfl (by decide)⟩
/-- Queue 7 with an entry at host address 2^47 that names record 3, PATCHED or not. -/
def queueS (e : Event) (img : BitVec 2048) (w : WorkQueue) : State :=
  { evS e coreW with wqs := [(7, w)], recs := [(3, { Rec.fresh with img := img })], dram := [(hostBase, 3)] }
def queueW : WorkQueue := { WorkQueue.fresh with base := hostBase, log := 4, sub := 16 }
theorem witness_workQueues :
    (∃ P, HostEventRow (queueS (.workQueueSubmit 0 7 16) 0 queueW) .workQueueSubmit P)
    ∧ (∃ P, HostEventRow (queueS (.workQueueEntryArm 7) (1 ||| 1#2048 <<< 80) queueW) .workQueueEntryArm P)
    ∧ (∃ P, HostEventRow (queueS (.workQueueEntryArm 7) 3 queueW) .workQueueEntryArm P)
    ∧ (∃ P, HostEventRow (queueS (.workQueueEntryArm 7) 0 { queueW with stop := true }) .workQueueEntryArm P)
    ∧ ∃ P, HostEventRow (queueS (.workQueueResume 7) 0 { queueW with stop := true }) .workQueueResume P :=
  ⟨⟨_, .submit rfl⟩,
    ⟨_, .arm (q := 7) (e := 3) rfl rfl (by decide) (by decide) (by decide) (by decide +kernel) (by decide) (by decide +kernel) (by decide +kernel)⟩,
    ⟨_, .stops (q := 7) (e := 3) (c := .launchRecordBusy) rfl rfl (by decide) (by decide) (by decide) (by decide +kernel) (by decide) (by decide) (by decide +kernel)
      (by decide)⟩, ⟨_, .empty rfl (.inl rfl)⟩, _, .resume rfl⟩
/-- Queue 7 is the first function's; a core's request waits at record 3; record 3 has finished. -/
theorem witness_entries :
    (∃ P, HostEventRow { queueS (.workQueueEntryArm 7) 1 queueW with pkg := { Package.fresh with vfres := [(0, 100 * 2 ^ 10)] } } .workQueueEntryArm P)
    ∧ ∃ P, HostEventRow { queueS (.workQueueEntryArm 7) 1 queueW with waiters := [⟨2 ^ 30 + 3, 90, 5, .run 5⟩] } .workQueueEntryArm P :=
  ⟨⟨_, .foreign (q := 7) (e := 3) rfl rfl (by decide) (by decide) (by decide) (by decide +kernel) (by decide +kernel)⟩,
    _, .entryWaits (q := 7) (e := 3) rfl rfl (by decide) (by decide) (by decide) (by decide +kernel) (by decide) (by decide) (by decide)⟩
theorem witness_recordWrites :
    (∃ P, HostEventRow { queueS (.hostRegisterWrite 257 (registerBase + 0x3_0000_0300) 0) 0 queueW with recs := [(3, { Rec.fresh with img := 5, effect := true })] }
      .hostRegisterWrite P)
    ∧ ∃ P, HostEventRow (queueS (.hostRegisterWrite 0 (registerBase + 0x3_0000_0300) 2) 4 queueW) .hostRegisterWrite P :=
  ⟨⟨_, .noRollback (r := 3) rfl (by decide) (by decide) (by decide +kernel) rfl⟩,
    _, .hostArms (r := 3) rfl (by decide) rfl rfl rfl (by decide) (by decide +kernel) (by decide)⟩
theorem witness_vectors :
    (∃ P, HostEventRow (queueS (.msixHoldoffEnd 7) 0 { queueW with hold := 100, owed := true }) .msixHoldoffEnd P)
    ∧ ∃ P, HostEventRow (queueS (.msixHoldoffEnd 7) 0 queueW) .msixHoldoffEnd P :=
  ⟨⟨_, .vector rfl (by decide) rfl⟩, _, .noVector rfl rfl⟩
theorem witness_spans :
    (∃ P, HostEventRow (evS (.spanFlitReceive ⟨0, false, 0, [], 0, none, none⟩) coreW) .spanFlitReceive P)
    ∧ (∃ P, HostEventRow (evS (.spanFlitReceive ⟨0, true, 0, [], 0, some (false, 64, 5), none⟩) coreW) .spanFlitReceive P)
    ∧ (∃ P, HostEventRow (evS (.spanFlitReceive ⟨0, true, 0, [], 0, none, some 64⟩) coreW) .spanFlitReceive P)
    ∧ (∃ P, HostEventRow (evS (.spanFlitReceive ⟨0, true, 126, [1, 2], 9, none, none⟩) coreW) .spanFlitReceive P)
    ∧ ∃ P, HostEventRow (evS (.spanLinkState 31 true) coreW) .spanLinkState P :=
  ⟨⟨_, .badFlit rfl rfl⟩, ⟨_, .addFlit rfl rfl rfl rfl (by decide)⟩, ⟨_, .flagFlit rfl rfl rfl (by decide)⟩,
    ⟨_, .writeFlit (f := ⟨0, true, 126, [1, 2], 9, none, none⟩) rfl rfl rfl rfl (by decide) (by decide) (by decide) (by decide) (by decide)⟩,
    _, .link rfl (by decide)⟩
/-- 01 R20: link 13 is attached to tile (15, 10). -/
theorem test_span_tile : spanTile 13 = 10 * 16 + 15 := by decide
def goP : Package := { Package.fresh with go := true, fails := 2, keep := true }
theorem witness_startEvents :
    (∃ P, HostEventRow (evS .powerOn coreW) .powerOn P) ∧ (∃ P, HostEventRow (evS .coldStart coreW) .coldStart P)
    ∧ (∃ P, HostEventRow { evS .warmStart coreW with pkg := goP } .warmStart P)
    ∧ (∃ P, HostEventRow { evS (.startComplete true) coreW with pkg := goP } .startComplete P)
    ∧ (∃ P, HostEventRow { evS (.startComplete false) coreW with pkg := goP } .startComplete P)
    ∧ (∃ P, HostEventRow (evS (.startComplete false) coreW) .startComplete P) ∧ (∃ P, HostEventRow (evS (.pwrcapWrite 1200) coreW) .pwrcapWrite P)
    ∧ ∃ P, HostEventRow (evS (.arithmeticClockStep false) coreW) .arithmeticClockStep P :=
  ⟨⟨_, .power rfl⟩, ⟨_, .cold rfl⟩, ⟨_, .warm rfl (by decide) rfl⟩, ⟨_, .ready rfl rfl⟩, ⟨_, .failed rfl rfl⟩, ⟨_, .noStart rfl rfl⟩, ⟨_, .cap rfl⟩,
    _, .clock rfl⟩

/-! The manual's worked examples, held against the shared operations. -/

/-- 04 R85, seed 0, stream 0, counters 0 and 1. -/
theorem test_draw : draw 0 0 0 = 0 ∧ draw 0 0 1 = 0x11FD02EB := by decide +kernel
/-- 04, 1.3 to FP16, BF16, E5M2 and T8 under RTZ, RNE and RUP. -/
theorem test_convert :
    [Rnd.rtz, .rne, .rup].map (fun r => fp16.round ⟨r, 0, false⟩ (fp32.decode 0x3FA66666)) = [0x3D33, 0x3D33, 0x3D34]
      ∧ [Rnd.rtz, .rne, .rup].map (fun r => bf16.round ⟨r, 0, false⟩ (fp32.decode 0x3FA66666)) = [0x3FA6, 0x3FA6, 0x3FA7]
      ∧ [Rnd.rtz, .rne, .rup].map (fun r => e5m2.round ⟨r, 0, false⟩ (fp32.decode 0x3FA66666)) = [0x3D, 0x3D, 0x3E]
      ∧ [Rnd.rtz, .rne, .rup].map (fun r => t8Round ⟨r, 0, false⟩ (fp32.decode 0x3FA66666)) = [0x64, 0x65, 0x65] := by decide +kernel
/-- 04 R82, R83: the thresholds of SR. -/
theorem test_stochastic :
    t8Round ⟨.sr, 0xCCCCBFFF, false⟩ (fp32.decode 0x3FA66666) = 0x65 ∧ t8Round ⟨.sr, 0xCCCCC000, false⟩ (fp32.decode 0x3FA66666) = 0x64
      ∧ fp16.round ⟨.sr, 0x3FFFFFFF, false⟩ (fp32.decode 0x32800000) = 1
      ∧ fp16.round ⟨.sr, 0x40000000, false⟩ (fp32.decode 0x32800000) = 0 := by decide +kernel
/-- 04: rows of the conversion table, 1.0e6 and 2^−30. -/
theorem test_convert_range :
    fp16.round rne (fp32.decode 0x49742400) = 0x7C00 ∧ bf16.round rne (fp32.decode 0x49742400) = 0x4974
      ∧ e5m2.round rne (fp32.decode 0x49742400) = 0x7C ∧ t8Round rne (fp32.decode 0x49742400) = 0x7E
      ∧ fp16.round rne (fp32.decode 0x30800000) = 0 ∧ bf16.round rne (fp32.decode 0x30800000) = 0x3080
      ∧ t8Round rne (fp32.decode 0x30800000) = 0 := by decide +kernel
/-- 08 R176, MAXABS 5.0 with h = 2 and h = 0. -/
theorem test_qscale : qscaleFind .t8 2 0x40A00000 = some 0x82 ∧ qscaleFind .t8 0 0x40A00000 = some 0x80 := by decide +kernel
/-- 08 R174, the three lanes of the example. -/
theorem test_quantise :
    quantLane .t8 0x82 rne 0x40A00000 = (0x54, false) ∧ quantLane .t8 0x82 rne 0x3FA66666 = (0x3A, false)
      ∧ quantLane .t8 0x82 rne 0xC2200000 = (0xFE, true) ∧ dequantLane .t8 0x82 rne 0x54 = 0x40A00000
      ∧ dequantLane .t8 0x82 rne 0x3A = 0x3FA00000 ∧ dequantLane .t8 0x82 rne 0xFE = 0xC1F00000 := by decide +kernel
/-- 09 R205, the cells 1,000,000 and −3,000. -/
theorem test_drain : rneShift (1000000 * 2 ^ 30) 36 + 5 = 15630 ∧ rneShift (-3000 * 2 ^ 30) 36 + 5 = -42 := by decide +kernel
/-- 09 R195: element (r 5, c 10) of an FP16 array in Z-order with TSZ 3, STR1 256, without and with SWAP. -/
theorem test_z_order :
    elemOffset (BitVec.ofNat 512 (256 * 2 ^ 192 + 2 * 2 ^ 336 + 2 ^ 344 + 3 * 2 ^ 348)) 10 5 0 0 = 204
      ∧ elemOffset (BitVec.ofNat 512 (256 * 2 ^ 192 + 2 * 2 ^ 336 + 2 ^ 344 + 2 ^ 345 + 3 * 2 ^ 348)) 10 5 0 0 = 306 := by decide +kernel
/-- 10, the example of R217: the cell (3, 66) of plane 5 on tile 57, in the window. -/
theorem test_cell : cellOff 57 5 3 66 = 0x0E450708 := by decide
/-- 12 R263: the indices of the walk of 0x0000_1234_5678_9ABC. -/
theorem test_walk_indices :
    [1, 2, 3].map (fun l => tableIndex l 0x123456789ABC) = [0x004, 0x11A2, 0x1678] := by decide
/-- 12 R276: a line of zeros, one of equal words, one of small differences, and each read back. -/
theorem test_pack_line :
    packLine false 0 = (1, 0, 0) ∧ (packLine false 1).1 = 6 ∧ (packLine false 1).2.2 = 2 ∧ (packLine false 0x0200).1 = 7
      ∧ (packLine false 0x0200).2.2 = 3 ∧ unpackLine 6 (packLine false 1).2.1 = 1 ∧ unpackLine 7 (packLine false 0x0200).2.1 = 0x0200
      ∧ packLine false (5 * ((2 ^ 1024 - 1) / (2 ^ 32 - 1))) = (2, 5, 1) := by decide +kernel
/-- 13, the worked example: the partial of the six lanes. -/
theorem test_partial :
    foldGroup 0x512 1 0 [0x40A00000, 0xBF400000, 0, 0x7F800000, 0x7FC00000, 0x2B800000]
      = some ⟨0x512, 0x40A00000, 1, 1, 1, 0, [(0, 1), (15, 1), (17, 1)]⟩ := by decide +kernel
/-- CRC-64/ECMA-182 of the nine digits, the catalogued check value of the algorithm that 08 R184 names. -/
theorem test_crc64 : crc64 0 [0x31, 0x32, 0x33, 0x34, 0x35, 0x36, 0x37, 0x38, 0x39] = 0x6C40DF5F0B497347 := by decide +kernel
/-- CRC-32C of the same digits. -/
theorem test_crc32c : crc32c [0x31, 0x32, 0x33, 0x34, 0x35, 0x36, 0x37, 0x38, 0x39] = 0xE3069283#32 := by decide +kernel
/-- 01: tile (9, 3) is tile 57, on D1. -/
theorem test_tile : tileX 57 = 9 ∧ tileY 57 = 3 ∧ dieOf 57 = 1 := by decide
/-- 15: 1.5 and 3.25 through QFLT and QFIX with QFRAC 16. -/
theorem test_q32 : qfltLane 16 0x00018000 = 0x3FC00000 ∧ qfixLane 16 0x40500000 = 0x00034000 := by decide +kernel

/-! Single steps. -/

/-- 06, the example of LUI: `li s7, 0x0400` then `lui s7, 0x1000` keeps bits [15:0]. -/
theorem test_lui :
    ∃ t, exec (.lui p0 7 0x1000) (at_ .c (cS [0, 0, 0, 0, 0, 0, 0, 0x0400])) = .next t ∧ t.me.getS 7 = 0x10000400#64 := ⟨_, rfl, by decide +kernel⟩
/-- 06 R123: the high half of a signed product that is negative. -/
theorem test_mulh :
    ∃ t, exec (.mulh p0 3 1 2) (at_ .c (cS [0, 0xFFFF_FFFF_FFFF_FFFF, 5])) = .next t ∧ t.me.getS 3 = 0xFFFF_FFFF_FFFF_FFFF#64 := ⟨_, rfl, by decide +kernel⟩
/-- 06 R123: the remainder takes the sign of the dividend. -/
theorem test_rem :
    ∃ t, exec (.rem p0 1 1 2) (at_ .c (cS [0, 0xFFFF_FFFF_FFFF_FFF9, 2])) = .next t ∧ t.me.getS 1 = 0xFFFF_FFFF_FFFF_FFFF#64 := ⟨_, rfl, by decide +kernel⟩

end Sys2Proof.Tests
end

section
/-! The division words of the C stream: each completes with its quotient or remainder, and the edges of 06 R124 give the values of
its table. -/

namespace Sys2Proof.Laws

open Sys2Proof.Machine Sys2Proof.Claims

/-! The values at the edges. -/

theorem divS_zero (x : Word) : divS x 0 = BitVec.allOnes 64 := if_pos rfl
theorem divU_zero (x : Word) : divU x 0 = BitVec.allOnes 64 := if_pos rfl
theorem remS_zero (x : Word) : remS x 0 = x := if_pos rfl
theorem remU_zero (x : Word) : remU x 0 = x := if_pos rfl
/-- The one quotient that overflows wraps to the dividend. -/
theorem divS_intMin_negOne : divS 0x8000_0000_0000_0000#64 0xFFFF_FFFF_FFFF_FFFF#64 = 0x8000_0000_0000_0000#64 := by decide
theorem remS_intMin_negOne : remS 0x8000_0000_0000_0000#64 0xFFFF_FFFF_FFFF_FFFF#64 = 0 := by decide

/-! The words. -/

/-- The word completes, having written `v` to register `d` and nothing else. -/
def completesWith (s : State) (i : Instr) (d : Reg) (v : Word) : Prop :=
  ∃ t, exec i s = .next t ∧ cDone s t (putR s.me.getS d v) (s.me.pred .c) s.me.c.held

section
variable {s : State} {g : Guard} {d a b : Reg}

theorem div_completes (h : cGo s g [a, b]) : completesWith s (.div g d a b) d (divS (s.me.getS a) (s.me.getS b)) := by
  unfold completesWith; rw [exec_div]; exact cAlu_ok h rfl
theorem divu_completes (h : cGo s g [a, b]) : completesWith s (.divu g d a b) d (divU (s.me.getS a) (s.me.getS b)) := by
  unfold completesWith; rw [exec_divu]; exact cAlu_ok h rfl
theorem rem_completes (h : cGo s g [a, b]) : completesWith s (.rem g d a b) d (remS (s.me.getS a) (s.me.getS b)) := by
  unfold completesWith; rw [exec_rem]; exact cAlu_ok h rfl
theorem remu_completes (h : cGo s g [a, b]) : completesWith s (.remu g d a b) d (remU (s.me.getS a) (s.me.getS b)) := by
  unfold completesWith; rw [exec_remu]; exact cAlu_ok h rfl

/-- No division word traps, whatever its operands. -/
theorem division_completes (h : cGo s g [a, b]) {i : Instr}
    (hi : i ∈ [Instr.div g d a b, .divu g d a b, .rem g d a b, .remu g d a b]) :
    ∃ t v, exec i s = .next t ∧ cDone s t (putR s.me.getS d v) (s.me.pred .c) s.me.c.held := by
  suffices hv : ∃ v, completesWith s i d v from exists_comm.1 hv
  simp only [List.mem_cons, List.not_mem_nil, or_false] at hi
  obtain rfl | rfl | rfl | rfl := hi
  · exact ⟨_, div_completes h⟩
  · exact ⟨_, divu_completes h⟩
  · exact ⟨_, rem_completes h⟩
  · exact ⟨_, remu_completes h⟩

theorem division_by_zero_completes (h : cGo s g [a, b]) (hb : s.me.getS b = 0) :
    completesWith s (.div g d a b) d (BitVec.allOnes 64) ∧ completesWith s (.divu g d a b) d (BitVec.allOnes 64)
      ∧ completesWith s (.rem g d a b) d (s.me.getS a) ∧ completesWith s (.remu g d a b) d (s.me.getS a) := by
  refine ⟨?_, ?_, ?_, ?_⟩
  · simpa only [hb, divS_zero] using div_completes (d := d) h
  · simpa only [hb, divU_zero] using divu_completes (d := d) h
  · simpa only [hb, remS_zero] using rem_completes (d := d) h
  · simpa only [hb, remU_zero] using remu_completes (d := d) h

theorem division_overflow_completes (h : cGo s g [a, b]) (ha : s.me.getS a = 0x8000_0000_0000_0000#64)
    (hb : s.me.getS b = 0xFFFF_FFFF_FFFF_FFFF#64) :
    completesWith s (.div g d a b) d 0x8000_0000_0000_0000#64 ∧ completesWith s (.rem g d a b) d 0 := by
  constructor
  · simpa only [ha, hb, divS_intMin_negOne] using div_completes (d := d) h
  · simpa only [ha, hb, remS_intMin_negOne] using rem_completes (d := d) h
end

/-- A core at reset, its operands in s1 and s2, is in the overflow case; s0 as the divisor is the case of zero. -/
theorem division_edges_witness :
    ∃ s : State, (cGo s p0 [1, 2] ∧ s.me.getS 1 = 0x8000_0000_0000_0000#64 ∧ s.me.getS 2 = 0xFFFF_FFFF_FFFF_FFFF#64)
      ∧ cGo s p0 [1, 0] ∧ s.me.getS 0 = 0 := by
  refine ⟨State.reset.setMe ((Core.fresh.setS 1 0x8000_0000_0000_0000#64).setS 2 0xFFFF_FFFF_FFFF_FFFF#64), ?_⟩
  unfold cGo; decide

/-- Settles O8: each division word is a computed result of the C stream, so it completes on every pair of operands; its value at the
edges is that of `divS`, `divU`, `remS` and `remU` there. -/
theorem divisionHasNoTrap : Obligations.DivisionHasNoTrap := by
  unfold Obligations.DivisionHasNoTrap
  intro s g d a b h
  exact ⟨fun i hi => division_completes h hi, fun hb => division_by_zero_completes h hb,
    fun ha hb => division_overflow_completes h ha hb⟩

end Sys2Proof.Laws
end

section
/-! WIDF (14 R309): its word in the C stream, the trap of a word that does not decode, and the field it reads. -/

namespace Sys2Proof.Laws

open Sys2Proof.Machine Sys2Proof.Claims

/-! Fields of a word that hold an operand. -/

theorem guard_code_lt (g : Guard) : g.code < 16 := by
  have hp := g.p.isLt
  unfold Guard.code b2n; split <;> omega
theorem gG_eq_of_code {w lo : Nat} {g : Guard} (h : w / 2 ^ lo % 16 = g.code) : gG w lo = g := by
  obtain ⟨neg, p⟩ := g
  have hp := p.isLt
  have hneg : bitOf w (lo + 3) = neg := by
    unfold bitOf; rw [pow_add, ← Nat.div_div_eq_div_mul]
    cases neg with
    | false => simp only [Guard.code, b2n, Bool.false_eq_true, if_false] at h; exact beq_eq_false_iff_ne.2 (by omega)
    | true => simp only [Guard.code, b2n, if_true] at h; exact beq_iff_eq.2 (by omega)
  have hidx : Fin.ofNat 8 (w / 2 ^ lo) = p := Fin.ext <| show w / 2 ^ lo % 8 = p.val by
    simp only [Guard.code] at h; omega
  simp only [gG, hneg, hidx]
theorem gF_eq_of_val {k w lo : Nat} [NeZero k] {d : Fin k} (h : w / 2 ^ lo % k = d.val) : gF k w lo = d := Fin.ext h

/-! The word. -/

/-- Bits [31:16] of a WIDF word: the C major 0x36, the guard, the destination. -/
def widfHigh (g : Guard) (d : Reg) : Nat := 0xEC00 + 32 * g.code + d.val

/-- A word of C major 0x36 is WIDF or has a reserved field: the later checks of 03 R65 refuse none of its readings. -/
theorem decode_c_major_widf {h l : Nat} (rest : List Nat) (hlong : ¬ h < 2 ^ 15) (hmaj : field (h * 2 ^ 16 + l) 25 6 = 0x36) :
    decode .c (h :: l :: rest) = need (zf (h * 2 ^ 16 + l) 3 13) (opt .reservedField (widfLev (field (h * 2 ^ 16 + l) 0 3))
      fun lev => .ok (.widf (gG (h * 2 ^ 16 + l) 21) (gF 32 (h * 2 ^ 16 + l) 16) lev)) := by
  generalize hw : h * 2 ^ 16 + l = w at hmaj ⊢
  have hrow : decodeC32 w = need (zf w 3 13) (opt .reservedField (widfLev (field w 0 3))
      fun lev => .ok (.widf (gG w 21) (gF 32 w 16) lev)) := by
    unfold decodeC32; rw [hmaj]; rfl
  simp only [decode, decodeFields, if_neg hlong, hw, decode32, hmaj, hrow]
  cases zf w 3 13 <;> cases widfLev (field w 0 3) <;> rfl

theorem decode_widfHigh (g : Guard) (d : Reg) {m n : Nat} (rest : List Nat) (hm : m < 2 ^ 13) (hn : n < 8) :
    decode .c (widfHigh g d :: (8 * m + n) :: rest)
      = need (m == 0) (opt .reservedField (widfLev n) fun lev => .ok (.widf g d lev)) := by
  have hg := guard_code_lt g
  have hd := d.isLt
  have hmaj : field (widfHigh g d * 2 ^ 16 + (8 * m + n)) 25 6 = 0x36 := by unfold field widfHigh; omega
  have hzero : zf (widfHigh g d * 2 ^ 16 + (8 * m + n)) 3 13 = (m == 0) := by
    unfold zf; congr 1; unfold field widfHigh; omega
  have hlev : field (widfHigh g d * 2 ^ 16 + (8 * m + n)) 0 3 = n := by unfold field widfHigh; omega
  have hguard : gG (widfHigh g d * 2 ^ 16 + (8 * m + n)) 21 = g := gG_eq_of_code (by unfold widfHigh; omega)
  have hdest : gF 32 (widfHigh g d * 2 ^ 16 + (8 * m + n)) 16 = d := gF_eq_of_val (by unfold widfHigh; omega)
  rw [decode_c_major_widf rest (by unfold widfHigh; omega) hmaj, hzero, hlev, hguard, hdest]

theorem decode_widf_level (g : Guard) (d : Reg) {n : Nat} (rest : List Nat) (h1 : 1 ≤ n) (h6 : n ≤ 6) :
    decode .c (widfHigh g d :: n :: rest) = .ok (.widf g d ⟨n - 1, by omega⟩) := by
  have hlev : widfLev n = some ⟨n - 1, by omega⟩ := by
    unfold widfLev; rw [if_pos ⟨h1, h6⟩]; exact congrArg some (Fin.ext (Nat.mod_eq_of_lt (by omega)))
  simpa [hlev, need, opt] using decode_widfHigh g d (m := 0) rest (by omega) (show n < 8 by omega)

theorem decode_widf_reserved (g : Guard) (d : Reg) {m n : Nat} (rest : List Nat) (hm : m < 2 ^ 13) (hn : n < 8)
    (h : ¬ (m = 0 ∧ 1 ≤ n ∧ n ≤ 6)) : decode .c (widfHigh g d :: (8 * m + n) :: rest) = .error .reservedField := by
  rw [decode_widfHigh g d rest hm hn]
  by_cases hm0 : m = 0
  · have hlev : widfLev n = none := if_neg (fun hl => h ⟨hm0, hl⟩)
    rw [hlev]; unfold need; split <;> rfl
  · exact if_neg (by simpa using hm0)

/-! A word that does not decode. -/

/-- The move of a stream that stands at a word, where the halfwords there have a fate. -/
theorem agentMove_fate {s : State} {ag : Agent} {f : Fate} (hw : standsAtWord s ag) (hf : s.fetch ag = .error f) :
    s.agentMove ag = .fate f := by
  obtain ⟨hmode, hphase, hstop, htraps, hsent, hma, hmx, hbrk⟩ := hw
  have hmay : s.mayIssue ag = true := by
    obtain ⟨core, st⟩ := ag
    cases st with
    | c => simp [State.mayIssue, hstop, hsent]
    | a => simp [State.mayIssue, hstop, htraps, hma]
    | x => simp [State.mayIssue, hstop, htraps, hmx]
  have hatBreak : s.atBreak ag = false := by simp [State.atBreak, hbrk]
  simp [State.agentMove, State.issueMove, hmode, hphase, hmay, hatBreak, hf]

/-- A decode trap at a C word with no prefix before it gives the word's address and its bits (03 R66). -/
theorem fateOf_c {s : State} {core : Nat} (f : Fate) (hphase : (s.core core).c.pos.phase = .words)
    (hpfx : (s.core core).c.pos.pfx = none) :
    s.fateOf ⟨core, .c⟩ f = .next (({ s with who := ⟨core, .c⟩ } : State).trapOf ⟨core, .c⟩ (fateCause f) (s.core core).c.pos.pc
      (wordBits ((s.core core).halfwords .c (s.core core).c.pos.pc 2))) := by
  have hpos : ({ s with who := ⟨core, .c⟩ } : State).pos = (s.core core).c.pos := rfl
  simp only [State.fateOf, hpos, hphase, State.fateTrap, State.encTrap, hpfx, State.trap_next, reduceCtorEq, if_false]
  rfl

/-- A trap of the C stream names the address of its block (03 R66). -/
theorem trapOf_c_traps {s : State} {core : Nat} (cause : Cause) (i0 i1 : Nat) (htraps : (s.core core).traps = []) :
    ((s.trapOf ⟨core, .c⟩ cause i0 i1).core core).traps = [⟨0, 0, 0, cause, (s.core core).c.pos.blk, i0, i1⟩] := by
  obtain ⟨p, hp⟩ := Core.raising_c (s.core core) cause i0 i1
  rw [trapOf_core, hp, htraps]; rfl

/-- A step of a C stream that stands at a word with no prefix, where the halfwords there have a fate, traps as the fate says. -/
theorem step_fate {s : State} {ag : Agent} {f : Fate} (hturn : s.turn = some ag) (hw : standsAtWord s ag) (hst : ag.st = .c)
    (hpfx : (s.core ag.core).c.pos.pfx = none)
    (hf : decode .c ((s.core ag.core).halfwords .c (s.core ag.core).c.pos.pc 6) = .error f) :
    ∃ t info, step s = .next t ∧ (t.core ag.core).traps
      = [⟨0, 0, 0, fateCause f, (s.core ag.core).c.pos.blk, (s.core ag.core).c.pos.pc, info⟩] := by
  obtain ⟨core, st⟩ := ag
  subst hst
  have hmove : ({ s with turn := none } : State).agentMove ⟨core, .c⟩ = .fate f := agentMove_fate hw hf
  have hstep : step s = ({ s with turn := none } : State).fateOf ⟨core, .c⟩ f := by
    unfold step runAgent; rw [hturn]; simp only [hmove]
  obtain ⟨-, hphase, -, htraps, -⟩ := hw
  exact ⟨_, _, hstep.trans (fateOf_c f hphase hpfx), trapOf_c_traps _ _ _ htraps⟩

/-! What it reads, and when it delivers. -/

theorem ofNat_widField (img : BitVec 2048) (wid lev : Nat) :
    BitVec.ofNat 64 (widField img wid lev) = if recWidw img lev = 0 then 0
      else BitVec.ofNat 64 (wid / 2 ^ ((List.range lev).map (recWidw img)).sum % 2 ^ recWidw img lev) := by
  unfold widField field
  split
  · next h => rw [h, pow_zero, Nat.mod_one]; rfl
  · rfl

/-- A register that a word writes with latency 1 is delivered in the next cycle (06 R122). -/
theorem busy_delivers_one (ready : List (Nat × Nat)) (now : Nat) (d : Reg) :
    busy (delivers ready now d 1) (now + 1) [d] = false := by
  simp only [busy, delivers, Nat.le_refl, decide_true, Bool.true_or, if_true, List.any_eq_false, List.mem_filter]
  rintro e ⟨-, he⟩
  simp only [List.any_cons, List.any_nil, Bool.or_false, Bool.and_eq_true, decide_eq_true_eq, bne_iff_ne, beq_iff_eq] at he ⊢
  exact fun h => he.2 h.2.symm

theorem retireC_ready (c : Core) (now : Nat) : (c.retireC now).c.ready = c.c.ready := rfl
theorem setS_c (c : Core) (d : Reg) (v : Word) : (c.setS d v).c = c.c := by
  obtain ⟨v', e, hw, -⟩ := Core.setS_eq c d v
  rw [hw]
theorem cWrite_ready (s : State) (d : Reg) (v : Word) (lat : Nat) :
    (s.cWrite d v lat).me.c.ready = delivers s.me.c.ready s.now d lat := by
  simp only [State.cWrite, State.me_setMe, setS_c]
theorem retire_cWrite_ready (s : State) (d : Reg) (v : Word) (lat : Nat) (hst : s.who.st = .c) :
    (s.cWrite d v lat).retire.me.c.ready = delivers s.me.c.ready s.now d lat := by
  rw [State.retire_c (s.cWrite d v lat) hst, State.me_setMe, retireC_ready, cWrite_ready]

/-- A C word that computes a register with latency 1 completes, and delivers in the next cycle. -/
theorem cAlu_one_ok {s : State} {g : Guard} {srcs : List Reg} {d : Reg} {v : Word} {f : Core → Word} (h : cGo s g srcs) (hf : f s.me = v) :
    ∃ t, cAlu s g srcs d 1 f = .next t ∧ cDone s t (putR s.me.getS d v) (s.me.pred .c) s.me.c.held
      ∧ busy t.me.c.ready (s.now + 1) [d] = false := by
  obtain ⟨t, ht, hdone⟩ := cAlu_ok (d := d) (lat := 1) h hf
  obtain ⟨hst, hg, hb, he⟩ := h
  rw [cAlu_go hg hb he] at ht
  obtain rfl := Host.Outcome.next.inj ht
  exact ⟨_, cAlu_go hg hb he, hdone, by rw [retire_cWrite_ready s d _ 1 hst, busy_delivers_one]⟩

theorem execWidf_ok {s : State} {g : Guard} {d : Reg} {lev : Fin 6} {r : Nat} (h : cGo s g []) (hr : s.me.lr = some r) :
    ∃ t, execWidf g d lev s = .next t
      ∧ cDone s t (putR s.me.getS d (BitVec.ofNat 64 (widField (s.rcd r).img (s.me.sysReg 9).toNat lev.val))) (s.me.pred .c) s.me.c.held
      ∧ busy t.me.c.ready (s.now + 1) [d] = false :=
  cAlu_one_ok h (by rw [hr])

/-- A core at reset whose record gives its work identifier two fields, of 4 and of 8 bits, reads 0xBC as the second of 0xABCD. -/
theorem widf_witness :
    ∃ s : State, cGo s p0 [] ∧ s.me.lr = some 3 ∧ recWidw (s.rcd 3).img 0 = 4 ∧ recWidw (s.rcd 3).img 1 = 8
      ∧ ∃ t, exec (.widf p0 10 1) s = .next t ∧ t.me.getS 10 = 0xBC := by
  refine ⟨{ State.reset.setMe { Core.fresh.setSys 9 0xABCD with lr := some 3 } with
    recs := [(3, { Rec.fresh with img := BitVec.ofNat 2048 ((4 + 8 * 2 ^ 6) * 2 ^ (8 * 0x38)) })] }, ?_, rfl, ?_, ?_, _, rfl, ?_⟩
  · unfold cGo; decide
  all_goals decide +kernel

/-- Settles O9: the word decodes by its fields, a reserved level or a bit of [15:3] gives the fate whose trap the step takes, and the
word itself is a computed result of latency 1. -/
theorem widfReadsItsField : Obligations.WidfReadsItsField := by
  unfold Obligations.WidfReadsItsField
  refine ⟨?_, ?_, ?_⟩
  · intro g d m n hm hn
    split
    · next h =>
      obtain ⟨rfl, h1, h6⟩ := h
      rw [Nat.mul_zero, Nat.zero_add]
      exact decode_widf_level g d [] h1 h6
    · next h => exact decode_widf_reserved g d [] hm hn h
  · intro s ag g d n rest hn hturn hw hst hpfx hhw
    refine step_fate (f := .reservedField) hturn hw hst hpfx ?_
    rw [hhw]
    obtain rfl | rfl := hn
    · exact decode_widf_reserved g d (m := 0) (n := 0) rest (by decide) (by decide) (by decide)
    · exact decode_widf_reserved g d (m := 0) (n := 7) rest (by decide) (by decide) (by decide)
  · rintro s g d lev r off n v hgo hr rfl rfl rfl
    rw [exec_widf, ← ofNat_widField]
    exact execWidf_ok hgo hr

end Sys2Proof.Laws
end

section
/-! Starts (17 R374): the heartbeat unit that each tile holds after a cold or warm start, and HBC when the start has completed. -/

namespace Sys2Proof.Machine

theorem Map.get_map {α β : Type} (f : α → β) (d : α) (m : Map α) (k : Nat) :
    Map.get (f d) (m.map (fun e => (e.1, f e.2))) k = f (Map.get d m k) := by
  induction m with
  | nil => rfl
  | cons e m ih => simp only [List.map_cons, Map.get, ih, apply_ite f]

end Sys2Proof.Machine

namespace Sys2Proof.Laws

open Sys2Proof.Machine Sys2Proof.Claims

/-! The heartbeat unit of a start. -/

/-- A heartbeat unit at its reset value but for the appeal counter, which only a loss of power clears (17 R372). -/
def startHbu (appeals : Nat) : Hbu := { Hbu.fresh with appeals := appeals }

@[simp] theorem startHbu_appeals (n : Nat) : (startHbu n).appeals = n := rfl
@[simp] theorem startHbu_nbr (n : Nat) (d : Fin 4) : (startHbu n).nbr[d] = Nbr.fresh := Vector.getElem_replicate _
@[simp] theorem startHbu_at (n d : Nat) : (startHbu n).at_ d = Nbr.fresh := by
  change (Vector.replicate 4 Nbr.fresh).getD d Nbr.fresh = Nbr.fresh
  by_cases hd : d < 4 <;> simp [Vector.getD, hd]
/-- APPEALS is bits [97:96] of HBSTAT (17 R373); a start leaves no other field of it. -/
theorem startHbu_stat (n : Nat) : (startHbu n).stat = n * 2 ^ 96 := by
  have hnbr : Nbr.fresh.stat = 0 := rfl
  have hself : (startHbu n).self = 0 := rfl
  simp [Hbu.stat, hnbr, hself, b2n]

/-! Starts. -/

/-- What a start makes of a tile: all of it new but the appeal counter and, with `keepSuspects`, the suspect scores (18 R378). -/
def startTile (keepSuspects : Bool) (ti : Tile) : Tile :=
  { Tile.fresh with
    hb := startHbu ti.hb.appeals
    susp := if keepSuspects then { ti.susp with reqAt := 0 } else Tile.fresh.susp }

theorem startTile_fresh (keepSuspects : Bool) : startTile keepSuspects Tile.fresh = Tile.fresh := by cases keepSuspects <;> rfl
theorem started_tile (s : State) (keepDram keepSuspects : Bool) (k : Nat) :
    (s.started keepDram keepSuspects).tile k = startTile keepSuspects (s.tile k) := by
  have h := Map.get_map (startTile keepSuspects) Tile.fresh s.tiles k
  rwa [startTile_fresh] at h
theorem started_hb (s : State) (keepDram keepSuspects : Bool) (k : Nat) :
    (s.started keepDram keepSuspects).hb k = startHbu (s.hb k).appeals := by
  rw [State.hb, started_tile]; rfl
@[simp] theorem started_fencedC (s : State) (keepDram keepSuspects : Bool) : (s.started keepDram keepSuspects).fencedC = [] := rfl
@[simp] theorem started_fencedR (s : State) (keepDram keepSuspects : Bool) : (s.started keepDram keepSuspects).fencedR = [] := rfl

/-- Either event makes the start of a package, whatever it keeps. -/
theorem exec_start_eq_started {s : State} {i : Instr} (h : i = .coldStart ∧ s.ev = .coldStart ∨ i = .warmStart ∧ s.ev = .warmStart) :
    ∃ keepDram keepSuspects, exec i s = .next (s.started keepDram keepSuspects) := by
  obtain ⟨rfl, hev⟩ | ⟨rfl, hev⟩ := h
  · exact ⟨false, false, by rw [exec_coldStart, execColdStart, hev]⟩
  · rw [exec_warmStart, execWarmStart, hev]
    by_cases hf : s.pkg.fails < 3
    · exact ⟨s.pkg.keep, true, by rw [if_pos hf]⟩
    · exact ⟨false, false, by rw [if_neg hf]⟩

theorem hbc_of_hbc0_now {t : State} (h : t.hbc0 = some t.now) : t.hbc = 0 := by
  rw [State.hbc, h]; exact Nat.sub_self _

/-- HBC starts in the cycle in which the start completes, and the beats of its epoch 0 are sent in that cycle (17 R358). -/
theorem startComplete_beats {s : State} (hev : s.ev = .startComplete true) (hgo : s.pkg.go = true) :
    ∃ t, exec .startComplete s = .next t ∧ t.now = s.now ∧ t.hbc0 = some s.now ∧ (2 * s.now, Event.beatSend 0) ∈ t.agenda := by
  rw [exec_startComplete, execStartComplete, hev]
  simp only [hgo, Bool.not_true, Bool.false_eq_true, if_false, if_true]
  exact ⟨_, rfl, rfl, rfl, mem_agendaPut_of_mem (agendaPut_mem _ _ _)⟩

/-- Tile 57 accuses and router-fences a neighbour, is fenced itself and has appealed twice: of HBSTAT a cold start leaves only APPEALS. -/
theorem coldStart_witness :
    ∃ s : State, s.ev = .coldStart ∧ (s.hb 57).nbr[(1 : Fin 4)].vote = 2 ∧ (s.hb 57).nbr[(1 : Fin 4)].fence = 2 ∧ s.fencedR = [58]
      ∧ (s.hb 57).stat ≠ 2 * 2 ^ 96
      ∧ ∃ t, exec .coldStart s = .next t ∧ t.fencedR = [] ∧ (t.hb 57).stat = 2 * 2 ^ 96 := by
  refine ⟨{ State.reset.setHb 57 ({ Hbu.fresh with appeals := 2, self := 1 }.put 1 { Nbr.fresh with vote := 2, fence := 2 }) with
    ev := .coldStart, fencedR := [58] }, rfl, rfl, rfl, rfl, ?_, _, rfl, rfl, ?_⟩
  · decide
  · rw [started_hb]; exact startHbu_stat 2

/-- A start that completes in cycle 9 counts HBC from there. -/
theorem startComplete_witness :
    ∃ s : State, s.ev = .startComplete true ∧ s.pkg.go = true ∧ s.now = 9 ∧ s.hbc0 = none
      ∧ ∃ t, exec .startComplete s = .next t ∧ t.hbc = 0 ∧ ({ t with now := 12 } : State).hbc = 3 :=
  ⟨{ State.reset with ev := .startComplete true, pkg := { Package.fresh with go := true }, now := 9, hbc0 := none, agenda := [] },
    rfl, rfl, rfl, rfl, _, rfl, rfl, rfl⟩

/-- Settles O10: either start leaves no fence and, in each tile, a heartbeat unit at reset but for its appeals; the start's completion
takes the present cycle as HBC 0. -/
theorem startsResetHeartbeats : Obligations.StartsResetHeartbeats := by
  unfold Obligations.StartsResetHeartbeats
  constructor
  · intro s i h
    obtain ⟨keepDram, keepSuspects, hnext⟩ := exec_start_eq_started h
    refine ⟨_, hnext, started_fencedC _ _ _, started_fencedR _ _ _, fun k => ?_⟩
    rw [started_hb]
    exact ⟨fun d => by rw [startHbu_nbr]; exact ⟨rfl, rfl⟩, startHbu_appeals _, startHbu_stat _⟩
  · intro s hev hgo
    obtain ⟨t, hnext, hnow, hstart, hbeat⟩ := startComplete_beats hev hgo
    exact ⟨t, hnext, hbc_of_hbc0_now (by rw [hstart, hnow]), hbeat⟩

end Sys2Proof.Laws
end
